-- ==== Sys2Proof/Word.lean ====
section
/-! DEFINITION. The word types of the Dygen block and the sparse map that holds its addressed storages. -/

namespace Sys2Proof

/-- A register, packet or memory word (00 Conventions). -/
abbrev Word := BitVec 32

/-- One byte. -/
abbrev Byte := BitVec 8

/-- One 128-byte line of the memory port, one tile row or one WAS row (17 R398, 01 R22, 15 R442). -/
abbrev Line := BitVec 1024

/-- A storage keyed by row or slot number: strictly rising keys, and no entry equal to the value that
an unlisted key reads as (`Machine.sparseWf` says so). -/
abbrev Sparse (α : Type) := List (Nat × α)

end Sys2Proof
end

