-- ==== Sys2Proof/Syntax.lean ====
section
/-! DEFINITION. The commands and events of the Dygen block: one constructor per row of spec/opcode_table.json,
with the row's operands. What only the physical part or the host knows comes as an operand (log 1, 6, 7). -/

namespace Sys2Proof

/-- What a read of a DEC-TED codeword met (15 R355-R357): positions of the corrected bits, or three
or more wrong bits and the data bits as read. -/
inductive EccKind where
  | corrected (pos0 : BitVec 7) (pos1 : Option (BitVec 7))
  | uncorrectable (read : BitVec 64)
  deriving DecidableEq, Repr

/-- A word error met by a read: the storage code of ECC_LOG0, the requester code, the word index of
15 R363, and what the code found. -/
structure EccHit where
  storage : BitVec 3
  requester : BitVec 3
  word : BitVec 16
  kind : EccKind
  deriving DecidableEq, Repr

/-- A word error met by a scrub read of one unit (15 R365): in the row's tag, or in one of its words. -/
structure ScrubHit where
  inTag : Bool
  word : BitVec 4
  kind : EccKind
  deriving DecidableEq, Repr

/-- A retry unit whose evaluation failed the residue check (15 R353, R354): its number within the piece of work, whether
the rerun failed too, the logical lane column of the failure, and for a pass its failing stage. -/
structure ResidueFail where
  unit : BitVec 10
  twice : Bool
  column : BitVec 5
  stage : BitVec 3
  deriving DecidableEq, Repr

/-- The physical mishaps of one piece of work: the retry units that failed the residue check, in increasing number, and
the words that its reads met. -/
structure Mishap where
  residue : List ResidueFail
  ecc : List EccHit
  deriving DecidableEq, Repr

/-- Nothing went wrong. -/
def Mishap.none : Mishap := ⟨[], []⟩

/-- The straps sampled at the release of PORESET_N (17 R412). -/
structure StrapPins where
  instanceId : BitVec 12
  twinSide : Bool
  mxaGeom : BitVec 16
  fwKeyHash : BitVec 384
  deriving DecidableEq, Repr

/-- What the partner shows this twin (13 R306, R307, R314). -/
inductive PartnerState where
  | attached
  | detached
  | failed
  | solo
  deriving DecidableEq, Repr

/-- The physical outcome of the Dawn step about to run; each step reads the fields that concern it (16). -/
structure DawnOutcome where
  /-- D1, D2: the memories are sound or repaired. -/
  memoryOk : Bool
  /-- D5: the length of the image at FW_ADDR in 128-byte lines, less one, and its version when it authenticates. -/
  imageLines : BitVec 16
  firmware : Option (BitVec 16)
  /-- D6: the physical column that fails the self-test, if one does. -/
  failedColumn : Option (BitVec 6)
  /-- D6: the retry over the spare passes. -/
  retryPasses : Bool
  /-- D7: the lane record's parity check holds. -/
  laneParityOk : Bool
  /-- D8: the measured trims are in range, and what they are. -/
  trimOk : Bool
  roCount : BitVec 16
  droopTrim : BitVec 6
  roTrim : BitVec 6
  deriving DecidableEq, Repr

/-- The clock counts of one Starlog interval (15 Starlog record, words 2-7 and 10). -/
structure StarlogSample where
  time : BitVec 64
  busy : Word
  laneIssue : Word
  arrayOpen : Word
  throttled : Word
  deriving DecidableEq, Repr

/-- What a thief knows of its partner's executing command (13 R316, R317). -/
structure StealOffer where
  opcode : Byte
  prog : BitVec 6
  imageCrc : Word
  statIn : Bool
  band : Word
  deriving DecidableEq, Repr

/-- What a thief reports with a finished band (13 R318): count increments by counter slot, the first NaN
event as TRAP_REC words, and cross-band S data (06 R168): folding micro-op, row, field, value, in fold order. -/
structure StealReport where
  band : Word
  counts : List (BitVec 7 × BitVec 40)
  nan : Option (Word × Word × Word × Word × Word)
  sdata : List (BitVec 7 × BitVec 5 × BitVec 3 × Word)
  /-- The CRC register, from zero, over the canonical row checks of the band of each sealed tensor and over the
  band's records of each statistics export, by 128 × band + descriptor position (10 R255, 06 R164). -/
  crcs : List (Word × Word)
  deriving DecidableEq, Repr

/-- The rows of the opcode table. The twenty queue commands act on the command that is executing; the
others are register-port accesses, events of the sequencer and of the ports, pins and background work. The word errors that
reads met are none unless they are given. -/
inductive Instr where
  | nop | config | chainLoad
  | chainRun (m : Mishap) | productRun (m : Mishap) | linkRun (m : Mishap) | quantize (m : Mishap)
  | copy (m : Mishap) | partialExport (m : Mishap) | partialMerge (m : Mishap)
  | seal | fence | pairMode | resume | abort | ctxSave (ecc : List EccHit := []) | ctxRestore | query | dusk | dawn
  | doorbell (q : BitVec 2) (v : Word)
  | replyTailWrite (v : Word)
  | queueEnableWrite (q : BitVec 2) (v : Word)
  | numCfgWrite (v : Word)
  | trapRecordClear (v : Word)
  | errStatusClear (v : Word)
  | eccLogClear (v : Word)
  | eccCeLogRead
  | errRecordClear (v : Word)
  | pairDivergeClear (v : Word)
  | pairStatusClear (v : Word)
  | ctxLogRead
  | counterRead (addr : BitVec 16)
  | counterClear (addr : BitVec 16) (v : Word)
  | clearAll (v : Word)
  | dbgSelWrite (v : Word)
  | debugCapture (e : Option EccKind)
  | rotate (v : Word)
  | laneRotation
  | forget (v : Word)
  | registerWrite (addr : BitVec 16) (v : Word)
  | packetFetch (q : BitVec 2)
  | commandBegin
  | commandResume
  | commandSuspend (ecc : List EccHit := [])
  | tileCommit (m : Mishap)
  | replyWrite
  | fenceSatisfied (q : BitVec 2)
  | pairModeJoin (mode : BitVec 2) (ecc : List EccHit := [])
  | pairModeTimeout
  | tokenHandover
  | pairTokenSignal (tok : BitVec 4) (gnt : BitVec 2)
  | memReadData (tag : BitVec 7) (idx : BitVec 16) (data : Line) (check : Word) (info : BitVec 20) (poison : Bool)
  | writeResponse (tag : BitVec 6)
  | atpResponse (id : BitVec 6) (pa : BitVec 40) (size : BitVec 2) (fault : Bool)
  | mxaDrainBeat (hdr : BitVec 64) (data : BitVec 4096) (m : Mishap)
  | pairDataBeat (data : Line) (sb : BitVec 112)
  | pairCredit
  | pairCheck (chk : Word)
  | lockstepCheckTimeout
  | pairAliveChange (p : PartnerState)
  | bandSteal (o : StealOffer)
  | stealClaim (band : Word)
  | stealBandDone (r : StealReport)
  | scrubUnit (hits : List ScrubHit)
  | scrubWriteback
  | scrubStarvationGrant (bank : BitVec 5) (wb : Bool) (hits : List ScrubHit := [])
  | backgroundAgePromote
  | calibrationTrim (ok : Bool) (roCount : BitVec 16) (droop ro : BitVec 6)
  | droopEvent
  | starlogRecord (x : StarlogSample)
  | starlogRecordWrite
  | enHigh | enLow | preemptReq | fenceRise | fenceFall
  | throttleChange (level : BitVec 2)
  | syncInPulse | syncTimeout
  | poreset (p : StrapPins)
  | wreset
  | dawnSequence (o : DawnOutcome)
  | duskSequence
  | wrapperReset | wsBypass | wsExtest | wsIntest | mbistRun | mbistResult
  | mbistDone (fail : Bool) (memory : BitVec 6) (addr : BitVec 56)
  deriving DecidableEq, Repr

end Sys2Proof
end

