-- ==== Sys2Proof/Decode.lean ====
section
/-! DEFINITION. Decoding of opcode-table words. No row of spec/opcode_table.json gives bits: the block takes commands, and
its packets and micro-ops are decoded where they are met (Machine/Descriptor.lean, Machine/Program.lean). -/

namespace Sys2Proof

/-- The command that a word spells by the table's bits: none, since the table gives no row any bits (log 4). -/
def decodeTableWord (_nbits _w : Nat) : Option Instr := none

end Sys2Proof
end

