-- ==== Sys2Proof/Machine/Bits.lean ====
section
/-! DEFINITION. Bit fields, little-endian packing, sparse storages and the CRC-32C of 15 R349. -/

namespace Sys2Proof.Machine

/-- Bits [lo + len - 1 : lo] of `n`. -/
def bits (n lo len : Nat) : Nat := (n >>> lo) % 2 ^ len

/-- Bit `k` of `n`. -/
def bit (n k : Nat) : Bool := n.testBit k

/-- Two's complement value of the low `w` bits of `n`. -/
def toSigned (w n : Nat) : Int :=
  let m := n % 2 ^ w
  if m < 2 ^ (w - 1) then (m : Int) else (m : Int) - 2 ^ w

/-- The low `w` bits of the two's complement of `x`. -/
def ofSigned (w : Nat) (x : Int) : Nat := (x % (2 ^ w : Int)).toNat

/-- The `count` fields of `w` bits of `n`, least significant first. -/
def unpack (w : Nat) : Nat → Nat → List Nat
  | 0, _ => []
  | k + 1, n => n % 2 ^ w :: unpack w k (n >>> w)

/-- The inverse of `unpack`: the fields of `w` bits joined, the first lowest. -/
def pack (w : Nat) : List Nat → Nat
  | [] => 0
  | x :: xs => x % 2 ^ w + (pack w xs) <<< w

/-- Ceiling division. -/
def cdiv (a b : Nat) : Nat := (a + b - 1) / b

/-- Element `i` of a list of numbers, 0 beyond its end. -/
def nth (l : List Nat) (i : Nat) : Nat := l.getD i 0

/-- Replace element `i` of a list. -/
def setNth {α : Type} (l : List α) (i : Nat) (v : α) : List α := l.set i v

/-- The numbers of `l` once each, first occurrences kept. -/
def dedup : List Nat → List Nat
  | [] => []
  | x :: xs => x :: (dedup xs).filter (fun y => y != x)

/-! ### Sparse storages -/

/-- What key `k` reads as; `d` where nothing is listed. -/
def sget {α : Type} (d : α) : Sparse α → Nat → α
  | [], _ => d
  | (k', v) :: m, k => if k = k' then v else if k < k' then d else sget d m k

/-- Remove key `k`. -/
def serase {α : Type} : Sparse α → Nat → Sparse α
  | [], _ => []
  | (k', v) :: m, k => if k = k' then m else if k < k' then (k', v) :: m else (k', v) :: serase m k

/-- Insert `v` under key `k`, in order. -/
def sput {α : Type} : Sparse α → Nat → α → Sparse α
  | [], k, v => [(k, v)]
  | (k', v') :: m, k, v =>
    if k = k' then (k, v) :: m
    else if k < k' then (k, v) :: (k', v') :: m
    else (k', v') :: sput m k v

/-- Write `v` under key `k`; writing the default removes the entry, so equal storages are equal data. -/
def sset {α : Type} [DecidableEq α] (d : α) (m : Sparse α) (k : Nat) (v : α) : Sparse α :=
  if v = d then serase m k else sput m k v

/-- Every key of `m` lies above `b`, in rising order, and no value is the default. -/
def sparseAbove {α : Type} [DecidableEq α] (d : α) (b : Option Nat) : Sparse α → Bool
  | [] => true
  | (k, v) :: m =>
    (match b with | none => true | some b => decide (b < k)) && decide (v ≠ d) && sparseAbove d (some k) m

/-- The canonical form of a sparse storage with default `d`. -/
def sparseWf {α : Type} [DecidableEq α] (d : α) (m : Sparse α) : Bool := sparseAbove d none m

/-- Write a run of entries. -/
def ssetAll {α : Type} [DecidableEq α] (d : α) (m : Sparse α) (kvs : List (Nat × α)) : Sparse α :=
  kvs.foldl (fun m kv => sset d m kv.1 kv.2) m

/-! ### CRC-32C (15 R349) -/

/-- `k` reflected steps of polynomial 0x1EDC_6F41. -/
def crcShift : Nat → Nat → Nat
  | 0, c => c
  | k + 1, c => crcShift k (if c % 2 = 1 then (c >>> 1) ^^^ 0x82F63B78 else c >>> 1)

/-- The running CRC over the `len` low bytes of `n`, lowest first. -/
def crcRun : Nat → Nat → Nat → Nat
  | 0, c, _ => c
  | len + 1, c, n => crcRun len (crcShift 8 (c ^^^ (n % 256))) (n >>> 8)

/-- CRC-32C of the `len` low bytes of `n` (15 R349). -/
def crc32c (len n : Nat) : Nat := crcRun len 0xFFFFFFFF n ^^^ 0xFFFFFFFF

/-- CRC-32C of a list of little-endian 32-bit words. -/
def crcWords (ws : List Nat) : Nat := crc32c (4 * ws.length) (pack 32 ws)

/-- The row check of a 128-byte row. -/
def rowCheck (data : Line) : Word := BitVec.ofNat 32 (crc32c 128 data.toNat)

/-- The CRC over 128 zero bytes: the check of a WAS row that D3 has cleared (15 R442). -/
def zeroRowCheck : Word := rowCheck 0

end Sys2Proof.Machine
end

