-- ==== Sys2Proof/Machine/Formats.lean ====
section
/-! DEFINITION. The sixteen number formats, exact values, rounding and conversion (02 R44-R65, 03 R66-R72, R82, R83). -/

namespace Sys2Proof.Machine

/-- An exact value: NaN, an infinity, or a signed fraction `num / den` (`den > 0`), zero signed. -/
inductive XVal where
  | nan
  | inf (neg : Bool)
  | fin (neg : Bool) (num den : Nat)
  deriving DecidableEq, Repr

/-- The parameters of a floating-point format: mantissa bits, bias, code of the largest finite
magnitude, code of infinity and canonical NaN where it has them (02 R44, R45). -/
structure FloatParams where
  mant : Nat
  bias : Int
  maxCode : Nat
  infCode : Option Nat
  nanCode : Option Nat
  deriving DecidableEq, Repr

/-- Bits of one element of format `f` (02 R44). -/
def fmtBits : Nat → Nat
  | 0 => 32 | 1 => 16 | 2 => 16 | 3 => 8 | 4 => 8 | 5 => 6 | 6 => 6 | 7 => 4 | 8 => 8 | 9 => 4
  | 10 => 4 | 11 => 2 | 12 => 8 | 13 => 64 | 14 => 64 | _ => 32

/-- Columns of a tile row of format `f` (01 R22); 32 for the wide formats. -/
def tileWidth : Nat → Nat
  | 0 => 32 | 1 => 64 | 2 => 64 | 3 => 128 | 4 => 128 | 5 => 128 | 6 => 128 | 7 => 256 | 8 => 128
  | 9 => 256 | 10 => 256 | 11 => 512 | 12 => 128 | _ => 32

/-- The floating-point parameters of a format (02 R44, R45). -/
def floatParams : Nat → Option FloatParams
  | 0 => some ⟨23, 127, 0x7F7FFFFF, some 0x7F800000, some 0x7FC00000⟩
  | 1 => some ⟨7, 127, 0x7F7F, some 0x7F80, some 0x7FC0⟩
  | 2 => some ⟨10, 15, 0x7BFF, some 0x7C00, some 0x7E00⟩
  | 3 => some ⟨3, 7, 0x7E, none, some 0x7F⟩
  | 4 => some ⟨2, 15, 0x7B, some 0x7C, some 0x7E⟩
  | 5 => some ⟨3, 1, 0x1F, none, none⟩
  | 6 => some ⟨2, 3, 0x1F, none, none⟩
  | 7 => some ⟨1, 1, 0x7, none, none⟩
  | 13 => some ⟨52, 1023, 0x7FEFFFFFFFFFFFFF, some 0x7FF0000000000000, some 0x7FF8000000000000⟩
  | _ => none

/-- Floating-point formats (04 F). -/
def isFloat (f : Nat) : Bool := f ≤ 7
/-- F3 = {0, 1, 2}. -/
def isF3 (f : Nat) : Bool := f ≤ 2
/-- Integer formats I = {8, 9, 10, 15}. -/
def isInt (f : Nat) : Bool := f = 8 || f = 9 || f = 10 || f = 15
/-- I with T2 added. -/
def isIntT (f : Nat) : Bool := isInt f || f = 11

/-- The range of an integer or T2 target (02 R44). -/
def intRange : Nat → Int × Int
  | 8 => (-128, 127) | 9 => (-8, 7) | 10 => (-4, 3) | 11 => (-1, 1)
  | 14 => (-2 ^ 63, 2 ^ 63 - 1) | _ => (-2 ^ 31, 2 ^ 31 - 1)

/-- `m × 2^e` as an exact value. -/
def dyadic (neg : Bool) (m : Nat) (e : Int) : XVal :=
  if 0 ≤ e then .fin neg (m <<< e.toNat) 1 else .fin neg m (1 <<< (-e).toNat)

/-- An integer as an exact value. -/
def ofInt (x : Int) : XVal := .fin (decide (x < 0)) x.natAbs 1

/-- Integer value of an integer or T2 code; the reserved T2 code reads as 0 (02 R49, R50). -/
def intValue (f code : Nat) : Int :=
  match f with
  | 10 => toSigned 3 code
  | 11 => if code % 4 = 1 then 1 else if code % 4 = 3 then -1 else 0
  | _ => toSigned (fmtBits f) code

/-- Code of an in-range integer in format `f`: INT3 copies its sign into bit 3 (02 R49). -/
def intCode (f : Nat) (x : Int) : Nat :=
  match f with
  | 10 => ofSigned 4 (toSigned 3 (ofSigned 3 x))
  | 11 => if x = 1 then 1 else if x = -1 then 3 else 0
  | _ => ofSigned (fmtBits f) x

/-- The value a code of format `f` stands for (02 R44-R50). -/
def decode (f code : Nat) : XVal :=
  match floatParams f with
  | some p =>
    let w := fmtBits f
    let neg := bit code (w - 1)
    let mag := code % 2 ^ (w - 1)
    let e := mag >>> p.mant
    let m := mag % 2 ^ p.mant
    if p.nanCode.isSome && decide (mag > p.maxCode) && decide (p.infCode ≠ some mag) then .nan
    else if p.infCode = some mag then .inf neg
    else if e = 0 then dyadic neg m (1 - p.bias - p.mant)
    else dyadic neg (m + 2 ^ p.mant) ((e : Int) - p.bias - p.mant)
  | none =>
    if f = 12 then
      if code % 256 = 255 then .nan else dyadic false 1 ((code % 256 : Nat) - 127)
    else ofInt (intValue f code)

/-- The bits of `code` form a NaN pattern of float format `f` (02 R45). -/
def isNanCode (f code : Nat) : Bool := decode f code = .nan

/-- ⌊log2 (n / d)⌋ for n, d > 0. -/
def flog2 (n d : Nat) : Int :=
  let l : Int := (n.log2 : Int) - (d.log2 : Int)
  let ge := if 0 ≤ l then decide (d <<< l.toNat ≤ n) else decide (d ≤ n <<< (-l).toNat)
  if ge then l else l - 1

/-- n / d divided by 2^q: whole part, remainder and the remainder's denominator. -/
def scaled (n d : Nat) (q : Int) : Nat × Nat × Nat :=
  if 0 ≤ q then
    let D := d <<< q.toNat
    (n / D, n % D, D)
  else
    let N := n <<< (-q).toNat
    (N / d, N % d, d)

/-- Whether the magnitude `k + r / D` rounds up to `k + 1` under rounding code `rnd` (03 R66, R72);
`w` is the element's random word. Code 8 is the model's own: nearest, a tie to the smaller magnitude (11 R262). -/
def roundsUp (rnd : Nat) (neg : Bool) (k r D w : Nat) : Bool :=
  match rnd with
  | 0 => decide (2 * r > D) || (decide (2 * r = D) && decide (k % 2 = 1))
  | 1 => false
  | 2 => !neg && decide (0 < r)
  | 3 => neg && decide (0 < r)
  | 4 => decide (2 * r ≥ D)
  | 5 => decide (r * 65536 / D + w ≥ 65536)
  | 6 => decide (r * 65536 / D + w ≥ 65536)
  | 8 => decide (2 * r > D)
  | _ => false

/-- Round n / d to an integer magnitude. -/
def roundInt (rnd : Nat) (neg : Bool) (w n d : Nat) : Nat :=
  let k := n / d
  if roundsUp rnd neg k (n % d) d w then k + 1 else k

/-- The magnitude code of n / d in a float format with an unbounded exponent range above and gradual
underflow below (03 R66, 02 R60): (quantum index) × 2^mant + significand. A result above `maxCode`
is an overflow (02 R61). -/
def magCode (p : FloatParams) (rnd : Nat) (neg : Bool) (w n d : Nat) : Nat :=
  if n = 0 then 0 else
  let qmin : Int := 1 - p.bias - p.mant
  let q0 := flog2 n d - p.mant
  let q := if q0 < qmin then qmin else q0
  let (k, r, D) := scaled n d q
  let k' := if roundsUp rnd neg k r D w then k + 1 else k
  (q - qmin).toNat * 2 ^ p.mant + k'

/-- n / d < 2^e. -/
def below (n d : Nat) (e : Int) : Bool :=
  if 0 ≤ e then decide (n < d <<< e.toNat) else decide (n <<< (-e).toNat < d)

/-- The numerics switches a conversion depends on (18 R421). -/
structure NumCtx where
  ovfInf : Bool
  ftz : Bool
  nanIn : Bool
  deriving DecidableEq, Repr

/-- What one conversion reports: saturation of its target format, a NaN dropped to 0, a NaN produced,
an output flushed (02 R61-R63, 03 R83, R87). -/
structure Ev where
  sat : Bool := false
  nanDrop : Bool := false
  nanProd : Bool := false
  flush : Bool := false
  deriving DecidableEq, Repr

/-- The overflow result of a format with infinity when ovf_inf is 1 (02 R61): infinity or not. -/
def ovfToInf (rnd : Nat) (neg : Bool) : Bool :=
  match rnd with
  | 1 => false
  | 2 => !neg
  | 3 => neg
  | _ => true

/-- Sign bit of format `f`. -/
def signBit (f : Nat) (neg : Bool) : Nat := if neg then 2 ^ (fmtBits f - 1) else 0

/-- The code written on overflow of float format `f` (02 R61). -/
def overflowCode (ctx : NumCtx) (f : Nat) (p : FloatParams) (rnd : Nat) (neg : Bool) : Nat :=
  let mag := match p.infCode with
    | some i => if ctx.ovfInf && f != 13 && ovfToInf rnd neg then i else p.maxCode
    | none => p.maxCode
  mag + signBit f neg

/-- A subnormal FP32, BF16 or FP16 operand reads as zero under ftz (03 R83). -/
def flushIn (ctx : NumCtx) (f : Nat) (x : XVal) : XVal :=
  match x with
  | .fin neg n d =>
    if ctx.ftz && isF3 f && n != 0 && (match floatParams f with
        | some p => below n d (1 - p.bias) | none => false) then .fin neg 0 1 else x
  | x => x

/-- Read an operand element: decode, then the input flush. -/
def readVal (ctx : NumCtx) (f code : Nat) : XVal := flushIn ctx f (decode f code)

/-- Convert to E8M0: the exponent of the magnitude, sign discarded (02 R60). -/
def toE8M0 (x : XVal) : Nat × Ev :=
  match x with
  | .nan => (255, { nanProd := true })
  | .inf _ => (254, { sat := true })
  | .fin _ n d =>
    if n = 0 then (0, {}) else
    let k := flog2 n d
    if k > 127 then (254, { sat := true })
    else if k < -127 then (0, {})
    else ((k + 127).toNat, {})

/-- Convert to an integer or T2 range `lo..hi` (02 R60-R63). -/
def toIntRange (f : Nat) (lo hi : Int) (rnd w : Nat) (x : XVal) : Nat × Ev :=
  match x with
  | .nan => (0, { nanDrop := true, nanProd := true })
  | .inf neg => (intCode f (if neg then lo else hi), { sat := true })
  | .fin neg n d =>
    let m := roundInt rnd neg w n d
    let v : Int := if neg then -(m : Int) else m
    if v < lo then (intCode f lo, { sat := true })
    else if v > hi then (intCode f hi, { sat := true })
    else (intCode f v, {})

/-- Convert to a float format (02 R60-R63, 03 R83). -/
def toFloat (ctx : NumCtx) (f : Nat) (p : FloatParams) (rnd w : Nat) (x : XVal) : Nat × Ev :=
  match x with
  | .nan => match p.nanCode with
    | some c => (c, { nanProd := true })
    | none => (0, { nanDrop := true, nanProd := true })
  | .inf neg => match p.infCode with
    | some c => (c + signBit f neg, {})
    | none => (p.maxCode + signBit f neg, { sat := true })
  | .fin neg n d =>
    if ctx.ftz && isF3 f && n != 0 && below n d (1 - p.bias) then (signBit f neg, { flush := true })
    else
      let c := magCode p rnd neg w n d
      if c > p.maxCode then (overflowCode ctx f p rnd neg, { sat := f != 13 })
      else (c + signBit f neg, {})

/-- Round an exact value once into format `f` under rounding code `rnd` with random word `w`. -/
def convert (ctx : NumCtx) (f rnd w : Nat) (x : XVal) : Nat × Ev :=
  match floatParams f with
  | some p => toFloat ctx f p rnd w x
  | none =>
    if f = 12 then toE8M0 x
    else toIntRange f (intRange f).1 (intRange f).2 rnd w x

/-- Conversion between integer formats ignores the rounding field (02 R60); so does every exact value,
and this is the conversion of any source format. -/
def convertFrom (ctx : NumCtx) (fi f rnd w code : Nat) : Nat × Ev :=
  convert ctx f rnd w (readVal ctx fi code)

/-- round_f32 with overflow to infinity, as reductions and running corrections round (06 R151): the
FP32 code and whether it was flushed. -/
def r32 (ftz : Bool) (x : XVal) : Nat × Bool :=
  match x with
  | .nan => (0x7FC00000, false)
  | .inf neg => (0x7F800000 + signBit 0 neg, false)
  | .fin neg n d =>
    if ftz && n != 0 && below n d (-126) then (signBit 0 neg, true)
    else
      let c := magCode ⟨23, 127, 0x7F7FFFFF, none, none⟩ 0 neg 0 n d
      (Nat.min c 0x7F800000 + signBit 0 neg, false)

/-- round_b64 under code 0: binary64 code, infinity on overflow (08 R206, 09 R228). -/
def r64 (x : XVal) : Nat :=
  match x with
  | .nan => 0x7FF8000000000000
  | .inf neg => 0x7FF0000000000000 + signBit 13 neg
  | .fin neg n d =>
    Nat.min (magCode ⟨52, 1023, 0, none, none⟩ 0 neg 0 n d) 0x7FF0000000000000 + signBit 13 neg

/-! ### Exact arithmetic -/

/-- Signed numerator. -/
def snum (neg : Bool) (n : Nat) : Int := if neg then -(n : Int) else n

/-- Exact sum; an exactly zero sum takes its sign from 03 R67 under `rnd`. -/
def xadd (rnd : Nat) (a b : XVal) : XVal :=
  match a, b with
  | .nan, _ => .nan
  | _, .nan => .nan
  | .inf s, .inf t => if s = t then .inf s else .nan
  | .inf s, .fin _ _ _ => .inf s
  | .fin _ _ _, .inf t => .inf t
  | .fin s n d, .fin t m e =>
    let v : Int := snum s (n * e) + snum t (m * d)
    if v = 0 then .fin (if s = t then s else decide (rnd = 3)) 0 1
    else .fin (decide (v < 0)) v.natAbs (d * e)

/-- Negation. -/
def xneg : XVal → XVal
  | .nan => .nan
  | .inf s => .inf !s
  | .fin s n d => .fin (!s) n d

/-- Magnitude. -/
def xabs : XVal → XVal
  | .nan => .nan
  | .inf _ => .inf false
  | .fin _ n d => .fin false n d

/-- Exact product. -/
def xmul (a b : XVal) : XVal :=
  match a, b with
  | .nan, _ => .nan
  | _, .nan => .nan
  | .inf s, .inf t => .inf (s != t)
  | .inf s, .fin t n _ => if n = 0 then .nan else .inf (s != t)
  | .fin s n _, .inf t => if n = 0 then .nan else .inf (s != t)
  | .fin s n d, .fin t m e => .fin (s != t) (n * m) (d * e)

/-- Exact quotient by a positive finite value. -/
def xdivPos (a : XVal) (m e : Nat) : XVal :=
  match a with
  | .fin s n d => .fin s (n * e) (d * m)
  | x => x

/-- Order of two non-NaN values, −0 equal to +0. -/
def xcmp (a b : XVal) : Ordering :=
  match a, b with
  | .inf s, .inf t => compare (if s then 0 else 1) (if t then 0 else 1)
  | .inf s, _ => if s then .lt else .gt
  | _, .inf t => if t then .gt else .lt
  | .fin s n d, .fin t m e => compare (snum s (n * e)) (snum t (m * d))
  | _, _ => .eq

/-- a < b with −0 below +0 (04 R109, 06 R153), neither NaN. -/
def xlt (a b : XVal) : Bool :=
  match xcmp a b with
  | .lt => true
  | .gt => false
  | .eq => match a, b with
    | .fin s _ _, .fin t _ _ => s && !t
    | _, _ => false

end Sys2Proof.Machine
end

