-- ==== Sys2Proof/Machine/Program.lean ====
section
/-! DEFINITION. Chain programs: micro-op fields, the opcode table, images, bindings and the checks of CHAIN_LOAD
(04 R93-R131). -/

namespace Sys2Proof.Machine

/-- A micro-op (04 R100), with its index in the program, its pass and its stage. -/
structure Uop where
  op : Nat
  fo : Nat
  fi : Nat
  dst : Nat
  sa : Nat
  sb : Nat
  sc : Nat
  mask : Nat
  mz : Bool
  rnd : Nat
  pe : Bool
  immB : Bool
  aux : Nat
  imm : Nat
  index : Nat := 0
  pass : Nat := 0
  stage : Nat := 0
  deriving DecidableEq, Repr

/-- The fields of the 96-bit micro-op `x` (R100). -/
def uopOf (x : Nat) : Uop :=
  { op := bits x 88 8, fo := bits x 84 4, fi := bits x 80 4, dst := bits x 72 8, sa := bits x 64 8
    sb := bits x 56 8, sc := bits x 48 8, mask := bits x 44 4, mz := bit x 43, rnd := bits x 40 3
    pe := bit x 39, immB := bit x 38, aux := bits x 32 6, imm := bits x 0 32 }

/-- A slot of the binding table (R120). -/
structure Slot where
  dir : Nat
  plane : Nat
  base : Nat
  deriving DecidableEq, Repr

/-- The slot of header word pair `w` (all eight words as one number) numbered `d` (R120). -/
def slotOf (hdr d : Nat) : Slot :=
  let e := bits hdr (64 + 16 * d) 16
  ⟨bits e 14 2, bits e 12 2, bits e 0 7⟩

/-- A program image read into its parts (R119, R120). -/
structure Prog where
  count : Nat
  passes : Nat
  width : Nat
  applyFrom : Nat
  holdSlot : Nat
  crc : Nat
  slots : List Slot
  uops : List Uop
  deriving DecidableEq, Repr

/-- Number the micro-ops by index, pass and stage (R93). -/
def numberUops : Nat → Nat → Nat → List Uop → List Uop
  | _, _, _, [] => []
  | k, p, s, u :: us =>
    { u with index := k, pass := p, stage := s } ::
      (if u.pe then numberUops (k + 1) (p + 1) 0 us else numberUops (k + 1) p (s + 1) us)

/-- The image's words read as a program; the micro-ops are those of the length given by uop_count. -/
def progOf (words : List Nat) : Prog :=
  let hdr := pack 32 (words.take 8)
  let n := bits hdr 8 8
  let body := pack 32 ((words.drop 8).take (3 * n))
  { count := n, passes := bits hdr 3 5, width := 32 <<< bits hdr 0 3
    applyFrom := bits hdr 59 5, holdSlot := bits hdr 56 3, crc := nth words 6
    slots := (List.range 8).map (slotOf hdr)
    uops := numberUops 0 0 0 ((unpack 96 n body).map uopOf) }

/-- The micro-ops of pass `p`. -/
def Prog.pass (P : Prog) (p : Nat) : List Uop := P.uops.filter (fun u => u.pass = p)

/-- Granules of an image of `count` micro-ops (R121). -/
def granulesOf (count : Nat) : Nat := cdiv (32 + 12 * count) 64

/-- Registers a tile operand of format `f` spans in a block of width `w` (R98). -/
def spanOf (w f : Nat) : Nat := Nat.max 1 (w / tileWidth f)

/-! ### The opcode table (R107) -/

/-- cmp opcodes. -/
def isCmp (op : Nat) : Bool := 0x20 ≤ op && op ≤ 0x26
/-- Function opcodes. -/
def isFn (op : Nat) : Bool := 0x30 ≤ op && op ≤ 0x38
/-- Stages whose destination is an S register. -/
def isStat (op : Nat) : Bool := 0x50 = op || 0x52 = op || 0x53 = op
/-- Stages that do not read values (R107, R111). -/
def isCodeOp (op : Nat) : Bool :=
  op = 0x01 || (0x15 ≤ op && op ≤ 0x17) || op = 0x27 || (0x60 ≤ op && op ≤ 0x62)

/-- Defined opcodes. -/
def opDefined (op : Nat) : Bool :=
  op ≤ 0x0A || (0x10 ≤ op && op ≤ 0x17) || (0x20 ≤ op && op ≤ 0x27) || isFn op ||
  (0x40 ≤ op && op ≤ 0x43) || (0x50 ≤ op && op ≤ 0x54) || (0x60 ≤ op && op ≤ 0x63)

/-- A = every format except 13 and 14. -/
def isA (f : Nat) : Bool := f != 13 && f != 14

/-- Legal fi and fo of an opcode (R107, R109). -/
def fmtLegal (u : Uop) : Bool :=
  let fi := u.fi
  let fo := u.fo
  if u.op = 0 then fi = 0 && fo = 0
  else if u.op = 0x01 || (0x15 ≤ u.op && u.op ≤ 0x17) || u.op = 0x27 || u.op = 0x60 then isA fi && fo = fi
  else if u.op ≤ 0x08 then isFloat fi && isA fo && fo != 12
  else if u.op ≤ 0x0A then (isFloat fi && isFloat fo) || (isIntT fi && isIntT fo)
  else if u.op ≤ 0x11 then isInt fi && isInt fo
  else if u.op = 0x12 then (fi = 8 || fi = 15) && isInt fo
  else if u.op ≤ 0x14 then isInt fi && fo = fi
  else if isCmp u.op then (isFloat fi || isIntT fi) && fo = 0
  else if isFn u.op then isF3 fi && isFloat fo
  else if u.op = 0x40 then isA fi && isA fo
  else if u.op = 0x41 then isF3 fi && (fo = 12 || fo = 15)
  else if u.op = 0x42 then isF3 fi && 3 ≤ fo && fo ≤ 11
  else if u.op = 0x43 then 3 ≤ fi && fi ≤ 11 && isFloat fo
  else if u.op = 0x50 then (isFloat fi || fi = 15) && fo = 0
  else if u.op = 0x51 then isFloat fi && isFloat fo
  else if u.op = 0x52 then isF3 fi && fo = 0
  else if u.op = 0x53 then fi = 0 && fo = 0
  else if u.op = 0x54 then
    (if bit u.aux 3 then isFloat fi || isInt fi else fi = 0 || fi = 15) && (isFloat fo || isInt fo)
  else if u.op = 0x61 then (fi = 8 || fi = 15) && 3 ≤ fo && fo ≤ 12
  else if u.op = 0x62 then 3 ≤ fi && fi ≤ 12 && (fo = 8 || fo = 15)
  else fi = 2 && (fo = 0 || fo = 2)

/-- What may stand in a source field. -/
inductive SrcKind where
  | none
  /-- An element operand in fi. -/
  | val
  /-- An element operand in a fixed format; `opt`: 0xFF may stand there. -/
  | fixed (f : Nat) (opt : Bool)
  /-- An optional element operand (cvt's lo). -/
  | optLo
  | sreg
  | sOrTile
  | maskOrCmp
  deriving DecidableEq, Repr

/-- The kinds of sa, sb and sc (R107). -/
def srcKinds (op : Nat) : SrcKind × SrcKind × SrcKind :=
  if op = 0 then (.none, .none, .none)
  else if op = 0x05 || op = 0x06 then (.val, .val, .val)
  else if (0x02 ≤ op && op ≤ 0x04) || op = 0x09 || op = 0x0A || (0x10 ≤ op && op ≤ 0x17) || isCmp op then
    (.val, .val, .none)
  else if op = 0x27 then (.val, .val, .maskOrCmp)
  else if op = 0x40 then (.val, .optLo, .none)
  else if op = 0x42 || op = 0x43 then (.val, .fixed 12 false, .fixed 15 true)
  else if op = 0x53 then (.sreg, .sreg, .none)
  else if op = 0x54 then (.sOrTile, .none, .none)
  else if op = 0x60 then (.val, .fixed 15 true, .none)
  else if op = 0x63 then (.fixed 0 false, .fixed 2 false, .fixed 0 false)
  else (.val, .none, .none)

/-- The three source fields with their kinds; sb is left out when the immediate replaces it. -/
def Uop.sources (u : Uop) : List (SrcKind × Nat) :=
  let (a, b, c) := srcKinds u.op
  (a, u.sa) :: (if u.immB then [] else [(b, u.sb)]) ++ [(c, u.sc)]

/-- The format in which source field `k` (0, 1, 2) is read (R99, R113). -/
def Uop.srcFmt (u : Uop) (k : Nat) : Nat :=
  if u.op = 0x40 && bit u.aux 0 then (if k = 0 then 0 else 2) else
  let (a, b, c) := srcKinds u.op
  match (if k = 0 then a else if k = 1 then b else c) with
  | .fixed f _ => f
  | _ => u.fi

/-- Tile or latch code. -/
def isTL (c : Nat) : Bool := c ≤ 0x67
/-- Latch code. -/
def isLatch (c : Nat) : Bool := 0x60 ≤ c && c ≤ 0x67
/-- S-register code. -/
def isS (c : Nat) : Bool := 0x70 ≤ c && c ≤ 0x8F
/-- Mask code. -/
def isM (c : Nat) : Bool := 0x90 ≤ c && c ≤ 0x9F

/-- A source code is legal for its kind (R101, R102). The index operands may stand wherever fi is an integer format, in
a source of fixed format too (shuf's index; a scale or sidecar of dequant, log 52). DEDUCED (log 52): the sa of bcast
down columns, 'S or tile' in R107, may be a latch, as every tile source may (R94), and not the zero operand. -/
def srcLegal (k : SrcKind) (c fi : Nat) : Bool :=
  match k with
  | .none => c = 0xFF
  | .val => isTL c || c = 0xA2 || ((c = 0xA0 || c = 0xA1) && isInt fi)
  | .optLo => c = 0xFF || isTL c || c = 0xA2 || ((c = 0xA0 || c = 0xA1) && isInt fi)
  | .fixed _ opt => (opt && c = 0xFF) || isTL c || c = 0xA2 || ((c = 0xA0 || c = 0xA1) && isInt fi)
  | .sreg => isS c
  | .sOrTile => isTL c || isS c
  | .maskOrCmp => isLatch c || isM c

/-- sb may be replaced by the immediate (R103). -/
def immAllowed (op : Nat) : Bool :=
  match (srcKinds op).2.1 with
  | .val => true
  | .fixed _ _ => true
  | .optLo => true
  | _ => false

/-- A destination code is legal for the opcode (R97, R101, R107). -/
def dstLegal (op c : Nat) : Bool :=
  if op = 0 then c = 0xFF
  else if isStat op then isS c
  else if isCmp op then isLatch c || isM c
  else isTL c

/-- Check 0x07: operand codes. -/
def operandsLegal (u : Uop) : Bool :=
  (!u.immB || (u.sb = 0xFF && immAllowed u.op)) && dstLegal u.op u.dst &&
  u.sources.all (fun p => srcLegal p.1 p.2 u.fi)

/-- Check 0x08: latches (R94, R97, R112). `pass` is the pass of the micro-op. -/
def latchesLegal (pass : List Uop) (u : Uop) : Bool :=
  (!isLatch u.dst || u.dst = 0x60 + u.stage) &&
  u.sources.all (fun p => !isLatch p.2 ||
    (decide (p.2 - 0x60 < u.stage) &&
      (match pass[p.2 - 0x60]? with
       | some w => w.op != 0 && (isCmp w.op == (p.1 = SrcKind.maskOrCmp))
       | none => false)))

/-- Check 0x09: latch formats (R99, R113). -/
def latchFmtsLegal (pass : List Uop) (u : Uop) : Bool :=
  u.sources.all (fun p => !isLatch p.2 ||
    (match p.1 with
     | .val | .optLo | .sOrTile =>
       (u.op = 0x40 && bit u.aux 0) ||
       (match pass[p.2 - 0x60]? with | some w => w.fo = u.fi | none => false)
     | _ => true))

/-- Tile destinations, mask destinations, S destinations of the stages, and distinct tile sources (R96). -/
def passLimits (us : List Uop) : Bool :=
  (us.filter (fun u => decide (u.dst < 0x60))).length ≤ 2 &&
  (us.filter (fun u => isM u.dst)).length ≤ 2 &&
  (us.filter (fun u => isS u.dst)).length ≤ 2 &&
  (dedup ((us.flatMap (fun u => u.sources.map (·.2))).filter (fun c => decide (c < 0x60)))).length ≤ 4

/-- Registers that the destination of a stage spans; the plane of qblk spans one (R98). -/
def Uop.dstSpan (w : Nat) (u : Uop) : Nat := if u.op = 0x41 then 1 else spanOf w u.fo

/-- Registers that source `k` of a stage spans; plane operands span one (R98). -/
def Uop.srcSpan (w : Nat) (u : Uop) (k : Nat) : Nat :=
  if (u.op = 0x42 || u.op = 0x43) && decide (k > 0) then 1 else spanOf w (u.srcFmt k)

/-- The destinations of `u` and `v` collide: the same register, or overlapping tile spans (R96). -/
def dstClash (w : Nat) (u v : Uop) : Bool :=
  if decide (u.dst < 0x60) && decide (v.dst < 0x60) then
    decide (u.dst < v.dst + v.dstSpan w) && decide (v.dst < u.dst + u.dstSpan w)
  else (isS u.dst || isM u.dst) && u.dst = v.dst

/-- The first index of a list where a prefix property fails: limits and clashes are judged per pass. -/
def firstPrefix (bad : List Uop → Uop → Bool) : List Uop → List Uop → Option Nat
  | _, [] => none
  | pre, u :: us => if bad pre u then some u.index else firstPrefix bad (pre ++ [u]) us

/-- Tile operands end at T95 (check 0x10). -/
def spansLegal (w : Nat) (u : Uop) : Bool :=
  (!decide (u.dst < 0x60) || decide (u.dst + u.dstSpan w ≤ 96)) &&
  ((List.range 3).all fun k =>
    let c := if k = 0 then u.sa else if k = 1 then u.sb else u.sc
    (k = 1 && u.immB) || !decide (c < 0x60) || decide (c + u.srcSpan w k ≤ 96))

/-- `x` has only bits of `m`. -/
def within (x m : Nat) : Bool := x &&& m = x

/-- Check 0x0E for a micro-op: unused aux and imm bits are zero (R10, R103, R107). -/
def unusedZero (u : Uop) : Bool :=
  let a := u.aux
  let auxOk :=
    if u.op = 0x09 || u.op = 0x0A || (0x10 ≤ u.op && u.op ≤ 0x13) then within a 1
    else if u.op = 0x14 then within a 2
    else if u.op = 0x40 then within a 3
    else if u.op = 0x41 then within a 0xF
    else if u.op = 0x43 then bit a 5 || a = 0
    else if u.op = 0x50 then within a 7
    else if u.op = 0x51 || u.op = 0x60 then within a 3
    else if u.op = 0x52 then bits a 0 3 = 2 || within a 7
    else if u.op = 0x53 || u.op = 0x62 then within a 1
    else if u.op = 0x54 then within a 0xF && (!bit a 3 || bits a 0 3 = 0)
    else a = 0
  let immOk :=
    if u.immB then
      if (0x15 ≤ u.op && u.op ≤ 0x17) || u.op = 0x27 then decide (u.imm < 2 ^ fmtBits u.fi)
      else if u.op = 0x13 || u.op = 0x14 then within u.imm 0x1F
      else if u.op = 0x40 && bit a 0 then decide (u.imm < 2 ^ 16)
      else match (srcKinds u.op).2.1 with
        | .fixed f _ => decide (u.imm < 2 ^ fmtBits f)
        | _ => true
    else if u.op = 0x41 then within u.imm 0xFF0F
    else if u.op = 0x50 then within u.imm 1
    else if u.op = 0x52 then within u.imm (if bits a 0 3 ≤ 1 then 1 else 0)
    else if u.op = 0x60 then
      within u.imm (match bits a 0 2 with | 0 => 0x1FF | 1 => 0xF | 2 => 0xF | _ => 0)
    else u.imm = 0
  auxOk && immOk

/-- Check 0x0F: parameters (R109, R112-R117). -/
def paramsLegal (w : Nat) (u : Uop) : Bool :=
  let a := u.aux
  if u.op = 0x09 || u.op = 0x0A then isFloat u.fi || !bit a 0
  else if isCmp u.op then !(w = 512 && isM u.dst)
  else if u.op = 0x40 then
    (if bit a 0 then u.fi = 2 && (u.immB || u.sb != 0xFF) else u.sb = 0xFF && !u.immB) &&
    (!bit a 1 || u.fo = 0 || u.fo = 2)
  else if u.op = 0x41 then
    ((bits a 0 2 = 0 && u.fo = 12) || (bits a 0 2 = 1 && u.fo = 15)) && bits a 2 2 ≤ 2 &&
    3 ≤ bits u.imm 0 4 && bits u.imm 0 4 ≤ 11
  else if u.op = 0x50 then bits a 0 3 ≤ 5
  else if u.op = 0x52 then bits a 0 3 ≤ 3 && (bits a 0 3 != 2 || bits a 3 3 ≤ 4)
  else if u.op = 0x54 then
    if bit a 3 then !isS u.sa
    else isS u.sa && bits a 0 3 ≤ 4 && u.fi = (if bits a 0 3 = 2 then 15 else 0)
  else if u.op = 0x60 then
    match bits a 0 2 with
    | 3 => u.immB || u.sb != 0xFF
    | 0 => u.sb = 0xFF && !u.immB && decide (bits u.imm 0 9 < w)
    | _ => u.sb = 0xFF && !u.immB && decide (2 ^ bits u.imm 0 4 ≤ w)
  else true

/-- Check 0x11: an own-latch destination with mz = 0 needs fi = fo (R105, R112). -/
def latchKeepLegal (u : Uop) : Bool := u.mz || !isLatch u.dst || u.fi = u.fo || isCmp u.op

/-- The reserved bits of the header and of the binding table are zero (R119, R120). -/
def headerZero (words : List Nat) : Bool :=
  nth words 1 % 2 ^ 24 = 0 && nth words 7 = 0 &&
  ([2, 3, 4, 5].all fun k => nth words k &&& 0x0F800F80 = 0)

/-- The first micro-op that breaks a check. -/
def firstBad (ok : Uop → Bool) (us : List Uop) : Option Nat :=
  (us.find? (fun u => !ok u)).map (·.index)

/-- The first micro-op, pass by pass, at which a check on its pass so far fails. -/
def firstBadPass (bad : List Uop → Uop → Bool) (P : Prog) : Option Nat :=
  (List.range P.passes).findSome? (fun p => firstPrefix bad [] (P.pass p))

/-- A micro-op obeys R93: at most the eighth stage of its pass, in a pass that pass_count has, and the last one ends its
pass. -/
def passLegal (P : Prog) (u : Uop) : Bool :=
  decide (u.stage < 8) && decide (u.pass < P.passes) && (u.pe || decide (u.index + 1 < P.count))

/-- Check 0x04: width and pass_count are header fields, with index 0xFF, and so is a pass_count above the number of pe
bits, at which no micro-op is at fault; a pe bit is its micro-op's. DEDUCED (log 53): the failing micro-op is the first
that stands beyond the eighth stage or beyond pass_count, or the last one without pe. -/
def shapeFault (P : Prog) (width : Nat) : Option Nat :=
  if decide (width > 4) || !(decide (1 ≤ P.passes) && decide (P.passes ≤ 16)) then some 0xFF
  else match firstBad (passLegal P) P.uops with
    | some k => some k
    | none => if (P.uops.filter (·.pe)).length = P.passes then none else some 0xFF

/-- Slots and phases (check 0x12). -/
def slotsLegal (P : Prog) : Bool :=
  P.slots.all (fun s => s.dir = 0 || (decide (s.base ≤ 95) && s.plane != 3)) &&
  (P.applyFrom = 0 ||
    (decide (P.applyFrom < P.passes) &&
      (match P.slots[P.holdSlot]? with | some s => s.dir = 1 || s.dir = 3 | none => false)))

/-- The image's CRC with word 6 taken as zero (R119). -/
def imageCrc (words : List Nat) : Nat := crcWords (words.set 6 0)

/-- The checks 0x05 to 0x11 of one program, in the order of R124, with the index of the micro-op. -/
def uopChecks (words : List Nat) (P : Prog) : List (Nat × Option Nat) :=
  let us := P.uops
  let w := P.width
  [(0x05, firstBad (fun u => opDefined u.op) us),
   (0x06, firstBad fmtLegal us),
   (0x07, firstBad operandsLegal us),
   (0x08, firstBad (fun u => latchesLegal (P.pass u.pass) u) us),
   (0x09, firstBad (fun u => latchFmtsLegal (P.pass u.pass) u) us),
   (0x0A, firstBadPass (fun pre u => !passLimits (pre ++ [u])) P),
   (0x0B, firstBadPass (fun pre u => pre.any (dstClash w u)) P),
   (0x0C, firstBad (fun u => u.dst != 0x90) us),
   (0x0D, firstBad (fun u => u.rnd != 7) us),
   (0x0E, if headerZero words then firstBad unusedZero us else some 0xFF),
   (0x0F, firstBad (paramsLegal w) us),
   (0x10, firstBad (spansLegal w) us),
   (0x11, firstBad latchKeepLegal us)]

/-- The first failing check of an image of `len` bytes: reason and index (R124). -/
def imageFault (words : List Nat) (len : Nat) : Option (Nat × Nat) :=
  let P := progOf words
  if bits (nth words 0) 16 16 != 0x0031 then some (0x01, 0xFF)
  else if imageCrc words != nth words 6 then some (0x02, 0xFF)
  else if P.count = 0 || decide (P.count > 128) || len != 32 + 12 * P.count then some (0x03, 0xFF)
  else match shapeFault P (bits (nth words 0) 0 3) with
  | some k => some (0x04, k)
  | none => match (uopChecks words P).find? (fun c => c.2.isSome) with
    | some (r, some k) => some (r, k)
    | _ => if slotsLegal P then none else some (0x12, 0xFF)

/-- The length test made before an image is read (R124). -/
def lengthLegal (len : Nat) : Bool := decide (44 ≤ len) && decide (len ≤ 1568) && (len - 32) % 12 = 0

/-- Replace the immediate of micro-op `k` (R131). -/
def overrideImm (P : Prog) (k v : Nat) : Prog :=
  { P with uops := P.uops.map (fun u => if u.index = k then { u with imm := v } else u) }

/-- Overrides applied in turn: none when one names no micro-op, repeats an index, or breaks R124 (R131). -/
def applyOverrides : Prog → List Nat → List (Nat × Nat) → Option Prog
  | P, _, [] => some P
  | P, seen, (k, v) :: rest =>
    if decide (k ≥ P.count) || seen.contains k then none else
    let Q := overrideImm P k v
    match Q.uops[k]? with
    | some u => if unusedZero u && paramsLegal P.width u then applyOverrides Q (k :: seen) rest else none
    | none => none

/-- Micro-ops that use stochastic code `c`. -/
def Prog.usesRnd (P : Prog) (c : Nat) : Bool := P.uops.any (fun u => u.rnd = c)

end Sys2Proof.Machine
end

