-- ==== Sys2Proof/Machine/State.lean ====
section
/-! DEFINITION. The state of one Dygen instance as plain data, its stop reasons, and its reset. -/

namespace Sys2Proof.Machine

open Sys2Proof

/-! ### Architectural state (01 R11) -/

/-- The tag of a tile row (01 Row tags). -/
structure RowTag where
  producer : BitVec 16 := 0
  format : BitVec 4 := 0
  poison : Bool := false
  valid : Bool := false
  check : Word := 0
  deriving DecidableEq, Repr

/-- A tile row and its tag. -/
structure TileRow where
  data : Line := 0
  tag : RowTag := {}
  deriving DecidableEq, Repr

/-- A mask row and its poison mark (15 R357). -/
structure MaskRow where
  bits : BitVec 256 := 0
  poison : Bool := false
  deriving DecidableEq, Repr

/-- One row of an S register (01 R16) and its poison mark. -/
structure SRow where
  max : Word := 0
  sum : Word := 0
  count : Word := 0
  mean : Word := 0
  m2 : Word := 0
  poison : Bool := false
  deriving DecidableEq, Repr

/-- A 128-byte WAS row. `badCheck` is the exclusive OR of the row check it carries (15 R442) with the check
of its bytes: zero unless the row has changed since it was written. -/
structure WasRow where
  data : Line := 0
  badCheck : Word := 0
  poison : Bool := false
  deriving DecidableEq, Repr

/-- A registered program: identifier, first granule, granule count, poison mark (04 R121, 15 R357). -/
structure ProgEntry where
  id : BitVec 5
  first : BitVec 8
  count : BitVec 5
  poison : Bool := false
  deriving DecidableEq, Repr

/-- TRF and WAS and S and mask storage keyed by row (register × 32 + row; WAS by 128-byte row), the chain
store by 64-byte granule, the program table in increasing identifier, the dirty bits (13 R329). -/
structure Arch where
  trf : Sparse TileRow := []
  masks : Sparse MaskRow := []
  sregs : Sparse SRow := []
  was : Sparse WasRow := []
  granules : Sparse (BitVec 512) := []
  progs : List ProgEntry := []
  dirty : BitVec 96 := 0
  deriving DecidableEq, Repr

/-! ### Registers -/

/-- The numerics configuration registers, 0x1000–0x13FF (14 R336, 18 R421). -/
structure NumRegs where
  numCfg : Word := 0x00028000
  seedLo : Word := 0
  seedHi : Word := 0
  almanacMask : BitVec 14 := 0x07FF
  package : BitVec 18 := 0
  stepWindow : BitVec 8 := 0
  deriving DecidableEq, Repr

/-- A five-word record: the trap record, the error record, the divergence record. -/
structure Rec5 where
  w0 : Word := 0
  w1 : Word := 0
  w2 : Word := 0
  w3 : Word := 0
  w4 : Word := 0
  deriving DecidableEq, Repr

/-- A ring base and size (12 R273). -/
structure RingBase where
  lo : BitVec 20 := 0
  size : BitVec 4 := 0
  hi : BitVec 20 := 0
  deriving DecidableEq, Repr

/-- A reply as it waits: words 0–5 (12 R292), whether it is a final reply whose tag enters the window
(12 R297), whether its packet asked for IRQ_REPLY, and whether it re-sends. -/
structure Reply where
  w0 : Word
  w1 : Word
  w2 : Word
  w3 : Word
  w4 : Word
  w5 : Word
  irq : Bool
  enters : Bool
  deriving DecidableEq, Repr

/-- A window entry: a final reply's tag and its words 0–5 (12 R297). -/
structure WinEntry where
  tag : Word
  words : List Word
  deriving DecidableEq, Repr

/-- The first NaN event of a unit, with the fields of the trap record (03 R87–R89). -/
structure NanEv where
  consumed : Bool
  source : Nat
  pass : Nat
  stage : Nat
  uop : Nat
  fmt : Nat
  band : Nat
  colTile : Nat
  row : Nat
  col : Nat
  deriving DecidableEq, Repr

/-- The pending commit of a unit (03 R84): increments by counter slot, and the first NaN event. -/
structure Pend where
  counts : Sparse Nat := []
  nan : Option NanEv := none
  deriving DecidableEq, Repr

/-- Phase of a run (13 R329 word 8). -/
inductive Phase where
  | single
  | collect
  | apply
  deriving DecidableEq, Repr

/-- Where the executing command stands between two pieces of work. -/
inductive Stage where
  /-- Verification pass of the descriptor at a position: tiles read, running tensor CRC (14 R341). -/
  | verify (pos tile crc : Nat)
  /-- The loads of the next unit, statistics loads first. -/
  | load
  /-- The passes of the unit in progress. -/
  | passes
  /-- The unit's outputs are ready; `built` once its writes have been formed (03 R84). -/
  | commit (built : Bool)
  /-- Waiting for the array token (01 R37). -/
  | token
  /-- Staging item `k` of the segment's plan into its pinned register (08 R197). -/
  | staging (k : Nat)
  /-- The segment is open and its drain awaited (08 R202). -/
  | draining
  /-- All segments spilled: finish item `k` of the block (08 R208). -/
  | finishing (k : Nat)
  /-- Writes after the last unit: headers, seals (06 R159, 14 R340). -/
  | trailer (built : Bool)
  /-- A wait on something outside: a matching PAIR_MODE (13 R308), a save area (13 R332). -/
  | waiting
  /-- Restoring an image: `k` lines restored (13 R330). -/
  | restoring (k : Nat)
  /-- Saving an image (13 R321); `built` once its writes have been formed. -/
  | saving (built : Bool)
  /-- Nothing is left but the reply. -/
  | done
  deriving DecidableEq, Repr

/-- A number for where a command stands, commits that are formed apart from those that are not. -/
def Stage.code : Stage → Nat
  | .verify .. => 1
  | .load => 2
  | .passes => 3
  | .commit b => if b then 5 else 4
  | .token => 6
  | .staging k => 16 + 2 * k
  | .draining => 7
  | .finishing k => 17 + 2 * k
  | .trailer b => if b then 9 else 8
  | .waiting => 10
  | .restoring _ => 11
  | .saving _ => 12
  | .done => 13

/-- A drained beat in a landing register (08 R202). -/
structure DrnBeat where
  data : BitVec 4096
  ovf : Bool
  unf : Bool
  sovf : Bool
  deriving DecidableEq, Repr

/-- Replay and landing state of a product (08 R209, R219). -/
structure ProdState where
  segLen : Nat := 0
  kseg : Nat := 0
  shift : Nat := 0
  segOpen : Bool := false
  resolved : Nat := 0
  /-- Beats of the drain that wait for the rest of their sub-tile: key sub-tile × 8 + beat. -/
  landed : Sparse DrnBeat := []
  /-- Beats of the drain seen so far, by the same key; sub-tiles landed since the block began. -/
  seen : Nat := 0
  landings : Nat := 0
  /-- Bands of operands whose staging has been counted: gather clamps, demotions, malformed sidecars. -/
  counted : List Nat := []
  /-- Sub-tile elements whose drained value was NaN (08 R208): key sub-tile × 32 + row, bits by column. -/
  drainNan : Sparse Nat := []
  /-- Gather indices read for the block: key, index value (10 R249). -/
  index : Sparse Nat := []
  /-- Epilogue block within the array block. -/
  epi : Nat := 0
  deriving DecidableEq, Repr

/-- Link state of a LINK_RUN (09 R226, R236). -/
structure LinkState where
  keyBlock : Nat := 0
  pass2 : Bool := true
  phase : Nat := 0
  corrected : Nat := 0
  started : Bool := false
  factors : List Nat := []
  nanRows : Nat := 0
  /-- The query block has begun; bits by key of the logits that absent_mask leaves present, by row of the query block. -/
  begun : Bool := false
  present : Sparse Nat := []
  /-- A thief's first NaN event of the query block, which its owner commits (13 R318). -/
  firstNan : Option NanEv := none
  deriving DecidableEq, Repr

/-- A translation that came back with a fault: owner, virtual address, kind, descriptor position. -/
structure XlatFault where
  owner : Nat
  va : Nat
  kind : Nat
  pos : Nat
  deriving DecidableEq, Repr

/-- A write to memory: virtual line, data, byte enables, check and meta sidebands, poison, class, the
descriptor position a fault is reported at, and whose write it is: 0 the command's data, 5 a reply, 6 a
Starlog record (17 R399, R400). -/
structure WriteBeat where
  vline : Nat
  data : Line
  ben : BitVec 128
  check : Word
  info : BitVec 20
  poison : Bool
  cls : BitVec 2
  pos : Nat
  owner : Nat := 0
  deriving DecidableEq, Repr

/-- The executing command (12 R295–R303). `acc` holds, under key 10000 + 128 × band + p, the CRC register that the
band's part of the seal or export of descriptor p leaves from zero, and under 200 + 32 × p + i the CRC register of
row i of a tile of descriptor p that several blocks share (10 R255, 06 R164). -/
structure Running where
  queue : BitVec 2
  /-- The instance whose queue holds the command: the producer of its seals and exports (14 R340). -/
  home : BitVec 12
  packet : List Word
  descs : List (List Word)
  cfg : NumRegs
  almanac : BitVec 64
  image : List Word := []
  fallback : Bool := false
  unit : Nat := 0
  pass : Nat := 0
  phase : Phase := .single
  tilesDone : Nat := 0
  pend : Pend := {}
  nanSeen : Bool := false
  stage : Stage := .load
  acc : Sparse Nat := []
  /-- What `acc` becomes when the tile in hand commits. -/
  next : Sparse Nat := []
  /-- The stores of the tile in hand, which a fault on one of them has reissued in full (10 R259). -/
  kept : List WriteBeat := []
  /-- Chunk records kept for an export or a thief's report: S register, row, chunk, words (06 R163, R168). -/
  chunks : List (Nat × Nat × Nat × List Nat) := []
  prod : ProdState := {}
  link : LinkState := {}
  lanes : List Nat := []
  /-- A mirrored command of LOCKSTEP twin B (13 R310). -/
  mirror : Bool := false
  /-- Bands claimed by a thief and not yet done; the reports of bands done and not yet committed; this is itself
  a stolen band (13 R316–R319). -/
  claimed : List Nat := []
  reports : List StealReport := []
  stolen : Option Nat := none
  /-- Bands below `front` have been begun or passed over; `skipped` lists those passed over (R319). -/
  front : Nat := 1
  skipped : List Nat := []
  /-- Why the command is suspending: its interim status, and the fault that caused it (13 R321). -/
  why : Nat := 0
  fault : Option XlatFault := none
  /-- Where a suspended command goes on (13 R321-R323). -/
  after : Stage := .load
  /-- A mirrored command suspends where these words, which twin A formed at its own suspension point, are its own (13 R327). -/
  stopAt : Option (List Nat) := none
  /-- A save or restore image met poison on a write of its save area (13 R325). -/
  savePoison : Bool := false
  /-- The final reply of a command that has ended while another reply waited: it is produced when that one has been
  written (12 R278). -/
  final : Option Reply := none
  deriving DecidableEq, Repr

/-- A suspended command: its record and its interim status (13 R321, 16 R389). `needsResume`: it
resumes only under RESUME (12 R301, 16 R390). -/
structure Suspended where
  run : Running
  status : Nat
  needsResume : Bool
  afterDawn : Bool
  deriving DecidableEq, Repr

/-- How far the packet at the queue's head has come (12 R295). -/
inductive Fetch where
  | idle
  /-- Passed checks 1–4; its descriptor table is being read. -/
  | table (packet : List Word)
  /-- Passed the fetch checks. -/
  | ready (packet : List Word) (descs : List (List Word))
  /-- Answered without beginning (12 R276): the reply; whether its tag is accepted; the counter slots to
  raise; whether the queue is disabled instead of advancing (12 R296). -/
  | answer (r : Reply) (accept : Bool) (counts : List Nat) (disable : Bool)
  deriving DecidableEq, Repr

/-- One command queue (12 R273, R287, R297, 13 R324). -/
structure Queue where
  base : RingBase := {}
  tail : BitVec 16 := 0
  head : BitVec 16 := 0
  enable : Bool := false
  preemptLower : Bool := false
  halted : Bool := false
  ctxLo : BitVec 20 := 0
  ctxValid : Bool := false
  ctxHi : BitVec 20 := 0
  window : List WinEntry := []
  newest : Option Word := none
  fenceTag : Option Word := none
  fetch : Fetch := .idle
  susp : Option Suspended := none
  waitFence : Option (List Word) := none
  deriving DecidableEq, Repr

/-- Four of a kind, one per queue. -/
structure Quad (α : Type) where
  q0 : α
  q1 : α
  q2 : α
  q3 : α
  deriving DecidableEq, Repr

/-- The reply ring (12 R273, R278–R280). -/
structure ReplyRing where
  base : RingBase := {}
  head : BitVec 16 := 0
  tail : BitVec 16 := 0
  waiting : List Reply := []
  /-- Replies of latched DAWN packets that wait their turn (12 R278, R291). -/
  owed : List Reply := []
  stallCounted : Bool := false
  issued : Bool := false
  serial : BitVec 16 := 0
  phase : Bool := true
  irq : Bool := false
  /-- A reply write faulted (12 R444): no retry until a queue is enabled. -/
  faulted : Bool := false
  deriving DecidableEq, Repr

/-- The counters of 18 R423–R425: slot k is the counter at 0x1880 + 8k. `stalls`: work that may have waited for a bank or a pin
has been done since the stall counters were last brought up to date (log 7). -/
structure Counters where
  vals : Sparse Nat := []
  snaps : Sparse Nat := []
  stalls : Bool := false
  deriving DecidableEq, Repr

/-- Error status, logs and record (15 R362–R364). -/
structure ErrRegs where
  status : BitVec 13 := 0
  enable : BitVec 12 := 0
  eccLog0 : Word := 0
  eccCe0 : Word := 0
  eccCe1 : Word := 0
  record : Rec5 := {}
  deriving DecidableEq, Repr

/-- Nightwatch (15 R365-R367, 01 R34). `writebacks`: the corrected units that wait for a write slot, oldest first.
`starved`: the 8-bit starvation count of each bank. -/
structure Nightwatch where
  enable : Bool := true
  interval : BitVec 16 := 0x086B
  pos : BitVec 13 := 0
  writebacks : List (BitVec 13) := []
  starved : Sparse (BitVec 8) := []
  deriving DecidableEq, Repr

/-- Starlog (15 R371–R373). -/
structure Starlog where
  base : RingBase := {}
  head : BitVec 16 := 0
  tail : BitVec 16 := 0
  enable : Bool := false
  period : BitVec 24 := 0x1388
  waiting : Option (List Word) := none
  serial : Word := 0
  dropped : BitVec 16 := 0
  droops : BitVec 16 := 0
  corrected : BitVec 16 := 0
  /-- Memory read and write beats of the interval (R371, words 8 and 9). -/
  readBeats : Word := 0
  writeBeats : Word := 0
  promoted : Bool := false
  deriving DecidableEq, Repr

/-- Lane map and calibration (15 R368–R370). -/
structure CalRegs where
  spare : BitVec 6 := 0x20
  rotPending : Bool := false
  enable : Bool := true
  period : BitVec 24 := 0x00C350
  roCount : BitVec 16 := 0
  lastFailed : Bool := false
  droopTrim : BitVec 6 := 0x20
  roTrim : BitVec 6 := 0x20
  deriving DecidableEq, Repr

/-- One DAWN_STEPn (16 R387). -/
structure StepLog where
  marked : Bool := false
  result : BitVec 2 := 0
  method : BitVec 2 := 0
  attempts : BitVec 8 := 0
  deriving DecidableEq, Repr

/-- The HCLK block: Dawn log, lane record and firmware address (16, 18 R417, R426). -/
structure DawnLog where
  serial : BitVec 16 := 0
  pinned : BitVec 6 := 0x3F
  failed : Bool := false
  laneValid : Bool := false
  step : BitVec 4 := 0
  lastExit : BitVec 2 := 0
  savedSpare : BitVec 6 := 0x20
  steps : Sparse StepLog := []
  fwLo : Word := 0
  fwValid : Bool := false
  fwHi : BitVec 20 := 0
  deriving DecidableEq, Repr

/-- POWER_STATUS.state (16). -/
inductive PowerState where
  | off
  | dawn
  | run
  | dusk
  deriving DecidableEq, Repr

/-- Power, pins and firmware status (16). -/
structure Power where
  state : PowerState := .off
  step : BitVec 4 := 0
  failed : Bool := false
  wakeLatched : Bool := false
  sleepLatched : Bool := false
  dawnDone : Bool := false
  en : Bool := false
  fence : Bool := false
  throttle : BitVec 2 := 0
  /-- The pre-emption latch (16 R391). -/
  preempt : Bool := false
  /-- The latch was set during a save or a restore: it acts on the command that executes next (13 R326). -/
  preemptKeep : Bool := false
  /-- FENCE rose while the command executed: its suspension is not cut short when the pin falls (16 R393). -/
  fenceStop : Bool := false
  /-- The queue passed over at the next command boundary (13 R326). -/
  passedOver : Option (BitVec 2) := none
  /-- D4 waits for its pulse; the pulse has come; D4 has failed by timeout (16 R377). -/
  syncWait : Bool := false
  syncPassed : Bool := false
  syncFailed : Bool := false
  /-- The DAWN packets latched during Dusk: their queues and packets (12 R291, 16 R388). -/
  latchedDawn : List (BitVec 2 × List Word) := []
  /-- The DUSK command whose reply ends Dusk (12 R291), and Dusk's step. -/
  duskCommand : Option (BitVec 2 × List Word) := none
  duskStep : BitVec 3 := 0
  fwRom : Bool := false
  fwVersion : BitVec 16 := 0
  deriving DecidableEq, Repr

/-- The clock-frequency registers (16 R376). -/
structure Clocks where
  aclk : Word := 0x00186A00
  pclk : Word := 0x00186A00
  cclk : Word := 0x0007A120
  hclk : Word := 0x0000C350
  deriving DecidableEq, Repr

/-- Pair modes (13 R306). -/
inductive PairModeKind where
  | split
  | lockstep
  | solo
  deriving DecidableEq, Repr

/-- The pair (13, 17 R406–R410). -/
structure Pair where
  mode : PairModeKind := .split
  stealing : Bool := false
  partner : PartnerState := .attached
  partnerFailed : Bool := false
  arrayBarred : Bool := false
  autoSolo : Bool := false
  diverged : Bool := false
  diverge : Rec5 := {}
  ctxReason : BitVec 8 := 0
  /-- The partner's steal bit, as forwarded (14 R335). -/
  partnerStealing : Bool := false
  credits : BitVec 5 := 16
  rx : List (Line × BitVec 112) := []
  /-- Array token: MXA_TOKEN of this twin, its request, the partner's request/held/queue, grant and release
  signals (17 R409), and who held it last (01 R37). -/
  token : Bool := false
  request : Bool := false
  partnerReq : Bool := false
  partnerHeld : Bool := false
  partnerQueue : BitVec 2 := 0
  grant : Bool := false
  release : Bool := false
  grantSeen : Bool := false
  releaseSeen : Bool := false
  lastSelf : Bool := false
  /-- Twin B has held the token under the grant it sees and released it (17 R409). -/
  grantUsed : Bool := false
  everGranted : Bool := false
  /-- LOCKSTEP: beats of A held for B's checks, oldest first, with their write tag and line (13 R311). -/
  held : List (WriteBeat × BitVec 6 × BitVec 45) := []
  /-- Checks of B that came before A's beats (17 R408). -/
  checks : List Word := []
  /-- LOCKSTEP: beats at the head of A's outbox that are translated and announced to B; beats announced to B whose checks
  it has not sent, those of a save that B has not begun apart (13 R311, log 10). -/
  went : Nat := 0
  goes : Nat := 0
  goesSave : Nat := 0
  /-- Beats to send that wait for a credit, oldest first (17 R407). -/
  tx : List (Line × BitVec 112) := []
  /-- A forwarded command as far as it has arrived: beats by index (13 R310, R317). -/
  fwd : Sparse Line := []
  /-- Drain quarters forwarded and not yet a whole beat: header and quarters (13 R310). -/
  quarters : List (BitVec 64 × BitVec 2 × Line) := []
  /-- The reply of the PAIR_MODE that leads to LOCKSTEP waits for its write; then LOCKSTEP begins (13 R309). -/
  entering : Bool := false
  /-- A steal this twin asked for and its owner's answer (13 R317). -/
  claim : Option StealOffer := none
  /-- Mirrored commands of LOCKSTEP twin B that are suspended with twin A's (13 R327). -/
  mirrored : List Running := []
  /-- Twin A's reply ring as its commands are forwarded to twin B, so that B forms the same reply beats (13 R311). -/
  mirrorRing : ReplyRing := {}
  deriving DecidableEq, Repr

/-- DBG_SEL and DBG_DATA (18 R419). -/
structure Debug where
  busy : Bool := false
  tag : Bool := false
  register : BitVec 7 := 0
  row : BitVec 5 := 0
  poison : Bool := false
  word : BitVec 5 := 0
  data : Word := 0
  deriving DecidableEq, Repr

/-- A line as a read returned it (17 R399). -/
structure RdLine where
  data : Line
  check : Word := 0
  info : BitVec 20 := 0
  poison : Bool := false
  deriving DecidableEq, Repr

/-- A read whose tag is in use (17 R398): the virtual line it serves and whose read it is: 0 the command's,
1 + q a fetch of queue q, 15 no longer wanted. -/
structure ReadReq where
  tag : BitVec 7
  owner : Nat
  vline : Nat
  idx : BitVec 16
  deriving DecidableEq, Repr

/-- A write whose tag is in use (17 R400): its physical line and whose write it is. -/
structure WriteReq where
  tag : BitVec 6
  owner : Nat
  line : BitVec 45
  deriving DecidableEq, Repr

/-- An outstanding translation request (17 R402): its owner, virtual page, kind, descriptor position and the
virtual address that a fault reports. -/
structure AtpReq where
  id : BitVec 6
  owner : Nat
  page : Nat
  kind : Nat
  pos : Nat
  va : Nat
  deriving DecidableEq, Repr

/-- A kept translation (17 R403): first virtual page, number of pages, physical page, whether it was
obtained by a write-kind request. -/
structure Xlat where
  page : Nat
  pages : Nat
  phys : Nat
  write : Bool
  deriving DecidableEq, Repr

/-- A line asked for and not yet requested: its owner, class and virtual line (01 R41). -/
structure Want where
  owner : Nat
  cls : BitVec 2
  vline : Nat
  deriving DecidableEq, Repr

/-- The memory and translation ports: what is in flight, what is kept, and what has come back. -/
structure Port where
  reads : List ReadReq := []
  wants : List Want := []
  writes : List WriteReq := []
  atps : List AtpReq := []
  xlats : List Xlat := []
  /-- Lines returned and not yet consumed: owner, virtual line, line. -/
  buf : List (Nat × Nat × RdLine) := []
  /-- Writes formed and not yet issued, oldest first. -/
  outbox : List WriteBeat := []
  /-- Faults that have not been acted on. -/
  faults : List XlatFault := []
  deriving DecidableEq, Repr

/-- The IEEE 1500 wrapper (17 R413). -/
structure Wrapper where
  wir : BitVec 8 := 0
  /-- An instruction other than WS_BYPASS has been updated: functional behaviour is undefined until PORESET. -/
  undefinedUntilCold : Bool := false
  mbistBusy : Bool := false
  mbistResult : BitVec 64 := 0
  deriving DecidableEq, Repr

/-- One transfer the block has driven. -/
inductive Wire where
  /-- A register-port response: data and error (17 R396). -/
  | reg (data : Word) (err : Bool)
  | readReq (tag : BitVec 7) (line : BitVec 45) (idx : BitVec 16) (cls : BitVec 2)
  | write (tag : BitVec 6) (line : BitVec 45) (data : Line) (ben : BitVec 128) (check : Word)
      (info : BitVec 20) (poison : Bool) (cls : BitVec 2)
  | atp (id : BitVec 6) (page : BitVec 40) (kind : BitVec 2)
  | ctl (word : BitVec 64)
  | opa (data : BitVec 4096) (kind : BitVec 2)
  | opb (data : BitVec 4096) (kind : BitVec 2)
  | pre (data : BitVec 4096)
  | pairData (data : Line) (sb : BitVec 112)
  | pairCheck (chk : Word)
  | pairCredit
  deriving DecidableEq, Repr

/-- The whole state. `wires` lists the transfers driven, newest first. `freeIx` counts the free values
drawn (log 9). `pending` is the queue of commands that wait, first in, first out (log 3). -/
structure State where
  arch : Arch := {}
  num : NumRegs := {}
  queues : Quad Queue := ⟨{}, {}, {}, {}⟩
  ring : ReplyRing := {}
  trap : Rec5 := {}
  cnt : Counters := {}
  err : ErrRegs := {}
  night : Nightwatch := {}
  star : Starlog := {}
  cal : CalRegs := {}
  dawn : DawnLog := {}
  pow : Power := {}
  clk : Clocks := {}
  pair : Pair := {}
  dbg : Debug := {}
  straps : StrapPins := ⟨0, false, 0, 0⟩
  port : Port := {}
  run : Option Running := none
  wrap : Wrapper := {}
  wires : List Wire := []
  freeIx : Nat := 0
  pending : List Instr := []
  deriving DecidableEq, Repr

/-- Why the machine stops. -/
inductive Fault where
  /-- Raised by every functional row but those of the register port once an EXTEST, INTEST, MBIST_RUN or MBIST_RESULT
  instruction has been updated and PORESET_N has not been asserted since: the manual calls functional behaviour undefined
  there and gives it no effect beside the answers of the register port (17 R413, 00 R4). Safe: the model stops where the
  hardware may do anything. -/
  | functionalUndefined
  deriving DecidableEq, Repr

/-- Why a command has no meaning. -/
inductive Refusal where
  /-- Raised by an arm of exec whose row has no meaning yet. Safe. -/
  | notModelled (mnemonic : String)
  deriving DecidableEq, Repr

/-- The block right after a cold reset with EN low: every field at the value of its field map; storages
and straps as logs 5 and 13 say. -/
def State.reset : State := {}

end Sys2Proof.Machine
end

