-- ==== Sys2Proof/Machine/Ops.lean ====
section
/-! DEFINITION. The named operations over storages, queues, counters and records that every meaning uses. -/

namespace Sys2Proof.Machine

open Sys2Proof

/-! ### Queues by number -/

/-- The component of queue `q`. -/
def Quad.get {α : Type} (x : Quad α) (q : BitVec 2) : α :=
  if q = 0 then x.q0 else if q = 1 then x.q1 else if q = 2 then x.q2 else x.q3

/-- Replace the component of queue `q`. -/
def Quad.set {α : Type} (x : Quad α) (q : BitVec 2) (v : α) : Quad α :=
  if q = 0 then { x with q0 := v } else if q = 1 then { x with q1 := v }
  else if q = 2 then { x with q2 := v } else { x with q3 := v }

/-- Apply a function to every component. -/
def Quad.map {α : Type} (f : α → α) (x : Quad α) : Quad α := ⟨f x.q0, f x.q1, f x.q2, f x.q3⟩

/-- The components in increasing queue number. -/
def Quad.toList {α : Type} (x : Quad α) : List α := [x.q0, x.q1, x.q2, x.q3]

/-- Queue `q` of the state. -/
def State.queue (s : State) (q : BitVec 2) : Queue := s.queues.get q

/-- Replace queue `q` of the state. -/
def State.setQueue (s : State) (q : BitVec 2) (v : Queue) : State := { s with queues := s.queues.set q v }

/-! ### Architectural storages -/

/-- The storage key of row `row` of register `reg` (tile, mask and S registers). -/
def rowKey (reg row : Nat) : Nat := 32 * reg + row

/-- Row `row` of tile register `reg`. -/
def Arch.row (a : Arch) (reg row : Nat) : TileRow := sget {} a.trf (rowKey reg row)

/-- The bytes a requester receives: zero where the row has never been written (01 R19). -/
def TileRow.bytes (t : TileRow) : Nat := if t.tag.valid then t.data.toNat else 0

/-- Write a tile row with its tag, and mark the register dirty (01 R17, 13 R329). -/
def Arch.setRow (a : Arch) (reg row : Nat) (t : TileRow) : Arch :=
  { a with trf := sset {} a.trf (rowKey reg row) t, dirty := a.dirty ||| (1 <<< reg) }

/-- A tile row with a fresh check (01 R17). -/
def freshRow (producer fmt : Nat) (poison : Bool) (data : Line) : TileRow :=
  ⟨data, ⟨BitVec.ofNat 16 producer, BitVec.ofNat 4 fmt, poison, true, rowCheck data⟩⟩

/-- Row `row` of mask `m`; M0 reads as all ones (01 R14). -/
def Arch.maskRow (a : Arch) (m row : Nat) : MaskRow :=
  if m = 0 then ⟨BitVec.allOnes 256, false⟩ else sget {} a.masks (rowKey m row)

/-- Write a row of a mask M1 to M15; M0 holds nothing (01 R14). -/
def Arch.setMask (a : Arch) (m row : Nat) (v : MaskRow) : Arch :=
  if m = 0 then a else { a with masks := sset {} a.masks (rowKey m row) v }

/-- Row `row` of S register `n`. -/
def Arch.srow (a : Arch) (n row : Nat) : SRow := sget {} a.sregs (rowKey n row)

/-- Write a row of an S register. -/
def Arch.setSrow (a : Arch) (n row : Nat) (v : SRow) : Arch :=
  { a with sregs := sset {} a.sregs (rowKey n row) v }

/-- A 128-byte row of the WAS. -/
def Arch.wasRow (a : Arch) (k : Nat) : WasRow := sget {} a.was k

/-- Write a WAS row; the check it carries is `check` (15 R442). -/
def Arch.setWas (a : Arch) (k : Nat) (data : Line) (check : Word) (poison : Bool) : Arch :=
  { a with was := sset {} a.was k ⟨data, check ^^^ rowCheck data, poison⟩ }

/-- Write a WAS row with the check of its own bytes (15 R442). -/
def Arch.setWasFresh (a : Arch) (k : Nat) (data : Line) (poison : Bool) : Arch :=
  { a with was := sset {} a.was k ⟨data, 0, poison⟩ }

/-- The check a WAS row carries. -/
def WasRow.check (r : WasRow) : Word := r.badCheck ^^^ rowCheck r.data

/-- Granule `g` of the chain store. -/
def Arch.granule (a : Arch) (g : Nat) : BitVec 512 := sget 0 a.granules g

/-- Every storage zero, every tag clear, no program (01 R12). -/
def Arch.cleared : Arch := {}

/-! ### Counters (00 R9, 18 R423-R425) -/

/-- Largest counter value. -/
def counterMax : Nat := 0xFFFFFFFFFF

/-- Value of the counter in slot `k`. -/
def Counters.value (c : Counters) (k : Nat) : Nat := sget 0 c.vals k

/-- Raise a counter, saturating (00 R9). -/
def Counters.raise (c : Counters) (k n : Nat) : Counters :=
  { c with vals := sset 0 c.vals k (Nat.min (c.value k + n) counterMax) }

/-- Raise every counter of a list of increments. -/
def Counters.raiseAll (c : Counters) (l : Sparse Nat) : Counters :=
  l.foldl (fun c kn => c.raise kn.1 kn.2) c

/-- Raise the counter in slot `k` by one. -/
def State.count (s : State) (k : Nat) : State := { s with cnt := s.cnt.raise k 1 }

/-- Raise the counter in slot `k` by `n`. -/
def State.countBy (s : State) (k n : Nat) : State := { s with cnt := s.cnt.raise k n }

/-! ### Counter slots: the counter at 0x1880 + 8 × slot (18 R423-R425); slot f is SAT_CNT of format f -/

def cREFUSED : Nat := 16
def cDUPLICATE : Nat := 17
def cSTALE : Nat := 18
def cABORTED : Nat := 19
def cPREEMPT : Nat := 20
def cFENCESUSP : Nat := 21
def cXLATFAULT : Nat := 22
def cREPLYSTALL : Nat := 23
def cCFGIGN : Nat := 24
def cNANPROD : Nat := 25
def cNANCONS : Nat := 26
def cNANDROP : Nat := 27
def cNANTRAP : Nat := 28
def cFTZ : Nat := 29
def cT2RES : Nat := 30
def cINVROW : Nat := 31
def cFMTMIS : Nat := 32
def cZEROBLK : Nat := 33
def cNANBLK : Nat := 34
def cCLAMPLO : Nat := 35
def cSTARLIFT : Nat := 36
def cSTARDEM : Nat := 37
def cSIDEMAL : Nat := 38
def cSCALEUNF : Nat := 39
def cSCALEOVF : Nat := 40
def cMXAREPLAY : Nat := 41
def cACCSAT : Nat := 42
def cMXAPROT : Nat := 43
def cMASKROW : Nat := 44
def cGATHER : Nat := 45
def cOOBDROP : Nat := 46
def cG2FALL : Nat := 47
def cBANDSTOLEN : Nat := 48
def cSTEALAB : Nat := 49
def cLOCKDIV : Nat := 50
def cPOISON : Nat := 51
def cROWCHECK : Nat := 52
def cRESERR : Nat := 53
def cRESRETRY : Nat := 54
def cECCCORR : Nat := 55
def cECCUNC : Nat := 56
def cSCRUB : Nat := 57
def cCALFAIL : Nat := 58
def cDROOP : Nat := 59
def cLANEROT : Nat := 60
def cSTARDROP : Nat := 61
def cSYNCIGN : Nat := 62
def cPRECOAL : Nat := 63
def cSTRAY : Nat := 64

/-! ### Pending commits (03 R84) -/

/-- Add `n` events of counter slot `k` to a pending commit. -/
def Pend.add (p : Pend) (k n : Nat) : Pend :=
  if n = 0 then p else { p with counts := sset 0 p.counts k (sget 0 p.counts k + n) }

/-- The tile an event falls on: its G2 tile or its column tile (03 R88, 14 R344). -/
def NanEv.tile (g2 : Bool) (w : Nat) (e : NanEv) : Nat :=
  if g2 then (e.row / 16) * 2 ^ 32 + (e.colTile * w + e.col) / 16 else e.colTile

/-- Keep the first NaN event: an event of an earlier tile replaces a later one, and within a tile the
earlier recorded stays (03 R88). -/
def Pend.addNan (p : Pend) (g2 : Bool) (w : Nat) (e : NanEv) : Pend :=
  match p.nan with
  | none => { p with nan := some e }
  | some o => if e.band < o.band || (e.band = o.band && e.tile g2 w < o.tile g2 w) then { p with nan := some e } else p

/-! ### Free values -/

/-- Take the next index of a free value (log 9). -/
def State.drawFree (s : State) : State := { s with freeIx := s.freeIx + 1 }

/-! ### Interrupt and error status -/

/-- Set bits of ERR_STATUS (15 R362). -/
def State.raiseErr (s : State) (k : Nat) : State :=
  { s with err := { s.err with status := s.err.status ||| BitVec.ofNat 13 (1 <<< k) } }

/-- Append a transfer to the record of what the block has driven. -/
def State.drive (s : State) (w : Wire) : State := { s with wires := w :: s.wires }

/-- The fields of the error record (15 R364). -/
structure ErrRec where
  kind : Nat
  storage : Nat := 0
  source : Nat := 0
  twin : Bool := false
  pass : Nat := 0
  stage : Nat := 0
  uop : Nat := 0
  seq : Nat := 0
  band : Nat := 0
  colTile : Nat := 0
  register : Nat := 0x7F
  row : Nat := 0
  column : Nat := 0x3F
  deriving DecidableEq, Repr

/-- Fill the error record when it is empty (15 R364). -/
def State.recordErr (s : State) (q : BitVec 2) (e : ErrRec) : State :=
  if s.err.record.w0.getLsbD 31 then s else
  { s with err := { s.err with record :=
    { w0 := BitVec.ofNat 32 (1 <<< 31 + (e.kind % 4) <<< 29 + q.toNat <<< 27 + (e.storage % 8) <<< 24 + (e.source % 8) <<< 21
        + (if e.twin then 1 <<< 20 else 0) + (e.pass % 16) <<< 16 + (e.stage % 8) <<< 13 + (e.uop % 128) <<< 6)
      w1 := BitVec.ofNat 32 e.seq
      w2 := BitVec.ofNat 32 e.band
      w3 := BitVec.ofNat 32 e.colTile
      w4 := BitVec.ofNat 32 ((e.register % 128) <<< 25 + (e.row % 32) <<< 20 + (e.column % 64) <<< 14) } } }

/-- A meaning in the functional state: after a wrapper instruction other than WS_BYPASS nothing functional
is defined until PORESET_N (17 R413, 00 R4). -/
def functional (s t : State) : Host.Outcome State Fault Refusal :=
  if s.wrap.undefinedUntilCold then .fault .functionalUndefined else .next t

end Sys2Proof.Machine
end

