-- ==== Sys2Proof/Machine/Descriptor.lean ====
section
/-! DEFINITION. Tensor descriptors: fields, logical view, element addresses, validation, the alias test, and the bits
a tile row reads from and writes to memory (10 R238-R261). -/

namespace Sys2Proof.Machine

open Sys2Proof

/-- A dimension record (10 R239). -/
structure DimRec where
  extent : Nat
  bound : Nat
  origin : Int
  stride : Int
  step : Nat
  deriving DecidableEq, Repr

/-- A descriptor (10 R238). -/
structure Desc where
  base : Nat
  tensorId : Nat
  format : Nat
  cls : Nat
  rowDims : Nat
  oobMask : Nat
  allowAlias : Bool
  haloWrite : Bool
  sealOut : Bool
  sealCheck : Bool
  transpose : Bool
  rowLen : Nat
  gCol0 : Nat
  gRow0 : Nat
  haloRHi : Nat
  haloRLo : Nat
  haloCHi : Nat
  haloCLo : Nat
  winNx : Nat
  winDilX : Nat
  winDimX : Nat
  winNy : Nat
  winDilY : Nat
  winDimY : Nat
  sealAddr : Nat
  dims : List DimRec
  deriving DecidableEq, Repr

/-- The record of dimension `k` in a descriptor's words. -/
def dimOf (ws : List Nat) (k : Nat) : DimRec :=
  let w (n : Nat) := nth ws (12 + 5 * k + n)
  { extent := w 0, bound := w 1, origin := toSigned 32 (w 2)
    stride := toSigned 56 (w 3 + (bits (w 4) 0 24) <<< 32), step := bits (w 4) 28 4 }

/-- The descriptor held in 32 words. -/
def descOf (ws : List Nat) : Desc :=
  let w := nth ws
  { base := w 0 + (bits (w 1) 0 20) <<< 32, tensorId := w 2, format := bits (w 3) 28 4, cls := bits (w 3) 26 2
    rowDims := bits (w 3) 24 2, oobMask := bits (w 3) 20 4, allowAlias := bit (w 3) 19, haloWrite := bit (w 3) 18
    sealOut := bit (w 3) 17, sealCheck := bit (w 3) 16, transpose := bit (w 3) 15
    rowLen := w 4, gCol0 := w 5, gRow0 := w 6
    haloRHi := bits (w 7) 24 8, haloRLo := bits (w 7) 16 8, haloCHi := bits (w 7) 8 8, haloCLo := bits (w 7) 0 8
    winNx := bits (w 8) 26 6, winDilX := bits (w 8) 22 4, winDimX := bits (w 8) 20 2
    winNy := bits (w 8) 14 6, winDilY := bits (w 8) 10 4, winDimY := bits (w 8) 8 2
    sealAddr := w 9 + (bits (w 10) 0 20) <<< 32
    dims := (List.range 4).map (dimOf ws) }

/-- Record of dimension `k`. -/
def Desc.dim (d : Desc) (k : Nat) : DimRec := d.dims.getD k ⟨1, 1, 0, 0, 1⟩
/-- Extent of dimension `k`. -/
def Desc.ext (d : Desc) (k : Nat) : Nat := (d.dim k).extent

/-- Row dimensions of the view, fastest first; `tr`: the view is transposed (10 R240). -/
def Desc.viewRows (d : Desc) (tr : Bool) : List Nat :=
  let ks := (List.range d.rowDims).map (· + 1)
  if tr then 0 :: ks.drop 1 else ks

/-- Column dimension of the view. -/
def Desc.viewCol (tr : Bool) : Nat := if tr then 1 else 0

/-- Local column count (10 R240). -/
def Desc.cLocal (d : Desc) (tr : Bool) : Nat :=
  d.ext (Desc.viewCol tr) * Nat.max 1 d.winNx * Nat.max 1 d.winNy

/-- Local row count (10 R240). -/
def Desc.rLocal (d : Desc) (tr : Bool) : Nat := ((d.viewRows tr).map d.ext).foldl (· * ·) 1

/-- Logical row length (10 R240). -/
def Desc.rowLength (d : Desc) (tr : Bool) : Nat := if d.rowLen = 0 then d.cLocal tr else d.rowLen

/-- Product of the bounds of the row dimensions: B of 10 R249. -/
def Desc.gatherBound (d : Desc) : Nat :=
  ((List.range d.rowDims).map fun k => (d.dim (k + 1)).bound).foldl (· * ·) 1

/-- View coordinates x0 to x3 of local row ρ and column j (10 R240, R241). -/
def Desc.coords (d : Desc) (tr : Bool) (rho j : Nat) : List Nat :=
  let split (ks : List Nat) : List (Nat × Nat) :=
    (ks.foldl (fun (acc : List (Nat × Nat) × Nat) k =>
      let e := Nat.max 1 (d.ext k)
      (acc.1 ++ [(k, acc.2 % e)], acc.2 / e)) ([], rho)).1
  let col := if tr then j else j % Nat.max 1 (d.ext 0)
  let xs := (Desc.viewCol tr, col) :: split (d.viewRows tr)
  (List.range 4).map fun k => match xs.find? (fun p => p.1 = k) with | some p => p.2 | none => 0

/-- The bit address of view element (ρ, j) inside memory, and whether no coordinate was clamped (10 R241,
R246, R249). `g`: the gathered row, when rows are gathered. -/
def Desc.elem (d : Desc) (tr : Bool) (g : Option Int) (rho j : Nat) : Int × Bool :=
  let xs := d.coords tr rho j
  let e0 := Nat.max 1 (d.ext 0)
  let tx := if tr then 0 else j / e0 % Nat.max 1 d.winNx
  let ty := if tr then 0 else j / (e0 * Nat.max 1 d.winNx)
  let phys (k : Nat) : Int :=
    let r := d.dim k
    r.origin + r.step * nth xs k + (((if d.winNx != 0 && k = d.winDimX then tx * d.winDilX else 0 : Nat)) : Int)
      + (((if d.winNy != 0 && k = d.winDimY then ty * d.winDilY else 0 : Nat)) : Int)
  let clamp (k : Nat) (p : Int) : Int :=
    let hi : Int := (d.dim k).bound - 1
    if p < 0 then 0 else if p > hi then hi else p
  let q0 := clamp 0 (phys 0)
  let ok0 : Bool := q0 = phys 0
  let rows : List (Nat × Int) × Bool := match g with
    | some g =>
      let b : Int := d.gatherBound
      let g' := if g < 0 then 0 else if g ≥ b then b - 1 else g
      let b1 : Int := (d.dim 1).bound
      let b2 : Int := (d.dim 2).bound
      (((List.range d.rowDims).map fun k =>
        (k + 1, if k = 0 then g' % b1 else if k = 1 then g' / b1 % b2 else g' / (b1 * b2))), g' = g)
    | none =>
      ((List.range d.rowDims).map fun k => (k + 1, clamp (k + 1) (phys (k + 1))),
       (List.range d.rowDims).all fun k => clamp (k + 1) (phys (k + 1)) = phys (k + 1))
  let byteOff := rows.1.foldl (fun acc kq => acc + (d.dim kq.1).stride * kq.2) (d.base : Int)
  (byteOff * 8 + (d.dim 0).stride * q0 * fmtBits d.format, ok0 && rows.2)

/-- The gather index of a row was clamped (10 R249). -/
def Desc.gatherClamped (d : Desc) (g : Int) : Bool := decide (g < 0) || decide (g ≥ d.gatherBound)

/-! ### Validation (10 R244, R250-R252, R261) -/

/-- How a command uses a descriptor: loaded, stored, gathered, an element-tensor slot of a program, an operand
of a product, its command's transposing mode, an index tensor. -/
structure DescRole where
  load : Bool := false
  store : Bool := false
  gather : Bool := false
  element : Bool := false
  product : Bool := false
  modeTrans : Bool := false
  tensor : Bool := true
  deriving DecidableEq, Repr

/-- Reserved fields and unused records are zero; the format may stand in a tile (reason 0x01). -/
def descReserved (ws : List Nat) (d : Desc) : Bool :=
  bits (nth ws 1) 20 12 = 0 && bits (nth ws 3) 0 15 = 0 && bits (nth ws 8) 0 8 = 0 &&
  bits (nth ws 10) 20 12 = 0 && nth ws 11 = 0 &&
  ((List.range 4).all fun k =>
    if k ≤ d.rowDims then bits (nth ws (16 + 5 * k)) 24 4 = 0
    else (List.range 5).all fun n => nth ws (12 + 5 * k + n) = 0) &&
  d.format != 13 && d.format != 14

/-- Extents, bounds and steps in use are non-zero (reason 0x02). -/
def descDims (d : Desc) : Bool :=
  decide (1 ≤ d.rowDims) && ((List.range (d.rowDims + 1)).all fun k =>
    (d.dim k).extent != 0 && (d.dim k).bound != 0 && (d.dim k).step != 0)

/-- The least and the greatest clamped coordinate of dimension k. -/
def Desc.coordRange (d : Desc) (gather : Bool) (k : Nat) : Int × Int :=
  let r := d.dim k
  let hi : Int := r.bound - 1
  if gather && decide (k ≥ 1) then (0, hi) else
  let tap (n dil dm : Nat) : Int := if n != 0 && dm = k then (((n - 1) * dil : Nat) : Int) else 0
  let a := r.origin
  let b := r.origin + r.step * (r.extent - 1 : Nat) + tap d.winNx d.winDilX d.winDimX + tap d.winNy d.winDilY d.winDimY
  let cl (p : Int) : Int := if p < 0 then 0 else if p > hi then hi else p
  (cl a, cl b)

/-- The lowest and highest bit address of the view. -/
def Desc.addrRange (d : Desc) (gather : Bool) : Int × Int :=
  (List.range (d.rowDims + 1)).foldl (fun (acc : Int × Int) k =>
    let s := (d.dim k).stride * (if k = 0 then (fmtBits d.format : Int) else 8)
    let (a, b) := d.coordRange gather k
    let lo := if s * a ≤ s * b then s * a else s * b
    let hi := if s * a ≤ s * b then s * b else s * a
    (acc.1 + lo, acc.2 + hi)) ((d.base * 8 : Nat), (d.base * 8 : Nat))

/-- Addresses lie in 0 to 2^52 − 1 (reason 0x03). -/
def descRange (d : Desc) (gather : Bool) : Bool :=
  let (lo, hi) := d.addrRange gather
  decide (0 ≤ lo) && decide (hi + fmtBits d.format ≤ 2 ^ 55)

/-- Packed formats and alignment (reason 0x04). -/
def descAlign (d : Desc) : Bool :=
  let b := fmtBits d.format
  if b < 8 then (d.dim 0).stride = 1
  else if b = 8 then true
  else
    let n := b / 8
    d.base % n = 0 && ((List.range d.rowDims).all fun k => (d.dim (k + 1)).stride % (n : Int) = 0)

/-- Window fields (reason 0x05). -/
def descWindow (d : Desc) (r : DescRole) : Bool :=
  if d.winNx = 0 then d.winNy = 0 else
  !r.store && decide (1 ≤ d.winDimX) && decide (d.winDimX ≤ d.rowDims) && d.winDilX != 0 &&
  (d.winNy = 0 || (decide (1 ≤ d.winDimY) && decide (d.winDimY ≤ d.rowDims) && d.winDilY != 0 &&
    d.winDimX != d.winDimY))

/-- Transposition (reason 0x06). -/
def descTrans (d : Desc) (r : DescRole) : Bool :=
  !(r.product && d.transpose) &&
  (!(d.transpose || r.modeTrans) || (!r.store && d.winNx = 0 && !r.gather && d.format != 11))

/-- Halo widths (reason 0x07). -/
def descHalo (d : Desc) : Bool :=
  decide (d.haloCLo + d.haloCHi ≤ d.ext 0) && decide (d.haloRLo + d.haloRHi ≤ d.ext d.rowDims)

/-- Logical columns (reason 0x08). -/
def descCols (d : Desc) (tr : Bool) : Bool :=
  d.gCol0 % 32 = 0 && (d.rowLen = 0 || decide (d.gCol0 + d.cLocal tr ≤ d.rowLen))

/-- Seal fields (reason 0x0A). Only a tensor whose rows move can carry or check a seal: an export has no canonical row checks
(10 R255; log 57). -/
def descSeal (d : Desc) (r : DescRole) : Bool :=
  (!d.sealOut || (r.store && r.tensor)) && (!d.sealCheck || (r.load && r.tensor)) &&
  (!(d.sealOut || d.sealCheck) ||
    (!d.allowAlias && !d.transpose && !r.modeTrans && d.winNx = 0 && !r.gather && d.sealAddr % 64 = 0))

/-- The first failing check 0x01 to 0x0A of R261, in its order. -/
def descFault (ws : List Nat) (d : Desc) (r : DescRole) : Option Nat :=
  let tr := d.transpose || r.modeTrans
  if !descReserved ws d then some 0x01
  else if !descDims d then some 0x02
  else if !descRange d r.gather then some 0x03
  else if !descAlign d then some 0x04
  else if !descWindow d r then some 0x05
  else if !descTrans d r then some 0x06
  else if !descHalo d then some 0x07
  else if !descCols d tr then some 0x08
  else if d.oobMask != 0 && !(r.element && r.load) then some 0x09
  else if !descSeal d r then some 0x0A
  else none

/-- Insert by byte stride, ties keeping the lower dimension first. -/
def insertStride (x : Nat × Nat) : List (Nat × Nat) → List (Nat × Nat)
  | [] => [x]
  | y :: ys => if x.1 < y.1 then x :: y :: ys else y :: insertStride x ys

/-- The alias test of R244 on bit strides. -/
def aliasFree (d : Desc) : Bool :=
  let ds := (List.range (d.rowDims + 1)).filter (fun k => decide (d.ext k > 1))
  let ss := ds.map fun k =>
    ((d.dim k).stride.natAbs * (if k = 0 then fmtBits d.format else 8), (d.dim k).bound)
  let sorted := ss.foldl (fun acc x => insertStride x acc) []
  ss.all (fun x => x.1 != 0) &&
    (sorted.zip (sorted.drop 1)).all (fun p => decide (p.1.2 * p.1.1 ≤ p.2.1))

/-! ### Lines and bits -/

/-- The number of 128-byte line of a bit address. -/
def lineOfBit (b : Int) : Nat := (b / 1024).toNat

/-- Drop a value equal to the one before it. -/
def squeeze : List Nat → List Nat
  | [] => []
  | [x] => [x]
  | x :: y :: r => if x = y then squeeze (y :: r) else x :: squeeze (y :: r)

/-- The lines that an element of `w` bits at bit address `b` touches. -/
def elemLines (w : Nat) (b : Int) : List Nat :=
  let l := lineOfBit b
  let h := lineOfBit (b + w - 1)
  if l = h then [l] else [l, h]

/-- The lines read for columns c0 to c0 + n − 1 of view row ρ, clamped into the shape (10 R246, R253). -/
def rowLines (d : Desc) (tr : Bool) (g : Option Int) (rho c0 n : Nat) : List Nat :=
  let last := d.cLocal tr - 1
  squeeze ((List.range (Nat.min n (d.cLocal tr - c0))).flatMap fun k =>
    elemLines (fmtBits d.format) (d.elem tr g rho (Nat.min (c0 + k) last)).1)

/-- What has been read: a line, zero where none is held. -/
def bufLine (buf : Sparse RdLine) (l : Nat) : RdLine := sget ⟨0, 0, 0, false⟩ buf l

/-- The `w` bits at bit address `b`, and whether a line they come from is poisoned. -/
def bufBits (buf : Sparse RdLine) (w : Nat) (b : Int) : Nat × Bool :=
  let l := lineOfBit b
  let x := bufLine buf l
  let off := (b % 1024).toNat
  if off + w ≤ 1024 then (bits x.data.toNat off w, x.poison)
  else
    let y := bufLine buf (l + 1)
    (bits (x.data.toNat + y.data.toNat <<< 1024) off w, x.poison || y.poison)

/-- The codes, OOB bits and poison of view row ρ, columns c0 to c0 + n − 1 (10 R246, R247, R257). A row outside
the shape reads the last row, a column outside it the last column. -/
def readRow (buf : Sparse RdLine) (d : Desc) (tr : Bool) (g : Option Int) (rho c0 n : Nat) :
    List Nat × List Bool × Bool :=
  let lastC := d.cLocal tr - 1
  let lastR := d.rLocal tr - 1
  let es := (List.range n).map fun k =>
    let j := c0 + k
    let e := d.elem tr g (Nat.min rho lastR) (Nat.min j lastC)
    let v := bufBits buf (fmtBits d.format) e.1
    (v.1, e.2 && decide (rho ≤ lastR) && decide (j ≤ lastC), v.2)
  (es.map (·.1), es.map (·.2.1), es.any (·.2.2))

/-- Element (ρ, j) is a halo element (10 R254). -/
def Desc.isHalo (d : Desc) (rho j : Nat) : Bool :=
  let xs := d.coords false rho j
  let x0 := nth xs 0
  let xr := nth xs d.rowDims
  decide (x0 < d.haloCLo) || decide (x0 + d.haloCHi ≥ d.ext 0) ||
  decide (xr < d.haloRLo) || decide (xr + d.haloRHi ≥ d.ext d.rowDims)

/-- Bytes of one line being formed: data and enables. -/
structure LineAcc where
  data : Nat := 0
  ben : Nat := 0
  deriving DecidableEq, Repr

/-- Replace `w` bits at offset `off`. -/
def putBits (x off w v : Nat) : Nat := x - (bits x off w) <<< off + (v % 2 ^ w) <<< off

/-- Put an element's bits into the lines being formed; a line is kept in the order it is first touched. -/
def putElem (ls : List (Nat × LineAcc)) (b : Int) (w v : Nat) : List (Nat × LineAcc) :=
  let put (ls : List (Nat × LineAcc)) (l off w v : Nat) : List (Nat × LineAcc) :=
    if ls.any (fun p => p.1 = l) then
      ls.map fun p => if p.1 = l then (l, { p.2 with data := putBits p.2.data off w v }) else p
    else ls ++ [(l, { data := (v % 2 ^ w) <<< off })]
  let l := lineOfBit b
  let off := (b % 1024).toNat
  if off + w ≤ 1024 then put ls l off w v
  else
    let n := 1024 - off
    put (put ls l off n v) (l + 1) 0 (w - n) (v >>> n)

/-- Enable the bytes lo to hi (byte addresses) of the lines being formed. -/
def enableBytes (ls : List (Nat × LineAcc)) (lo n : Nat) : List (Nat × LineAcc) :=
  (List.range n).foldl (fun ls k =>
    let a := lo + k
    let l := a / 128
    let m := 1 <<< (a % 128)
    if ls.any (fun p => p.1 = l) then
      ls.map fun p => if p.1 = l then (l, { p.2 with ben := p.2.ben ||| m }) else p
    else ls ++ [(l, { ben := m })]) ls

/-- The bytes a stored element enables: its own, or for FP6 its whole 24-bit group (10 R254, R248): first byte
and count. `q0` is the element's coordinate in its run. -/
def storeBytes (w : Nat) (b : Int) (q0 : Nat) : Nat × Nat :=
  if w = 6 then (((b - (6 * (q0 % 4) : Nat)) / 8).toNat, 3) else ((b / 8).toNat, cdiv w 8)

/-- Coordinate of store column j in its run (10 R241). -/
def Desc.runCoord (d : Desc) (j : Nat) : Nat := ((d.dim 0).origin + (d.dim 0).step * j).toNat

/-- The lines written for columns c0 to c0 + n − 1 of row ρ holding `codes`, and the elements dropped because
their coordinate lies outside the bounds (10 R248, R254). -/
def storeRow (d : Desc) (rho c0 : Nat) (codes : List Nat) : List (Nat × LineAcc) × Nat :=
  let n := Nat.min codes.length (d.cLocal false - c0)
  let w := fmtBits d.format
  let es := (List.range n).map fun k => (d.elem false none rho (c0 + k), (nth codes k, c0 + k), d.haloWrite || !d.isHalo rho (c0 + k))
  let drops := (es.filter (fun e => !e.1.2)).length
  let es := es.filter (fun e => e.1.2)
  let es := if w < 8 then es else es.filter (·.2.2)
  let ls := es.foldl (fun ls e => putElem ls e.1.1 w e.2.1.1) []
  let ls := es.foldl (fun ls e => if e.2.2 then
    let (a, k) := storeBytes w e.1.1 (d.runCoord e.2.1.2)
    enableBytes ls a k else ls) ls
  (ls.filter (fun p => p.2.ben != 0), drops)

end Sys2Proof.Machine
end

