-- ==== Sys2Proof/Config.lean ====
section
/-! DEFINITION. What the manual leaves free: constants without a body, so that nothing can evaluate them (log 7, 9, 11). -/

namespace Sys2Proof.Config

/-- An element value that the manual states no value for: the latch of an rred, rstat or wmerge stage
(04 R94, R99), indexed by the state's `freeIx` and the element's place. DESIGN CHOICE (log 9). -/
opaque freeElement : Nat → Nat → Nat

/-- A 16-bit random word of code 6 whose draw number depends on masks of blocks not yet run
(14 R345). UNVERIFIED (log 11). -/
opaque freeG2Word : Nat → Nat → Nat

/-- By how many waiting clocks TRF_PORT_STALLS or TMV_PIN_STALLS (18 R425) has risen since it was last brought up to date, in a
model without a clock. DESIGN CHOICE (log 7). -/
opaque freeStallCount : Nat → BitVec 40

/-- What a register outside the Dawn log reads as once functional behaviour is undefined (17 R413, 00 R4). DESIGN CHOICE (log 46). -/
opaque freeRegister : Nat → BitVec 32

/-- The tensor identifier that keys the stochastic stages of a score program, whose primary output tensor, slot 1, has no
descriptor (09 R225, 03 R73). DESIGN CHOICE (log 16). -/
opaque freeTensorId : Nat → Nat

/-- The FP32 code that fold_w writes into the mean (field 3) or M2 (field 4) where the counts it folds, `n` and `nb`, sum
to zero and its quotient has no value (06 R157). DESIGN CHOICE (log 51). -/
opaque freeWelford : Int → Int → Nat → BitVec 32

end Sys2Proof.Config
end

