-- ==== Sys2Proof/Machine/Flags.lean ====
section
/-! DEFINITION. The status words and lines the block computes from its state: interrupts, READY, Qn_CTRL, PAIR_STATUS,
POWER_STATUS, records, and the Almanac word. -/

namespace Sys2Proof.Machine

open Sys2Proof

/-- ERR_STATUS bits that always raise IRQ_ERR (15 R362). -/
def errFixed : BitVec 13 := 0x13DE

/-- IRQ_ERR (15 R362). -/
def State.irqErr (s : State) : Bool :=
  s.err.status &&& (errFixed ||| s.err.enable.setWidth 13) != 0

/-- IRQ_TRAP (17 R411). -/
def State.irqTrap (s : State) : Bool := s.trap.w0.getLsbD 31

/-- IRQ_REPLY (12 R280). -/
def State.irqReply (s : State) : Bool := s.ring.irq

/-- READY (16 R383). -/
def State.ready (s : State) : Bool := s.pow.dawnDone && !s.pow.fence

/-- The partner is detached (13 R307). -/
def Pair.detached (p : Pair) : Bool := p.partner = .detached || p.partner = .failed

/-- Code of a pair mode. -/
def PairModeKind.code : PairModeKind → Nat
  | .split => 0
  | .lockstep => 1
  | .solo => 2

/-- One bit of a word. -/
def flag (b : Bool) (k : Nat) : Word := if b then BitVec.ofNat 32 (1 <<< k) else 0

/-- A word from a number. -/
def w32 (n : Nat) : Word := BitVec.ofNat 32 n

/-- The executing command is one of queue `q`, not a stolen band. -/
def State.busy (s : State) (q : BitVec 2) : Bool :=
  match s.run with
  | some r => r.queue = q && r.stolen.isNone
  | none => false

/-- Qn_CTRL (12 R273). -/
def State.queueCtrl (s : State) (q : BitVec 2) : Word :=
  let x := s.queue q
  flag x.enable 31 ||| flag x.preemptLower 30 ||| flag (s.busy q) 4 ||| flag x.waitFence.isSome 3 |||
  flag x.susp.isSome 2 ||| flag x.halted 1

/-- A ring's base registers (12 R273). -/
def RingBase.loWord (b : RingBase) : Word := w32 (b.lo.toNat <<< 12)
/-- The high base register. -/
def RingBase.hiWord (b : RingBase) : Word := w32 (b.size.toNat <<< 28 + b.hi.toNat)
/-- The ring's base address. -/
def RingBase.addr (b : RingBase) : Nat := b.hi.toNat <<< 32 + b.lo.toNat <<< 12
/-- Entries of the ring. -/
def RingBase.entries (b : RingBase) : Nat := 2 ^ (b.size.toNat + 4)

/-- PAIR_STATUS (13). -/
def State.pairStatus (s : State) : Word :=
  let p := s.pair
  flag p.diverged 7 ||| flag p.partnerFailed 6 ||| flag p.arrayBarred 5 ||| flag p.detached 4 |||
  flag p.stealing 3 ||| flag p.autoSolo 2 ||| w32 p.mode.code

/-- Code of a power state. -/
def PowerState.code : PowerState → Nat
  | .off => 0
  | .dawn => 1
  | .run => 2
  | .dusk => 3

/-- POWER_STATUS (16). -/
def State.powerStatus (s : State) : Word :=
  let p := s.pow
  flag p.failed 11 ||| flag p.wakeLatched 10 ||| flag p.sleepLatched 9 ||| flag p.fence 8 |||
  w32 (p.step.toNat <<< 4) ||| w32 p.state.code

/-- A queue is halted by a NaN trap. -/
def State.anyHalted (s : State) : Bool := s.queues.toList.any (·.halted)

/-- TRAP_REC0 as it reads: its halted bit shows the queues (03 R89). -/
def State.trapRec0 (s : State) : Word := s.trap.w0 ||| flag s.anyHalted 30

/-- NUM_CFG fields. -/
def NumRegs.ftz (n : NumRegs) : Bool := n.numCfg.getLsbD 2
def NumRegs.ovfInf (n : NumRegs) : Bool := n.numCfg.getLsbD 3
def NumRegs.trapMode (n : NumRegs) : Bool := n.numCfg.getLsbD 4
def NumRegs.nanIn (n : NumRegs) : Bool := n.numCfg.getLsbD 5
def NumRegs.meridian (n : NumRegs) : Bool := n.numCfg.getLsbD 6
def NumRegs.g2Emul (n : NumRegs) : Bool := n.numCfg.getLsbD 7
def NumRegs.g2Fallback (n : NumRegs) : Bool := n.numCfg.getLsbD 8
/-- Rounding field of tensor class `c` (03 R71). -/
def NumRegs.rnd (n : NumRegs) (c : Nat) : Nat := bits n.numCfg.toNat (9 + 3 * (c % 4)) 3

/-- The value that bit `k` of ALMANAC_MASK selects (14 R336). -/
def NumRegs.almanacField (n : NumRegs) : Nat → Nat
  | 0 => n.rnd 0
  | 1 => n.rnd 1
  | 2 => n.rnd 2
  | 3 => n.rnd 3
  | 4 => bits n.numCfg.toNat 2 1
  | 5 => bits n.numCfg.toNat 3 1
  | 6 => bits n.numCfg.toNat 4 1
  | 7 => bits n.numCfg.toNat 5 1
  | 8 => bits n.numCfg.toNat 6 1
  | 9 => bits n.numCfg.toNat 7 1
  | 10 => bits n.numCfg.toNat 8 1
  | 11 => n.seedLo.toNat
  | 12 => n.seedHi.toNat
  | _ => n.stepWindow.toNat

/-- cfg_crc (14 R336). -/
def NumRegs.cfgCrc (n : NumRegs) : Nat :=
  let ks := (List.range 14).filter (fun k => n.almanacMask.getLsbD k)
  if ks.isEmpty then 0 else crcWords (ks.map n.almanacField)

/-- The Almanac word under a copy of the numerics registers; `native`: numerics of version 3.1 (14 R335). -/
def almanacOf (n : NumRegs) (stealing native : Bool) : BitVec 64 :=
  let b (x : Bool) (k : Nat) : Nat := if x then 1 <<< k else 0
  BitVec.ofNat 64 ((if native then 0x0301 <<< 48 else 0x0204 <<< 48) + b n.g2Fallback 37 + b n.ftz 36 +
    b n.ovfInf 35 + b stealing 34 + b n.g2Emul 33 + b n.meridian 32 + n.cfgCrc)

/-- The stealing flag: SPLIT, the partner's steal bit set, meridian 0 (14 R335). -/
def State.stealFlag (s : State) (n : NumRegs) : Bool :=
  s.pair.mode = .split && s.pair.partnerStealing && !n.meridian

/-- The word that a command beginning now would form (14 R336). -/
def State.almanacNow (s : State) : BitVec 64 := almanacOf s.num (s.stealFlag s.num) (!s.num.g2Emul)

/-- The word of a command under fallback: native, meridian taken as 1 (14 R348). -/
def State.almanacFallback (s : State) (n : NumRegs) : BitVec 64 :=
  let m := { n with numCfg := n.numCfg ||| 0x40 }
  almanacOf m (s.stealFlag m) true

/-- DAWN_STEPn (16 R387). -/
def StepLog.asWord (x : StepLog) : Word :=
  flag x.marked 31 ||| w32 (x.result.toNat <<< 26 + x.method.toNat <<< 24 + x.attempts.toNat <<< 16)

/-- DAWN_LOG0 (16 R387). -/
def DawnLog.word0 (d : DawnLog) : Word :=
  w32 (d.serial.toNat <<< 16 + d.pinned.toNat <<< 10) ||| flag d.failed 9 ||| flag d.laneValid 8 |||
  w32 (d.step.toNat <<< 4 + d.lastExit.toNat)

/-- LANE_MAP (15 R370). -/
def CalRegs.laneMap (c : CalRegs) : Word := flag c.rotPending 9 ||| w32 c.spare.toNat

/-- CAL_STATUS (15). -/
def CalRegs.statusWord (c : CalRegs) : Word :=
  w32 (c.roCount.toNat <<< 16) ||| flag c.lastFailed 15 ||| w32 (c.droopTrim.toNat <<< 8 + c.roTrim.toNat)

/-- DBG_SEL (18 R419). -/
def Debug.selWord (d : Debug) : Word :=
  flag d.busy 31 ||| flag d.tag 30 ||| w32 (d.register.toNat <<< 23 + d.row.toNat <<< 18) ||| flag d.poison 17 |||
  w32 d.word.toNat

end Sys2Proof.Machine
end

