-- ==== Sys2Proof/Machine/Registers.lean ====
section
/-! DEFINITION. The register map: what each address reads as and what a write does, field by field (18 R414-R427). -/

namespace Sys2Proof.Machine

open Sys2Proof

/-! ### Reading -/

/-- The counter slot of an address in 0x1880 to 0x1A97, and whether it is the high word (18 R423, R425). -/
def counterSlot (a : Nat) : Option (Nat × Bool) :=
  if 0x1880 ≤ a && a < 0x1A98 then some ((a - 0x1880) / 8, (a / 4) % 2 = 1) else none

/-- The value of a counter as the register port sees it. Slot 13 is reserved and reads as zero (18 R425). -/
def State.counterValue (s : State) (k : Nat) : Nat := if k = 13 then 0 else s.cnt.value k

/-- Something may wait for a bank or a pinned row now: a command executes or a capture is pending. -/
def State.mayStall (s : State) : Bool := s.run.isSome || s.dbg.busy

/-- Bring TRF_PORT_STALLS and TMV_PIN_STALLS (slots 65 and 66, 18 R425) up to date: each has risen by a free number of clocks
when something may have waited since, and saturates as every counter does (00 R9, log 7). -/
def State.countStalls (s : State) : State :=
  if s.mayStall || s.cnt.stalls then
    let c := (s.cnt.raise 65 (Config.freeStallCount (2 * s.freeIx)).toNat).raise 66 (Config.freeStallCount (2 * s.freeIx + 1)).toNat
    { s.drawFree with cnt := { c with stalls := s.mayStall } }
  else s

/-- Word `a` of the identification block (18 R418). -/
def readId (s : State) (a : Nat) : Word :=
  match a with
  | 0x0000 => 0x5542D703
  | 0x0004 => 0x00030100
  | 0x0008 => s.straps.mxaGeom.setWidth 32 &&& 0xFCF0
  | 0x000C => flag s.straps.twinSide 12 ||| w32 s.straps.instanceId.toNat
  | 0x0040 => 0x60201020
  | 0x0044 => 0x02000401
  | _ =>
    if 0x0010 ≤ a && a ≤ 0x003C then w32 (s.straps.fwKeyHash.toNat >>> (32 * ((a - 0x0010) / 4))) else 0

/-- Word `a` of 0x0400 to 0x07FF. -/
def readPower (s : State) (a : Nat) : Word :=
  match a with
  | 0x0400 => s.powerStatus
  | 0x0404 => flag s.pow.fwRom 31 ||| w32 s.pow.fwVersion.toNat
  | 0x0410 => s.clk.aclk
  | 0x0414 => s.clk.pclk
  | 0x0418 => s.clk.cclk
  | 0x041C => s.clk.hclk
  | 0x0440 => s.pairStatus
  | 0x0444 => s.pair.diverge.w0
  | 0x0448 => s.pair.diverge.w1
  | 0x044C => s.pair.diverge.w2
  | 0x0450 => s.pair.diverge.w3
  | 0x0454 => s.pair.diverge.w4
  | 0x0460 => w32 s.pair.ctxReason.toNat
  | 0x0480 => s.dbg.selWord
  | 0x0484 => s.dbg.data
  | _ => 0

/-- Offset `o` of queue `q`'s registers (18 R420). -/
def readQueue (s : State) (q : BitVec 2) (o : Nat) : Word :=
  let x := s.queue q
  match o with
  | 0x00 => x.base.loWord
  | 0x04 => x.base.hiWord
  | 0x08 => w32 x.tail.toNat
  | 0x0C => w32 x.head.toNat
  | 0x10 => s.queueCtrl q
  | 0x14 => w32 (x.ctxLo.toNat <<< 12)
  | 0x18 => flag x.ctxValid 31 ||| w32 x.ctxHi.toNat
  | _ => 0

/-- Word `a` of 0x0800 to 0x0FFF. -/
def readQueues (s : State) (a : Nat) : Word :=
  match a with
  | 0x0C00 => s.ring.base.loWord
  | 0x0C04 => s.ring.base.hiWord
  | 0x0C08 => w32 s.ring.tail.toNat
  | 0x0C0C => w32 s.ring.head.toNat
  | _ => if a < 0x0C00 then readQueue s (BitVec.ofNat 2 ((a - 0x0800) / 0x100)) (a % 0x100) else 0

/-- Word `a` of the numerics configuration block as a copy of it holds it (12 R303, 18 R422). -/
def NumRegs.read (n : NumRegs) (almanac : BitVec 64) (a : Nat) : Word :=
  match a with
  | 0x1000 => n.numCfg
  | 0x1004 => n.seedLo
  | 0x1008 => n.seedHi
  | 0x1010 => w32 n.almanacMask.toNat
  | 0x1014 => almanac.setWidth 32
  | 0x1018 => (almanac >>> 32).setWidth 32
  | 0x1020 => w32 n.package.toNat
  | 0x1024 => w32 n.stepWindow.toNat
  | _ => 0

/-- Word `a` of 0x1400 to 0x1FFF. -/
def readTrapCounters (s : State) (a : Nat) : Word :=
  match a with
  | 0x1400 => s.trapRec0
  | 0x1404 => s.trap.w1
  | 0x1408 => s.trap.w2
  | 0x140C => s.trap.w3
  | 0x1410 => s.trap.w4
  | _ =>
    match counterSlot a with
    | some (k, false) => w32 (s.counterValue k)
    | some (k, true) => w32 (sget 0 s.cnt.snaps k)
    | none => 0

/-- Word `a` of 0x2000 to 0x2FFF. -/
def readErrors (s : State) (a : Nat) : Word :=
  match a with
  | 0x2000 => s.err.status.setWidth 32
  | 0x2004 => s.err.enable.setWidth 32
  | 0x2010 => s.err.eccLog0
  | 0x2020 => s.err.eccCe0
  | 0x2024 => s.err.eccCe1
  | 0x2040 => s.err.record.w0
  | 0x2044 => s.err.record.w1
  | 0x2048 => s.err.record.w2
  | 0x204C => s.err.record.w3
  | 0x2050 => s.err.record.w4
  | 0x2080 => flag s.night.enable 31 ||| w32 s.night.interval.toNat
  | 0x2084 => w32 s.night.pos.toNat
  | 0x2800 => s.star.base.loWord
  | 0x2804 => s.star.base.hiWord
  | 0x2808 => w32 s.star.tail.toNat
  | 0x280C => w32 s.star.head.toNat
  | 0x2810 => flag s.star.enable 31 ||| w32 s.star.period.toNat
  | _ => 0

/-- Word `a` of 0x3000 to 0x3FFF. -/
def readDawn (s : State) (a : Nat) : Word :=
  match a with
  | 0x3000 => s.dawn.word0
  | 0x3004 => w32 s.dawn.savedSpare.toNat
  | 0x3080 => s.dawn.fwLo
  | 0x3084 => flag s.dawn.fwValid 31 ||| w32 s.dawn.fwHi.toNat
  | 0x3800 => s.cal.laneMap
  | 0x3810 => flag s.cal.enable 31 ||| w32 s.cal.period.toNat
  | 0x3814 => s.cal.statusWord
  | _ => if 0x3010 ≤ a && a ≤ 0x3034 then (sget {} s.dawn.steps ((a - 0x3010) / 4)).asWord else 0

/-- What the register at byte address `a`, a multiple of 4, reads as (18 R414). -/
def regRead (s : State) (a : Nat) : Word :=
  if a < 0x0400 then readId s a
  else if a < 0x0800 then readPower s a
  else if a < 0x1000 then readQueues s a
  else if a < 0x1400 then s.num.read s.almanacNow a
  else if a < 0x2000 then readTrapCounters s a
  else if a < 0x3000 then readErrors s a
  else if a < 0x4000 then readDawn s a
  else 0

/-- What a register-port read does beside answering (18 R415, R423): RC fields clear, and a counter's low word loads
its snapshot. -/
def regReadEffect (s : State) (a : Nat) : State :=
  match a with
  | 0x0460 => { s with pair := { s.pair with ctxReason := 0 } }
  | 0x2020 => { s with err := { s.err with eccCe0 := s.err.eccCe0 &&& 0x7FFFFFFF } }
  | _ =>
    match counterSlot a with
    | some (k, false) => { s with cnt := { s.cnt with snaps := sset 0 s.cnt.snaps k (s.counterValue k >>> 32) } }
    | _ => s

/-! ### Writing -/

/-- Count a write that is ignored (18 R425). -/
def State.ignored (s : State) : State := s.count cCFGIGN

/-- Any queue is enabled. -/
def State.anyEnabled (s : State) : Bool := s.queues.toList.any (·.enable)

/-- A ring base with its low register written. -/
def RingBase.withLo (b : RingBase) (v : Word) : RingBase := { b with lo := v.extractLsb' 12 20 }

/-- A ring base with its high register written: sizes 13 to 15 leave the size as it is (12 R273). -/
def RingBase.withHi (b : RingBase) (v : Word) : RingBase :=
  { b with hi := v.extractLsb' 0 20
           size := if v.extractLsb' 28 4 ≥ 13 then b.size else v.extractLsb' 28 4 }

/-- A write to Qn_TAIL: the doorbell (12 R274, R275). -/
def writeTail (s : State) (q : BitVec 2) (v : Word) : State :=
  let x := s.queue q
  let i := v.extractLsb' 0 16
  if i.toNat ≥ x.base.entries then s.ignored else s.setQueue q { x with tail := i }

/-- A write to Qn_CTRL (12 R277, R444): clearing enable discards a fetched packet that has not begun; setting it
lets a faulted reply be retried. -/
def writeCtrl (s : State) (q : BitVec 2) (v : Word) : State :=
  let x := s.queue q
  let en := v.getLsbD 31
  let x := { x with enable := en, preemptLower := v.getLsbD 30, fetch := if en then x.fetch else .idle }
  let s := s.setQueue q x
  if en then { s with ring := { s.ring with faulted := false } } else s

/-- A write at offset `o` of queue `q`'s registers (12 R274, 13 R324). -/
def writeQueue (s : State) (q : BitVec 2) (o : Nat) (v : Word) : State :=
  let x := s.queue q
  match o with
  | 0x00 => if x.enable then s.ignored else s.setQueue q { x with base := x.base.withLo v }
  | 0x04 => if x.enable then s.ignored else s.setQueue q { x with base := x.base.withHi v }
  | 0x08 => writeTail s q v
  | 0x10 => writeCtrl s q v
  | 0x14 => if x.susp.isSome then s.ignored else s.setQueue q { x with ctxLo := v.extractLsb' 12 20 }
  | 0x18 =>
    if x.susp.isSome then s.ignored
    else s.setQueue q { x with ctxValid := v.getLsbD 31, ctxHi := v.extractLsb' 0 20 }
  | _ => s

/-- A write to REPLY_TAIL (12 R274, R280). -/
def writeReplyTail (s : State) (v : Word) : State :=
  let i := v.extractLsb' 0 16
  if i.toNat ≥ s.ring.base.entries then s.ignored
  else { s with ring := { s.ring with tail := i, irq := s.ring.irq && decide (i ≠ s.ring.head) } }

/-- A write to 0x0800 to 0x0FFF. -/
def writeQueues (s : State) (a : Nat) (v : Word) : State :=
  match a with
  | 0x0C00 => if s.anyEnabled then s.ignored else { s with ring := { s.ring with base := s.ring.base.withLo v } }
  | 0x0C04 => if s.anyEnabled then s.ignored else { s with ring := { s.ring with base := s.ring.base.withHi v } }
  | 0x0C08 => writeReplyTail s v
  | _ => if a < 0x0C00 then writeQueue s (BitVec.ofNat 2 ((a - 0x0800) / 0x100)) (a % 0x100) v else s

/-- A rounding field of NUM_CFG after a write: 7 leaves it unchanged (03 R68). -/
def rndField (old new : Word) (k : Nat) : Nat :=
  let f := bits new.toNat k 3
  if f = 7 then bits old.toNat k 3 else f

/-- A write to NUM_CFG (18 R421, R422). -/
def writeNumCfg (s : State) (v : Word) : State :=
  let old := s.num.numCfg
  let n := bits v.toNat 2 7 <<< 2 + rndField old v 9 <<< 9 + rndField old v 12 <<< 12 + rndField old v 15 <<< 15
    + rndField old v 18 <<< 18
  let s' := { s with num := { s.num with numCfg := w32 n } }
  if [9, 12, 15, 18].any (fun k => bits v.toNat k 3 = 7) then s'.ignored else s'

/-- A write to 0x1000 to 0x13FF. -/
def writeNum (s : State) (a : Nat) (v : Word) : State :=
  match a with
  | 0x1000 => writeNumCfg s v
  | 0x1004 => { s with num := { s.num with seedLo := v } }
  | 0x1008 => { s with num := { s.num with seedHi := v } }
  | 0x1010 => { s with num := { s.num with almanacMask := v.extractLsb' 0 14 } }
  | 0x1020 => { s with num := { s.num with package := v.setWidth 18 } }
  | 0x1024 => { s with num := { s.num with stepWindow := v.extractLsb' 0 8 } }
  | _ => s

/-- Writing 1 to TRAP_REC0.valid clears the record and releases the halted queues (03 R92). -/
def clearTrap (s : State) (v : Word) : State :=
  if v.getLsbD 31 then
    { s with trap := {}, queues := s.queues.map (fun x => { x with halted := false }) }
  else s

/-- Writing 1 to a counter's clear bit (18 R423); a stall counter is brought up to date before (`portWrite`). -/
def clearCounter (s : State) (k : Nat) (v : Word) : State :=
  if v.getLsbD 31 then
    { s with cnt := { s.cnt with vals := sset 0 s.cnt.vals k 0, snaps := sset 0 s.cnt.snaps k 0 } }
  else s

/-- Writing 1 to CNT_CTRL.clear_all (18 R424). -/
def clearCounters (s : State) (v : Word) : State :=
  if v.getLsbD 0 then { s with cnt := { stalls := s.mayStall } } else s

/-- A write to 0x1400 to 0x1FFF. -/
def writeTrapCounters (s : State) (a : Nat) (v : Word) : State :=
  match a with
  | 0x1400 => clearTrap s v
  | 0x1800 => clearCounters s v
  | _ =>
    match counterSlot a with
    | some (k, true) => clearCounter s k v
    | _ => s

/-- A write to ERR_STATUS (15 R362). -/
def clearErrStatus (s : State) (v : Word) : State :=
  { s with err := { s.err with status := s.err.status &&& ~~~(v.extractLsb' 0 13) } }

/-- Writing 1 to ECC_LOG0.valid (15 R363). -/
def clearEccLog (s : State) (v : Word) : State :=
  if v.getLsbD 31 then { s with err := { s.err with eccLog0 := 0 } } else s

/-- Writing 1 to ERR_REC0.valid (15 R364). -/
def clearErrRecord (s : State) (v : Word) : State :=
  if v.getLsbD 31 then { s with err := { s.err with record := {} } } else s

/-- Writing 1 to PAIR_DIVERGE0.valid (13). -/
def clearDiverge (s : State) (v : Word) : State :=
  if v.getLsbD 31 then { s with pair := { s.pair with diverge := {} } } else s

/-- A write to PAIR_STATUS: bits 7 and 2 clear (13). -/
def clearPairStatus (s : State) (v : Word) : State :=
  { s with pair := { s.pair with diverged := s.pair.diverged && !v.getLsbD 7
                                 autoSolo := s.pair.autoSolo && !v.getLsbD 2 } }

/-- A write to STARLOG_CTRL (15): setting enable restarts the interval counts (R371). -/
def writeStarCtrl (s : State) (v : Word) : State :=
  let en := v.getLsbD 31
  let p := v.extractLsb' 0 24
  let x := { s.star with enable := en, period := if p < 500 then 500 else p }
  { s with star := if en && !s.star.enable then { x with droops := 0, corrected := 0, readBeats := 0, writeBeats := 0 } else x }

/-- A write to 0x2000 to 0x2FFF. -/
def writeErrors (s : State) (a : Nat) (v : Word) : State :=
  match a with
  | 0x2000 => clearErrStatus s v
  | 0x2004 => { s with err := { s.err with enable := v.extractLsb' 0 12 &&& 0xC21 } }
  | 0x2010 => clearEccLog s v
  | 0x2040 => clearErrRecord s v
  | 0x2080 =>
    let i := v.extractLsb' 0 16
    { s with night := { s.night with enable := v.getLsbD 31, interval := if i < 16 then 16 else i } }
  | 0x2800 => if s.star.enable then s.ignored else { s with star := { s.star with base := s.star.base.withLo v } }
  | 0x2804 => if s.star.enable then s.ignored else { s with star := { s.star with base := s.star.base.withHi v } }
  | 0x2808 =>
    let i := v.extractLsb' 0 16
    if i.toNat ≥ s.star.base.entries then s.ignored else { s with star := { s.star with tail := i } }
  | 0x2810 => writeStarCtrl s v
  | _ => s

/-- Writing 1 to DAWN_LOG_CTRL.forget (16 R387). -/
def forgetMarks (s : State) (v : Word) : State :=
  if v.getLsbD 0 then
    { s with dawn := { s.dawn with
      pinned := 0x3F
      steps := ssetAll {} s.dawn.steps ((List.range 10).map fun k =>
        (k, { sget {} s.dawn.steps k with marked := false })) } }
  else s

/-- Writing 1 to LANE_MAP.rotate: dropped while a column is pinned (15 R370, 16 R386). -/
def requestRotation (s : State) (v : Word) : State :=
  if v.getLsbD 8 && s.dawn.pinned = 0x3F then { s with cal := { s.cal with rotPending := true } } else s

/-- A write to 0x3000 to 0x3FFF. -/
def writeDawn (s : State) (a : Nat) (v : Word) : State :=
  match a with
  | 0x3040 => forgetMarks s v
  | 0x3080 => { s with dawn := { s.dawn with fwLo := v } }
  | 0x3084 => { s with dawn := { s.dawn with fwValid := v.getLsbD 31, fwHi := v.extractLsb' 0 20 } }
  | 0x3800 => requestRotation s v
  | 0x3810 =>
    let p := v.extractLsb' 0 24
    { s with cal := { s.cal with enable := v.getLsbD 31, period := if p < 5000 then 5000 else p } }
  | _ => s

/-- A write to DBG_SEL: it starts a capture, and is ignored while one is pending (18 R419). -/
def writeDbgSel (s : State) (v : Word) : State :=
  if s.dbg.busy then s.ignored
  else { s with
    dbg := { s.dbg with busy := true, tag := v.getLsbD 30, register := v.extractLsb' 23 7
                        row := v.extractLsb' 18 5, word := v.extractLsb' 0 5 }
    cnt := { s.cnt with stalls := true } }

/-- A write to 0x0400 to 0x07FF. -/
def writePower (s : State) (a : Nat) (v : Word) : State :=
  match a with
  | 0x0410 => { s with clk := { s.clk with aclk := v } }
  | 0x0414 => { s with clk := { s.clk with pclk := v } }
  | 0x0418 => { s with clk := { s.clk with cclk := v } }
  | 0x041C => { s with clk := { s.clk with hclk := v } }
  | 0x0440 => clearPairStatus s v
  | 0x0444 => clearDiverge s v
  | 0x0480 => writeDbgSel s v
  | _ => s

/-- A write of `v` to the register at byte address `a`, a multiple of 4 (18 R414, R415). -/
def regWrite (s : State) (a : Nat) (v : Word) : State :=
  if a < 0x0400 then s
  else if a < 0x0800 then writePower s a v
  else if a < 0x1000 then writeQueues s a v
  else if a < 0x1400 then writeNum s a v
  else if a < 0x2000 then writeTrapCounters s a v
  else if a < 0x3000 then writeErrors s a v
  else if a < 0x4000 then writeDawn s a v
  else s

/-! ### The register port (17 R396) -/

/-- The address is that of a word of a stall counter, which an access first brings up to date. -/
def stallAddr (a : Nat) : Bool := match counterSlot a with | some (k, _) => k = 65 || k = 66 | none => false

/-- The state as an access at `a` finds it. -/
def State.upToDate (s : State) (a : Nat) : State := if stallAddr a then s.countStalls else s

/-- The address of a word of the Dawn log (18 R417). -/
def dawnLogAddr (a : Nat) : Bool := decide (0x3000 ≤ a) && decide (a ≤ 0x3034)

/-- A register access once functional behaviour is undefined: the port answers, the Dawn log keeps its contents and reads as it
stands, and every other register reads as a free value (00 R4, 17 R413; log 46). -/
def undefinedAccess (s : State) (a : Nat) (read : Bool) : State :=
  if !read then s.drive (.reg 0 false)
  else if dawnLogAddr a then s.drive (.reg (regRead s a) false)
  else s.drawFree.drive (.reg (Config.freeRegister s.freeIx) false)

/-- A read request at byte address `a` (17 R396). -/
def portRead (s : State) (a : BitVec 16) : State :=
  if a.toNat % 4 ≠ 0 then s.drive (.reg 0 true)
  else if s.wrap.undefinedUntilCold then undefinedAccess s a.toNat true
  else
    let s := s.upToDate a.toNat
    (regReadEffect s a.toNat).drive (.reg (regRead s a.toNat) false)

/-- A write request at byte address `a` (17 R396). -/
def portWrite (s : State) (a : BitVec 16) (v : Word) : State :=
  if a.toNat % 4 ≠ 0 then s.drive (.reg 0 true)
  else if s.wrap.undefinedUntilCold then undefinedAccess s a.toNat false
  else (regWrite (s.upToDate a.toNat) a.toNat v).drive (.reg 0 false)

/-- Registers that CONFIG may write: those with a writable field in 0x1000 to 0x13FF and 0x3800 to 0x3BFF
(12 R286, 18 R427). -/
def configWritable (a : Nat) : Bool :=
  [0x1000, 0x1004, 0x1008, 0x1010, 0x1020, 0x1024, 0x3800, 0x3810].contains a

end Sys2Proof.Machine
end

