-- ==== Sys2Proof/Machine/Packet.lean ====
section
/-! DEFINITION. Command packets: fields, the array geometry they are read against, and the fetch checks that depend on the
packet, its descriptors and the straps alone (12 R281-R285, R295; 06 R162; 07 R169, R183; 08 R190-R194; 09 R221-R224). -/

namespace Sys2Proof.Machine

open Sys2Proof

/-! ### Fields -/

/-- Words as numbers. -/
def nats (ws : List Word) : List Nat := ws.map (·.toNat)
/-- Numbers as words. -/
def words (ns : List Nat) : List Word := ns.map w32

/-- Bits of word `w` of a packet. -/
def pf (ws : List Nat) (w lo len : Nat) : Nat := bits (nth ws w) lo len

/-- Opcode. -/
def pOp (ws : List Nat) : Nat := pf ws 0 24 8
/-- The irq bit. -/
def pIrq (ws : List Nat) : Bool := bit (nth ws 0) 23
/-- Stream base. -/
def pStream (ws : List Nat) : Nat := pf ws 0 0 16
/-- Sequence tag. -/
def pTag (ws : List Nat) : Nat := nth ws 1
/-- The 64-bit step number. -/
def pStep (ws : List Nat) : Nat := nth ws 2 + nth ws 3 <<< 32
/-- Descriptor table address. -/
def pTab (ws : List Nat) : Nat := nth ws 4 + pf ws 5 0 20 <<< 32
/-- Number of descriptors. -/
def pCount (ws : List Nat) : Nat := pf ws 5 24 8
/-- The 52-bit address in words 7 and 8: image, ctx or report. -/
def pAddr (ws : List Nat) : Nat := nth ws 7 + pf ws 8 0 20 <<< 32

/-- Opcode numbers (R284). -/
def oNOP : Nat := 0x00
def oCONFIG : Nat := 0x01
def oLOAD : Nat := 0x02
def oCHAIN : Nat := 0x03
def oPRODUCT : Nat := 0x04
def oLINK : Nat := 0x05
def oQUANT : Nat := 0x06
def oCOPY : Nat := 0x07
def oEXPORT : Nat := 0x08
def oMERGE : Nat := 0x09
def oSEAL : Nat := 0x0A
def oFENCE : Nat := 0x0B
def oPAIR : Nat := 0x0C
def oRESUME : Nat := 0x0D
def oABORT : Nat := 0x0E
def oSAVE : Nat := 0x0F
def oRESTORE : Nat := 0x10
def oQUERY : Nat := 0x11
def oDUSK : Nat := 0x12
def oDAWN : Nat := 0x13

/-- The program identifier that a command names, if its opcode names one (R285). -/
def pProg (ws : List Nat) : Option Nat :=
  let op := pOp ws
  if op = oCHAIN || op = oEXPORT then some (pf ws 6 26 6)
  else if op = oLINK then some (pf ws 6 20 6)
  else if op = oPRODUCT && pf ws 6 20 6 != 0x3F then some (pf ws 6 20 6)
  else none

/-- Maximum dtab_count (R284). -/
def maxDescs : Nat → Nat
  | 0x03 => 12
  | 0x04 => 17
  | 0x05 => 19
  | 0x06 => 6
  | 0x07 => 3
  | 0x08 => 9
  | 0x09 => 65
  | 0x0A => 1
  | _ => 0

/-- The bits of words 6 to 15 that a command's fields occupy (R285). -/
def fieldMasks : Nat → List Nat
  | 0x01 => [0x7, 0, 0xFFFF, 0xFFFFFFFF, 0xFFFF, 0xFFFFFFFF, 0xFFFF, 0xFFFFFFFF, 0xFFFF, 0xFFFFFFFF]
  | 0x02 => [0xFC000000, 0xFFFFFFFF, 0xFFFFF, 0xFFFFFFFF]
  | 0x03 => [0xFFF80000, 0xFFFFFFFF, 0x7F, 0xFFFFFFFF, 0x7F, 0xFFFFFFFF, 0x7F, 0xFFFFFFFF, 0x7F, 0xFFFFFFFF]
  | 0x04 => [0xFFFDFFFF, 0x3FFF]
  | 0x05 => [0xFFFFFFF0, 0xFFFFFFFF, 0xFFFFFFFF, 0x1FFFF, 0xF8003FFF]
  | 0x06 => [0xFFE00000]
  | 0x08 => [0xFFFC0000]
  | 0x09 => [0x8000007F]
  | 0x0A => [0x1]
  | 0x0B => [0x3, 0xFFFFFFFF]
  | 0x0C => [0x7]
  | 0x0D | 0x0E => [0x3, 0xFFFFFFFF]
  | 0x0F | 0x10 => [0, 0xFFFFFFFF, 0xFFFFF, 0xFFFF]
  | 0x11 => [0, 0xFFFFFFFF, 0xFFFFF]
  | _ => []

/-! ### The array geometry (08 R190) -/

/-- The array's shape and what it accepts. -/
structure Geom where
  mr : Nat
  nc : Nat
  star : Bool
  intClass : Bool
  fmts : Nat
  deriving DecidableEq, Repr

/-- Geometry from the MXA_GEOM strap. -/
def geomOf (x : BitVec 16) : Geom :=
  ⟨32 <<< bits x.toNat 6 2, 32 <<< bits x.toNat 4 2, x.getLsbD 15, x.getLsbD 14, bits x.toNat 10 4⟩

/-- The array accepts operand format `f`. -/
def Geom.has (g : Geom) (f : Nat) : Bool :=
  if f = 1 || f = 2 then bit g.fmts 3
  else if f = 3 || f = 4 then bit g.fmts 2
  else if f = 5 || f = 6 then bit g.fmts 1
  else if f = 7 then bit g.fmts 0
  else if 8 ≤ f && f ≤ 11 then g.intClass
  else false

/-- Formats of the float class (08 R192). -/
def floatClass (f : Nat) : Bool := 1 ≤ f && f ≤ 7
/-- Formats of the integer class. -/
def intClassFmt (f : Nat) : Bool := 8 ≤ f && f ≤ 11

/-! ### ST_BAD_PACKET (12 R295) -/

/-- Check 0x01: the first word with a non-zero reserved bit. -/
def reservedWord (ws : List Nat) : Option Nat :=
  if pf ws 0 16 7 != 0 then some 0
  else if pf ws 5 20 4 != 0 then some 5
  else
    let ms := fieldMasks (pOp ws)
    (List.range 10).findSome? fun k => if nth ws (6 + k) &&& nth ms k = nth ws (6 + k) then none else some (6 + k)

/-- A k_seg value is legal: 0, or a multiple of 32 from 32 to 65,536 (08 R191, R192). -/
def ksegLegal (k : Nat) : Bool := k % 32 = 0 && k ≤ 65536

/-- The first word whose field lies outside its legal set (reason 0x03). -/
def valueWord (g : Geom) (ws : List Nat) : Option Nat :=
  let op := pOp ws
  let w6 := nth ws 6
  let bad (b : Bool) (k : Nat) : Option Nat := if b then some k else none
  if op = oLOAD then bad (pf ws 6 26 6 ≥ 0x20) 6
  else if op = oCHAIN then
    (bad (pf ws 6 26 6 ≥ 0x20) 6).orElse fun _ =>
      bad ((List.range 4).any fun e => bit w6 (22 - e) && decide (pf ws 7 (8 * e + 5) 3 > 5)) 7
  else if op = oEXPORT then bad (decide (pf ws 6 26 6 ≥ 0x20) || decide (pf ws 6 18 3 > 5)) 6
  else if op = oPRODUCT then
    let ep := pf ws 6 20 6
    (bad (pf ws 6 30 2 = 3 || pf ws 6 28 2 = 3 || pf ws 6 26 2 = 3 || (decide (ep ≥ 0x20) && ep != 0x3F) ||
      !ksegLegal (pf ws 6 0 17)) 6).orElse fun _ => bad (pf ws 7 7 7 + pf ws 7 0 7 > 96) 7
  else if op = oLINK then
    (bad (pf ws 6 30 2 = 3 || pf ws 6 28 2 = 3 || pf ws 6 26 2 = 3 || decide (pf ws 6 20 6 ≥ 0x20) ||
      pf ws 6 9 4 = 0 || decide (pf ws 6 9 4 > 4) || pf ws 6 6 3 = 7 || decide (32 <<< pf ws 6 13 2 > g.nc)) 6).orElse fun _ =>
    (bad (!ksegLegal (pf ws 9 0 17)) 9).orElse fun _ =>
      bad (decide (pf ws 10 27 5 + g.mr / 32 > 32) || decide (pf ws 10 7 7 + pf ws 10 0 7 > 96)) 10
  else if op = oQUANT then bad (pf ws 6 30 2 = 3) 6
  else if op = oPAIR then bad (pf ws 6 0 2 = 3) 6
  else none

/-- CONFIG's count and addresses (reason 0x04). -/
def configWord (ws : List Nat) : Option Nat :=
  let n := pf ws 6 0 3
  if pOp ws != oCONFIG then none
  else if n = 0 || n > 4 then some 6
  else (List.range n).findSome? fun k =>
    let a := pf ws (8 + 2 * k) 0 16
    if configWritable a then none else some (8 + 2 * k)

/-- Check 0x05. -/
def alignWord (q : Nat) (ws : List Nat) : Option Nat :=
  let op := pOp ws
  if op = oFENCE && pf ws 6 0 2 = q then some 6
  else if op = oCHAIN && pf ws 6 23 3 > 4 then some 6
  else if (op = oLOAD || op = oQUERY) && nth ws 7 % 64 != 0 then some 7
  else if (op = oSAVE || op = oRESTORE) && nth ws 7 % 4096 != 0 then some 7
  else none

/-- The first failing ST_BAD_PACKET check of a packet: reason and word (12 R295). -/
def packetFault (g : Geom) (q : Nat) (ws : List Nat) : Option (Nat × Nat) :=
  let tag (r : Nat) (o : Option Nat) : Option (Nat × Nat) := o.map (fun w => (r, w))
  (tag 0x01 (reservedWord ws)).orElse fun _ =>
  (tag 0x02 (if nth ws 4 % 128 != 0 then some 4 else if pCount ws > maxDescs (pOp ws) then some 5 else none)).orElse fun _ =>
  (tag 0x03 (valueWord g ws)).orElse fun _ =>
  (tag 0x04 (configWord ws)).orElse fun _ => tag 0x05 (alignWord q ws)

/-! ### Descriptors by position -/

/-- The words of the descriptor at a position; zeros where none is named (R282). -/
def descWords (ds : List (List Nat)) (p : Nat) : List Nat := ds.getD p []

/-- Position `p` names none (R282). -/
def isNone (ds : List (List Nat)) (p : Nat) : Bool := (descWords ds p).all (· = 0)

/-- The descriptor at a position. -/
def descAt (ds : List (List Nat)) (p : Nat) : Desc := descOf (descWords ds p)

/-- Positions that a command may not leave none. -/
def requiredDescs (ws : List Nat) : List Nat :=
  let op := pOp ws
  if op = oPRODUCT then [0, 4]
  else if op = oLINK then [0, 4, 8, 11]
  else if op = oQUANT then [0, 1, 2]
  else if op = oCOPY then [0, 1]
  else if op = oEXPORT then [8]
  else if op = oMERGE then 0 :: (List.range (Nat.min 64 (pf ws 6 0 7))).map (· + 1)
  else if op = oSEAL then [0]
  else if op = oCHAIN then
    (List.range 4).filterMap fun e => if bit (nth ws 6) (22 - e) then some (8 + e) else none
  else []

/-- Which tensor an operand is gathered by: its mode and the position of its index (08 R191, 09 R221). -/
def gatherModes (ws : List Nat) : List (Nat × Nat × Nat) :=
  let op := pOp ws
  if op = oPRODUCT then [(0, pf ws 6 30 2, 3), (4, pf ws 6 28 2, 7)]
  else if op = oLINK then [(0, pf ws 6 30 2, 3), (4, pf ws 6 28 2, 7), (8, pf ws 6 26 2, 10)]
  else []

/-- How a command uses the descriptor at a position, as far as the packet tells (R261); the slots of a
program are judged again when the command begins. -/
def descRole (ws : List Nat) (ds : List (List Nat)) (p : Nat) : DescRole :=
  let op := pOp ws
  if op = oPRODUCT then
    if p = 9 then { store := true }
    else if p ≥ 10 then { load := (pProg ws).isSome, element := true }
    else
      let m := (gatherModes ws).find? (fun x => x.1 = p)
      { load := true, product := true, gather := m.any (fun x => x.2.1 = 2), modeTrans := m.any (fun x => x.2.1 = 1) }
  else if op = oLINK then
    if p = 11 || p = 12 then { store := true }
    else if p ≥ 13 then { load := true, element := true }
    else
      let m := (gatherModes ws).find? (fun x => x.1 = p)
      { load := true, product := true, gather := m.any (fun x => x.2.1 = 2), modeTrans := m.any (fun x => x.2.1 = 1) }
  else if op = oQUANT then (if p = 0 || p = 4 then { load := true } else { store := true })
  else if op = oCOPY then
    if p = 1 then { store := true } else { load := true, gather := p = 0 && !isNone ds 2 }
  else if op = oCHAIN then
    if p ≥ 8 then { load := decide (p ≥ 10), store := decide (p < 10), tensor := false }
    else { load := true, element := true }
  else if op = oEXPORT then (if p = 8 then { store := true, tensor := false } else { load := true, element := true })
  else if op = oMERGE then { load := p != 0, store := p = 0, tensor := false }
  else { load := true, store := true }

/-- The slots of a program: their direction is known only when the command begins (04 R123), so a seal on
one is judged then. -/
def slotPosition (ws : List Nat) (p : Nat) : Bool :=
  let op := pOp ws
  ((op = oCHAIN || op = oEXPORT) && decide (p < 8)) || (op = oPRODUCT && decide (p ≥ 10) && (pProg ws).isSome) ||
  (op = oLINK && decide (p ≥ 13))

/-- Checks 0x01 to 0x0A at a position; for a slot those that do not depend on its direction. -/
def descFaultAt (ws : List Nat) (ds : List (List Nat)) (p : Nat) : Option Nat :=
  let x := descWords ds p
  let d := descOf x
  let r := descRole ws ds p
  if slotPosition ws p then
    match descFault x d { r with load := true, store := false } with
    | some 0x0A => if descSeal d { r with load := true, store := true } then none else some 0x0A
    | o => o
  else if pOp ws = oSEAL then descFault x d { r with store := false, load := true } |>.bind fun k =>
    if k = 0x0A && decide (descFault x d { r with load := false } = none) then none else some k
  else descFault x d r

/-! ### Segment length and pinned need (08 R193, R194; 09 R224) -/

/-- The pinned need of a product's segment of length `l`; `nc` is the block's width. -/
def prodNeed (mr nc fa fb : Nat) (sa sda sb sdb : Bool) (pre l : Nat) : Nat :=
  let on (b : Bool) (n : Nat) : Nat := if b then n else 0
  mr / 32 * cdiv l (tileWidth fa) + nc / 32 * cdiv l (tileWidth fb) +
  on sa (mr / 32 * cdiv l 4096) + on sb (nc / 32 * cdiv l 4096) +
  on sda (mr / 32 * cdiv l 512) + on sdb (nc / 32 * cdiv l 512) +
  (if pre = 1 then nc / 32 else if pre = 2 then mr / 32 * (nc / 32) else 0) + 2 +
  on (sda || sdb) ((mr + nc) / 32)

/-- Halve a default segment length while its need exceeds the count, down to 32 (R193). -/
def halveL (need : Nat → Nat) (count : Nat) : Nat → Nat → Nat
  | 0, l => l
  | n + 1, l => if need l > count && l > 32 then halveL need count n (l / 2) else l

/-- Need of a PRODUCT_RUN as a function of the segment length. -/
def productNeed (g : Geom) (ws : List Nat) (ds : List (List Nat)) (l : Nat) : Nat :=
  prodNeed g.mr g.nc (descAt ds 0).format (descAt ds 4).format (!isNone ds 1) (!isNone ds 2) (!isNone ds 5)
    (!isNone ds 6) (pf ws 6 26 2) l

/-- Segment length of a PRODUCT_RUN (R193). -/
def productL (g : Geom) (ws : List Nat) (ds : List (List Nat)) : Nat :=
  if pf ws 6 0 17 != 0 then pf ws 6 0 17
  else halveL (productNeed g ws ds) (pf ws 7 0 7) 16 (if intClassFmt (descAt ds 0).format then 65536 else 4096)

/-- Key block width of a LINK_RUN. -/
def linkBk (ws : List Nat) : Nat := 32 <<< pf ws 6 13 2

/-- Need of a LINK_RUN (09 R224). -/
def linkNeed (g : Geom) (ws : List Nat) (ds : List (List Nat)) (l : Nat) : Nat :=
  let bk := linkBk ws
  prodNeed g.mr bk (descAt ds 0).format (descAt ds 4).format (!isNone ds 1) (!isNone ds 2) (!isNone ds 5)
    (!isNone ds 6) 0 l + g.mr / 32 * cdiv bk (tileWidth (pf ws 6 9 4)) +
  g.nc / 32 * cdiv bk (tileWidth (descAt ds 8).format) + (if isNone ds 9 then 0 else 1) + g.mr / 32 * (bk / 32)

/-- Segment length of a LINK_RUN's first product. -/
def linkL (g : Geom) (ws : List Nat) (ds : List (List Nat)) : Nat :=
  if pf ws 9 0 17 != 0 then pf ws 9 0 17 else halveL (linkNeed g ws ds) (pf ws 10 0 7) 16 4096

/-! ### Command rules on formats and shapes (reasons 0x0B, 0x0C) -/

/-- Local shape of the view that a command takes of a position. -/
def viewShape (ws : List Nat) (ds : List (List Nat)) (p : Nat) : Nat × Nat :=
  let d := descAt ds p
  let tr := d.transpose || (gatherModes ws).any (fun x => x.1 = p && x.2.1 = 1)
  (d.rLocal tr, d.cLocal tr)

/-- A descriptor has format `f` and shape r × c, unless it is none. -/
def shapeIs (ds : List (List Nat)) (p f r c : Nat) : Bool :=
  isNone ds p || (let d := descAt ds p; d.format = f && d.rLocal d.transpose = r && d.cLocal d.transpose = c)

/-- Rows of an operand as staged. -/
def stagedRows (ws : List Nat) (ds : List (List Nat)) (p : Nat) : Nat := (viewShape ws ds p).1

/-- An index tensor is INT32 of one column and the gathered view's R_local rows (reason 0x0B, 10 R249). -/
def indexLegal (ds : List (List Nat)) (p r : Nat) : Bool :=
  let d := descAt ds p
  d.format = 15 && d.cLocal false = 1 && d.rLocal false = r && !d.transpose

/-- A block-scale and a sidecar plane of an operand at position `p`: rows R, ⌈C / 32⌉ columns (07 R169, 08 R197). -/
def planesLegal (ws : List Nat) (ds : List (List Nat)) (p sc sd : Nat) : List (Nat × Bool) :=
  let f := (descAt ds p).format
  let (r, c) := viewShape ws ds p
  let ok (k f' w : Nat) : Bool := isNone ds k ||
    (3 ≤ f && f ≤ 7 && (descAt ds k).format = f' && (descAt ds k).rLocal false = r && (descAt ds k).cLocal false = w)
  [(sc, ok sc 12 (cdiv c 32)), (sd, ok sd 15 (2 * cdiv c 32))]

/-- Position `p` names an index tensor where none is allowed, or one of another format or shape (reason 0x0B, 10 R249). -/
def indexBad (ws : List Nat) (ds : List (List Nat)) (p : Nat) : Bool :=
  !isNone ds p &&
  if pOp ws = oCOPY then p = 2 && !indexLegal ds 2 (viewShape ws ds 0).1
  else (gatherModes ws).any fun x => x.2.2 = p && !(x.2.1 = 2 && indexLegal ds p (viewShape ws ds x.1).1)

/-- A command's own rules on the formats and shapes of its descriptors (reason 0x0C), each with the position that it judges. -/
def shapeRules (g : Geom) (ws : List Nat) (ds : List (List Nat)) : List (Nat × Bool) :=
  let op := pOp ws
  if op = oPRODUCT then
    let fa := (descAt ds 0).format
    let fb := (descAt ds 4).format
    let m := stagedRows ws ds 0
    let n := stagedRows ws ds 4
    let k := (viewShape ws ds 0).2
    let pk := pf ws 6 26 2
    let isI := intClassFmt fa
    let l := productL g ws ds
    [(0, floatClass fa || intClassFmt fa), (4, (floatClass fa && floatClass fb) || (intClassFmt fa && intClassFmt fb)),
       (4, (viewShape ws ds 4).2 = k)] ++ planesLegal ws ds 0 1 2 ++ planesLegal ws ds 4 5 6 ++
      [(8, pk = 0 || (!isNone ds 8 && shapeIs ds 8 (if isI then 15 else 0) (if pk = 1 then 1 else m) n)),
       (9, isNone ds 9 || ((descAt ds 9).rLocal false = m && (descAt ds 9).cLocal false = n)),
       (0, decide (cdiv m 32 ≤ 2 ^ 20)), (4, decide (cdiv n 32 ≤ 2 ^ 14)), (0, decide (cdiv k l ≤ 4096))]
  else if op = oLINK then
    let m := stagedRows ws ds 0
    let nk := stagedRows ws ds 4
    let dd := (viewShape ws ds 0).2
    let dv := stagedRows ws ds 8
    let bk := 32 <<< pf ws 6 13 2
    let l := linkL g ws ds
    [(0, floatClass (descAt ds 0).format), (4, floatClass (descAt ds 4).format), (8, floatClass (descAt ds 8).format),
       (4, (viewShape ws ds 4).2 = dd), (8, (viewShape ws ds 8).2 = nk)] ++ planesLegal ws ds 0 1 2 ++
      planesLegal ws ds 4 5 6 ++ [(planesLegal ws ds 8 9 19).headD (9, true)] ++
      [(11, isFloat (descAt ds 11).format && (descAt ds 11).rLocal false = m && (descAt ds 11).cLocal false = dv),
       (12, shapeIs ds 12 0 m 1),
       (0, decide (cdiv m 32 ≤ 2 ^ 20)), (4, decide (cdiv nk bk ≤ 4096)), (0, decide (cdiv dd l ≤ 4096))]
  else if op = oQUANT then
    let s := descAt ds 0
    let p := descAt ds 1
    let (r, c) := viewShape ws ds 0
    [(0, isF3 s.format), (1, 3 ≤ p.format && p.format ≤ 11), (1, p.rLocal false = r && p.cLocal false = c),
      (2, shapeIs ds 2 12 r (cdiv c 32)), (3, shapeIs ds 3 15 r (2 * cdiv c 32)), (4, shapeIs ds 4 0 r 1),
      (5, shapeIs ds 5 0 r 1), (3, pf ws 6 30 2 = 0 || !isNone ds 3), (5, pf ws 6 22 8 = 0 || !isNone ds 5),
      (4, !bit (nth ws 6) 21 || !isNone ds 4)]
  else if op = oCOPY then
    let d := descAt ds 1
    let s := descAt ds 0
    [(1, d.rLocal false = s.rLocal s.transpose && d.cLocal false = s.cLocal s.transpose)]
  else if op = oSEAL then
    let d := descAt ds 0
    [(0, if bit (nth ws 6) 0 then d.sealCheck && !d.sealOut else d.sealOut && !d.sealCheck)]
  else []

/-- The first check 0x01 to 0x0C of R261 that the descriptor at a position fails. -/
def positionFault (g : Geom) (ws : List Nat) (ds : List (List Nat)) (p : Nat) : Option Nat :=
  let misshapen : Bool := (shapeRules g ws ds).any fun x => x.1 = p && !x.2
  if isNone ds p then (if (requiredDescs ws).contains p then some 0x02 else if misshapen then some 0x0C else none)
  else (descFaultAt ws ds p).orElse fun _ => if indexBad ws ds p then some 0x0B else if misshapen then some 0x0C else none

/-- Positions that a command writes, whose descriptors take the alias test (10 R244); slots are tested when the
command begins. -/
def writePositions (ws : List Nat) : List Nat :=
  let op := pOp ws
  if op = oPRODUCT then [9] else if op = oLINK then [11, 12]
  else if op = oQUANT then [1, 2, 3, 5] else if op = oCOPY then [1]
  else if op = oEXPORT then [8] else if op = oMERGE then [0]
  else if op = oCHAIN then [8, 9] else []

/-- A fetch check that fails on the descriptors: status, reason, index. Each descriptor in increasing position takes every check
of R261, then come the alias test and the checks of which positions name none (12 R295 row 6). -/
def descCheck (g : Geom) (ws : List Nat) (ds : List (List Nat)) : Option (Nat × Nat × Nat) :=
  let n := ((requiredDescs ws ++ (shapeRules g ws ds).map (·.1)).map (· + 1)).foldl Nat.max (pCount ws)
  ((List.range n).findSome? fun p => (positionFault g ws ds p).map fun r => (0x05, r, p)).orElse fun _ =>
  ((writePositions ws).findSome? fun p =>
    if isNone ds p || (descAt ds p).allowAlias || aliasFree (descAt ds p) then none else some (0x06, 0, p)).orElse fun _ =>
  if (gatherModes ws).any (fun x => x.2.1 = 2 && isNone ds x.2.2) then some (0x04, 0x03, 6)
  else if pOp ws = oPRODUCT && ((pf ws 6 20 6 = 0x3F) == isNone ds 9) then some (0x04, 0x03, 6)
  else none

end Sys2Proof.Machine
end

