-- ==== Sys2Proof/Machine/Port.lean ====
section
/-! DEFINITION. The memory, translation and pair data ports: requests, returned beats, writes and their responses
(17 R394-R410, 01 R40, R41). -/

namespace Sys2Proof.Machine

open Sys2Proof

/-- Owner of the executing command's accesses. -/
def ownCmd : Nat := 0
/-- Owner of a fetch by queue `q`. -/
def ownFetch (q : BitVec 2) : Nat := 1 + q.toNat
/-- Owner of reply writes. -/
def ownReply : Nat := 5
/-- Owner of Starlog writes. -/
def ownStar : Nat := 6
/-- Owner of the firmware image's reads at D5 (16 R385). -/
def ownFirmware : Nat := 7
/-- Owner of what nobody waits for any more. -/
def ownDrop : Nat := 15

/-- This twin is twin A (17 R412). -/
def State.isA (s : State) : Bool := !s.straps.twinSide

/-- Twin A of a pair in LOCKSTEP: what it receives is forwarded and what it writes is compared (13 R310, R311). -/
def State.leads (s : State) : Bool := s.pair.mode = .lockstep && s.isA

/-! ### The pair data channel (17 R407) -/

/-- A sideband: kind, header, check, poison, quarter. -/
def sideband (kind hdr : Nat) (check : Word) (poison : Bool) (quarter : Nat) : BitVec 112 :=
  BitVec.ofNat 112 (kind <<< 108 + (hdr % 2 ^ 64) <<< 44 + check.toNat <<< 12 + (if poison then 1 <<< 11 else 0)
    + quarter <<< 9)

/-- Send a beat, or let it wait for a credit behind those that wait already. -/
def State.sendBeat (s : State) (d : Line) (sb : BitVec 112) : State :=
  if s.pair.credits != 0 && s.pair.tx.isEmpty then
    { s with pair := { s.pair with credits := s.pair.credits - 1 } }.drive (.pairData d sb)
  else { s with pair := { s.pair with tx := s.pair.tx ++ [(d, sb)] } }

/-- Send the oldest waiting beat if a credit is held. -/
def State.sendWaiting (s : State) : State :=
  match s.pair.tx with
  | [] => s
  | (d, sb) :: r =>
    if s.pair.credits = 0 then s
    else { s with pair := { s.pair with credits := s.pair.credits - 1, tx := r } }.drive (.pairData d sb)

/-- Send words as beats of a kind, 32 words a beat; the header counts the beats (log 10). -/
def State.sendWords (s : State) (kind : Nat) (ws : List Nat) : State :=
  let n := cdiv ws.length 32
  (List.range n).foldl (fun s k =>
    let d : Line := BitVec.ofNat 1024 (pack 32 ((ws.drop (32 * k)).take 32))
    s.sendBeat d (sideband kind (n + k <<< 16) (rowCheck d) false 0)) s

/-! ### Translations (17 R402, R403) -/

/-- Pages of a mapping size. -/
def pagesOf (size : BitVec 2) : Nat := match size.toNat with | 0 => 1 | 1 => 16 | 2 => 512 | _ => 262144

/-- The physical page that a kept translation gives; a write needs one obtained by a write-kind request. -/
def Port.translate (p : Port) (page : Nat) (write : Bool) : Option Nat :=
  (p.xlats.find? (fun x => decide (x.page ≤ page) && decide (page < x.page + x.pages) && (!write || x.write))).map
    (fun x => x.phys + (page - x.page))

/-- The lowest number below `n` that is not in use. -/
def lowestFree (n : Nat) (used : List Nat) : Option Nat := (List.range n).find? (fun k => !used.contains k)

/-- Request a translation unless one for the same page and kind is on its way or no identifier is free. -/
def State.requestXlat (s : State) (owner page kind pos va : Nat) : State :=
  if s.port.atps.any (fun a => a.page = page && a.kind = kind && a.owner = owner) then s else
  match lowestFree 64 (s.port.atps.map (fun a => a.id.toNat)) with
  | none => s
  | some i =>
    { s with port := { s.port with
      atps := s.port.atps ++ [AtpReq.mk (BitVec.ofNat 6 i) owner page kind pos va] } }.drive
        (.atp (BitVec.ofNat 6 i) (BitVec.ofNat 40 page) (BitVec.ofNat 2 kind))

/-- Discard every kept translation (R403). -/
def State.dropXlats (s : State) : State := { s with port := { s.port with xlats := [] } }

/-! ### Reads (17 R398) -/

/-- The line held for an owner. -/
def Port.line? (p : Port) (owner l : Nat) : Option RdLine :=
  (p.buf.find? (fun x => x.1 = owner && x.2.1 = l)).map (·.2.2)

/-- A fault that an owner's access met. -/
def Port.faultOf (p : Port) (owner : Nat) : Option XlatFault := p.faults.find? (fun f => f.owner = owner)

/-- Read tags that a class may use (01 R41). -/
def tagLimit (cls : BitVec 2) : Nat := if cls = 1 then 128 else 120

/-- Physical line of a virtual line on physical page `ph`. -/
def physLine (ph vline : Nat) : BitVec 45 := BitVec.ofNat 45 (32 * ph + vline % 32)

/-- The tag that a read of a class would take now: its line is translated, no write of it is unanswered, and the class may
hold one tag more (17 R401, 01 R41). -/
def Port.readTag (p : Port) (cls : BitVec 2) (vline : Nat) : Option (BitVec 7 × BitVec 45) :=
  match p.translate (vline / 32) false with
  | none => none
  | some ph =>
    if p.writes.any (fun w => w.line = physLine ph vline) || decide (p.reads.length ≥ tagLimit cls) then none
    else (lowestFree 128 (p.reads.map (fun r => r.tag.toNat))).map fun t => (BitVec.ofNat 7 t, physLine ph vline)

/-- The write tags in use, those of held beats included. -/
def State.writeTags (s : State) : List Nat :=
  s.port.writes.map (fun w => w.tag.toNat) ++ s.pair.held.map (fun h => h.2.1.toNat)

/-- The tag and line that a write would take now. -/
def State.writeTag (s : State) (vline : Nat) : Option (BitVec 6 × BitVec 45) :=
  match s.port.translate (vline / 32) true with
  | none => none
  | some ph => (lowestFree 64 s.writeTags).map fun t => (BitVec.ofNat 6 t, physLine ph vline)

/-! ### The order of the classes (01 R41) -/

/-- The clocks of the storages and of the ports run: RUN or Dusk (16 R388). -/
def State.clocked (s : State) : Bool := s.pow.state = .run || s.pow.state = .dusk

/-- Where the next Starlog record goes (15 R371). -/
def Starlog.addr (x : Starlog) : Nat := x.base.addr + 64 * x.head.toNat

/-- A request of class `c` is ready and has not been issued. -/
def State.classWaits (s : State) (c : BitVec 2) : Bool :=
  s.port.wants.any (fun w => w.cls = c && (s.port.readTag w.cls w.vline).isSome) ||
  s.port.outbox.head?.any (fun b => b.cls = c && (s.writeTag b.vline).isSome)

/-- A Starlog record that has waited 1,024 PCLK is ready and goes next. -/
def State.starFirst (s : State) : Bool :=
  s.star.promoted && s.star.waiting.isSome && !s.pow.fence && s.clocked && (s.writeTag (s.star.addr / 128)).isSome

/-- A request of class `cls` may be issued now: context goes before foreground, both before background, and a background request
promoted by age before all. -/
def State.mayIssue (s : State) (cls : BitVec 2) : Bool :=
  if cls = 2 then s.star.promoted || (!s.classWaits 1 && !s.classWaits 0)
  else !s.starFirst && (cls = 1 || !s.classWaits 1)

/-- Note that an owner wants a line that has not been requested. -/
def Port.want (p : Port) (owner : Nat) (cls : BitVec 2) (vline : Nat) : Port := { p with wants := p.wants ++ [⟨owner, cls, vline⟩] }

/-- Forget what an owner wants and has not requested. -/
def Port.unwant (p : Port) (owner : Nat) : Port := { p with wants := p.wants.filter (fun w => w.owner != owner) }

/-- Ask for one line: translate, then request it, unless it is here or on its way, a write of it has not
been answered (17 R401), or a request of another class goes first. -/
def State.requestLine (s : State) (owner kind : Nat) (cls : BitVec 2) (idx vline pos : Nat) : State :=
  let p := s.port
  let later : State := { s with port := p.want owner cls vline }
  if (p.line? owner vline).isSome || p.reads.any (fun r => r.owner = owner && r.vline = vline) then s
  else if (p.translate (vline / 32) false).isNone then later.requestXlat owner (vline / 32) kind pos (128 * vline)
  else if !s.mayIssue cls then later
  else match p.readTag cls vline with
    | none => later
    | some (t, line) =>
      { s with port := { p with reads := p.reads ++ [ReadReq.mk t owner vline (BitVec.ofNat 16 idx)] } }.drive
        (.readReq t line (BitVec.ofNat 16 idx) cls)

/-- Drop what an owner still waits for and holds: its beats and translations arrive unnoticed. -/
def State.dropReads (s : State) (owner : Nat) : State :=
  { s with port := { s.port.unwant owner with
    reads := s.port.reads.map (fun r => if r.owner = owner then { r with owner := ownDrop } else r)
    atps := s.port.atps.map (fun a => if a.owner = owner then { a with owner := ownDrop } else a)
    buf := s.port.buf.filter (fun x => x.1 != owner)
    faults := s.port.faults.filter (fun f => f.owner != owner) } }

/-- What asking for lines leads to: all are here, some are awaited, or a translation has faulted. -/
inductive Asked where
  | ready (s : State) (lines : Sparse RdLine)
  | wait (s : State)
  | fault (f : XlatFault)
  deriving DecidableEq, Repr

/-- The index field of a forwarded read beat (13 R310, log 10). -/
def fwdIndex (b : Line × BitVec 112) : Nat := bits (b.2.extractLsb' 44 64).toNat 20 16

/-- Take the oldest forwarded beat of index `k`: the line and the beats that stay. -/
def takeFwd (k : Nat) : List (Line × BitVec 112) → Option (RdLine × List (Line × BitVec 112))
  | [] => none
  | b :: rest =>
    if fwdIndex b = k then some (⟨b.1, b.2.extractLsb' 12 32, b.2.extractLsb' 44 20, b.2.getLsbD 11⟩, rest)
    else (takeFwd k rest).map fun x => (x.1, b :: x.2)

/-- Take the forwarded beats of indices k to k + n − 1 for the lines at those places. -/
def takeFwds (lines : List Nat) (k : Nat) : Nat → List (Line × BitVec 112) → Option (Sparse RdLine × List (Line × BitVec 112))
  | 0, rx => some ([], rx)
  | n + 1, rx => (takeFwd k rx).bind fun x => (takeFwds lines (k + 1) n x.2).map fun y => (sput y.1 (nth lines k) x.1, y.2)

/-- Asking in the mirrored command of twin B: the lines arrive on the pair port, placed by their tile index
(13 R310). -/
def State.askMirror (s : State) (lines : List Nat) : Asked :=
  match takeFwds lines 0 lines.length s.pair.rx with
  | none => .wait s
  | some (got, rest) => .ready { s with pair := { s.pair with rx := rest } } got

/-- Ask for lines (virtual line, descriptor position) for an owner; take them when all are here. -/
def State.ask (s : State) (owner kind : Nat) (cls : BitVec 2) (want : List (Nat × Nat)) : Asked :=
  match s.port.faultOf owner with
  | some f => .fault f
  | none =>
    let ls := dedup (want.map (·.1))
    let got := ls.filterMap (fun l => (s.port.line? owner l).map (fun x => (l, x)))
    if got.length = ls.length then
      .ready { s with port := { s.port.unwant owner with buf := s.port.buf.filter (fun x => x.1 != owner) } }
        (got.foldl (fun m kv => sput m kv.1 kv.2) [])
    else
      .wait ((List.range ls.length).foldl (fun s k =>
        let l := nth ls k
        let pos := ((want.find? (fun w => w.1 = l)).map (·.2)).getD 0xFF
        s.requestLine owner kind cls k l pos) { s with port := s.port.unwant owner })

/-! ### Writes (17 R399, R400) -/

/-- The check of a beat whose metadata is zero: disabled bytes are taken as zero (R399). -/
def maskBytes (data : Line) (ben : BitVec 128) : Line :=
  BitVec.ofNat 1024 (pack 8 ((List.range 128).map fun k => if ben.getLsbD k then bits data.toNat (8 * k) 8 else 0))

/-- The check of the enabled bytes of a beat. -/
def beatCheck (data : Line) (ben : BitVec 128) : Word :=
  if ben = BitVec.allOnes 128 then rowCheck data else rowCheck (maskBytes data ben)

/-- A write of `n` bytes at virtual byte address `va` inside one line: replies, seals, exports, reports, records
and context state (R399). `bytes` holds them lowest first. -/
def plainBeat (va n bytes : Nat) (cls : BitVec 2) (owner pos : Nat) : WriteBeat :=
  let off := va % 128
  let data := BitVec.ofNat 1024 ((bytes % 2 ^ (8 * n)) <<< (8 * off))
  let ben := BitVec.ofNat 128 ((2 ^ n - 1) <<< off)
  ⟨va / 128, data, ben, beatCheck data ben, 0, false, cls, pos, owner⟩

/-- `n` bytes at `va` cut at line boundaries. -/
def plainBeats (va n bytes : Nat) (cls : BitVec 2) (owner pos : Nat) : List WriteBeat :=
  let first := Nat.min n (128 - va % 128)
  (List.range (1 + cdiv (n - first) 128)).map fun k =>
    if k = 0 then plainBeat va first bytes cls owner pos
    else
      let d := first + 128 * (k - 1)
      plainBeat (va + d) (Nat.min 128 (n - d)) (bytes >>> (8 * d)) cls owner pos

/-- The transfers of a write; Starlog counts its beat (15 R371). -/
def State.driveWrite (s : State) (b : WriteBeat) (tag : BitVec 6) (line : BitVec 45) : State :=
  { s with port := { s.port with writes := s.port.writes ++ [WriteReq.mk tag b.owner line] }
           star := { s.star with writeBeats := s.star.writeBeats + 1 } }.drive
    (.write tag line b.data b.ben b.check b.info b.poison b.cls)

/-- Issue one write: translate, take a tag when its class may go, and drive it, or hold it for the comparison in LOCKSTEP unless B's equal check is
here already (13 R311). Starlog
records are never compared (15 R373). `none`: it cannot be issued yet, and a translation may have been asked. -/
def State.issueWrite (s : State) (b : WriteBeat) : State × Bool :=
  match s.port.translate (b.vline / 32) true with
  | none => (s.requestXlat b.owner (b.vline / 32) 1 b.pos (128 * b.vline), false)
  | some _ =>
    match (if s.mayIssue b.cls then s.writeTag b.vline else none) with
    | none => (s, false)
    | some (t, line) =>
      if s.leads && b.owner != ownStar then
        (match s.pair.held, s.pair.checks with
         | [], c :: cs =>
           if c = beatCheck b.data b.ben then
             ({ s with pair := { s.pair with checks := cs } }.driveWrite b t line, true)
           else ({ s with pair := { s.pair with held := [(b, t, line)] } }, true)
         | h, _ => ({ s with pair := { s.pair with held := h ++ [(b, t, line)] } }, true))
      else (s.driveWrite b t line, true)

/-- Issue the waiting writes in order until one cannot be issued. -/
def State.pumpFrom (s : State) : List WriteBeat → State
  | [] => { s with port := { s.port with outbox := [] } }
  | b :: bs =>
    match s.issueWrite b with
    | (s', true) => s'.pumpFrom bs
    | (s', false) => { s' with port := { s'.port with outbox := b :: bs } }

/-- Issue what the outbox holds. -/
def State.pump (s : State) : State := s.pumpFrom s.port.outbox

/-- Put writes in the outbox. -/
def State.post (s : State) (bs : List WriteBeat) : State :=
  { s with port := { s.port with outbox := s.port.outbox ++ bs } }

/-- Every write of the command has been issued, compared and answered (03 R84, 12 R304). -/
def State.writesDone (s : State) : Bool :=
  s.port.outbox.isEmpty && s.port.writes.all (fun w => w.owner != ownCmd) &&
  s.pair.held.all (fun h => h.1.owner != ownCmd)

/-- Forget the writes that have not been issued. -/
def State.dropOutbox (s : State) : State :=
  { s with port := { s.port with outbox := [] }, pair := { s.pair with went := 0 } }

/-- Issue the waiting writes among the first `n`. -/
def State.pumpSome (s : State) (n : Nat) : State :=
  let later := s.port.outbox.drop n
  let t := { s with port := { s.port with outbox := s.port.outbox.take n } }.pump
  { t with port := { t.port with outbox := t.port.outbox ++ later }, pair := { t.pair with went := t.port.outbox.length } }

/-- The waiting writes of a command of LOCKSTEP twin A: 32 at a time are translated, then announced to twin B, which sends their
checks, and issued. A translation that faults finds none of its group announced, so that B sends exactly the checks
of beats that A issues (13 R311, log 10). `tell` announces a group. -/
def State.pumpLed (s : State) (tell : State → List WriteBeat → State) : State :=
  let group := s.port.outbox.take 32
  if s.pair.went != 0 then s.pumpSome s.pair.went
  else if group.isEmpty then s
  else if group.all (fun b => (s.port.translate (b.vline / 32) true).isSome) then (tell s group).pumpSome group.length
  else group.foldl (fun s b => match s.port.translate (b.vline / 32) true with
    | some _ => s
    | none => s.requestXlat b.owner (b.vline / 32) 1 b.pos (128 * b.vline)) s

/-- A transfer whose tag or identifier was not issued since reset (17 R395). -/
def State.stray (s : State) : State := s.count cSTRAY

end Sys2Proof.Machine
end

