-- ==== Sys2Proof/Machine/Queues.lean ====
section
/-! DEFINITION. Queues, sequence tags, replies and packet fetch (12 R273-R299, R444). -/

namespace Sys2Proof.Machine

open Sys2Proof

/-! ### Replies (R292, R293) -/

/-- What a reply says beside its queue, opcode and tag. Fields that R293 does not list for a status are zero. -/
structure Say where
  status : Nat
  interim : Bool := false
  dup : Bool := false
  nan : Bool := false
  deferred : Bool := false
  info : Nat := 0
  index : Nat := 0
  reason : Nat := 0
  value : Nat := 0
  tiles : Nat := 0
  enters : Bool := true
  deriving DecidableEq, Repr

/-- Words 0 to 5 of a reply, its interrupt condition (R280), and whether its tag enters the window (R297). -/
def replyOf (q : BitVec 2) (op tag : Nat) (irq : Bool) (x : Say) : Reply :=
  { w0 := w32 (x.status <<< 24 + (op % 256) <<< 8 + q.toNat) ||| flag x.interim 23 ||| flag x.dup 22 |||
      flag x.nan 21 ||| flag x.deferred 20
    w1 := w32 tag
    w2 := w32 ((x.info % 2 ^ 16) <<< 16 + (x.index % 256) <<< 8 + x.reason % 256)
    w3 := w32 x.value
    w4 := w32 (x.value >>> 32)
    w5 := w32 (Nat.min x.tiles 0xFFFFFFFF)
    irq := irq || x.status != 0 || x.dup || x.nan
    enters := x.enters && !x.interim }

/-- Queue of a reply. -/
def Reply.queue (r : Reply) : BitVec 2 := r.w0.extractLsb' 0 2

/-- Let a reply wait for its write (R278). -/
def State.push (s : State) (r : Reply) : State := { s with ring := { s.ring with waiting := s.ring.waiting ++ [r] } }

/-- Commands that twin B of LOCKSTEP executes too; of the others it is told the reply (13 R310, R311). -/
def mirrorsOp (op : Nat) : Bool := (1 ≤ op && op ≤ 0x0A) || op = oPAIR || op = oSAVE || op = oRESTORE || op = oQUERY

/-- The reply ring after its next reply. -/
def ReplyRing.next (g : ReplyRing) : ReplyRing :=
  let h := (g.head.toNat + 1) % g.base.entries
  { g with head := BitVec.ofNat 16 h, serial := g.serial + 1, phase := if h = 0 then !g.phase else g.phase }

/-- Where the next reply to be produced will stand: the ring after the replies that wait, as words (log 10). -/
def State.ringWords (s : State) : List Nat :=
  let g := s.ring.waiting.foldl (fun g _ => g.next) s.ring
  [g.serial.toNat, if g.phase then 1 else 0, g.head.toNat, g.base.loWord.toNat, g.base.hiWord.toNat]

/-- A reply ring from its words. -/
def ringOf (ws : List Nat) : ReplyRing :=
  let w := nth ws
  { base := ({} : RingBase).withLo (w32 (w 3)) |>.withHi (w32 (w 4)), head := BitVec.ofNat 16 (w 2)
    serial := BitVec.ofNat 16 (w 0), phase := w 1 = 1 }

/-- Words 0 to 5 of a reply. -/
def Reply.toWords (r : Reply) : List Nat := [r.w0, r.w1, r.w2, r.w3, r.w4, r.w5].map (·.toNat)

/-- Tell twin B a reply that no mirrored command of its own yields, so that it forms the same beat (13 R311). -/
def State.tell (s : State) (r : Reply) : State :=
  if s.leads then s.sendWords 5 (1 :: s.ringWords ++ r.toWords) else s

/-- Tell twin B that a mirrored command has ended for a reason that A may have met alone; B drops it and forms the reply
(15 R361). -/
def State.tellEnd (s : State) (r : Reply) : State :=
  if s.leads && [0x20, 0x21, 0x22, 0x31, 0x32, 0x35, 0x36].contains (r.w0.extractLsb' 24 8).toNat then
    s.sendWords 5 (6 :: s.ringWords ++ r.toWords)
  else s

/-- Counters that a status raises for its event (R294): a refusal raises REFUSED_COMMANDS. -/
def isRefusal (status : Nat) : Bool := 0x02 ≤ status && status ≤ 0x17

/-! ### Tags (R297-R299) -/

/-- Tag t is after tag u. -/
def tagAfter (t u : Word) : Bool := t != u && decide ((t - u).toNat < 2 ^ 31)

/-- Tag `t` belongs to an accepted command of queue `q` that has not written its final reply (R299 a). -/
def State.unfinished (s : State) (q : BitVec 2) (t : Word) : Bool :=
  let x := s.queue q
  let tagOf (ws : List Word) : Bool := ws.getD 1 0 = t
  (match s.run with | some r => r.queue = q && r.stolen.isNone && !r.mirror && tagOf r.packet | none => false) ||
  (match x.susp with | some p => tagOf p.run.packet | none => false) ||
  (match x.waitFence with | some ws => tagOf ws | none => false) ||
  (s.ring.waiting ++ s.ring.owed).any (fun r => r.enters && r.queue = q && r.w1 = t) ||
  s.pow.latchedDawn.any (fun x => x.1 = q && tagOf x.2) ||
  (match s.pow.duskCommand with | some (k, ws) => k = q && tagOf ws | none => false)

/-- The window entry of a tag. -/
def Queue.retained (x : Queue) (t : Word) : Option WinEntry := x.window.find? (fun e => e.tag = t)

/-- Advance the head past the packet that is answered or begins (R276). -/
def Queue.advance (x : Queue) : Queue :=
  { x with head := BitVec.ofNat 16 ((x.head.toNat + 1) % x.base.entries), fetch := .idle }

/-- Accept a tag: N becomes t (R299 c). -/
def Queue.accept (x : Queue) (t : Word) : Queue := { x with newest := some t }

/-- A final reply has been written: its tag enters the window, the oldest of 257 leaves, and F is kept (R287, R297). -/
def Queue.enter (x : Queue) (t : Word) (ws : List Word) : Queue :=
  let w := x.window ++ [⟨t, ws⟩]
  { x with window := if w.length > 256 then w.drop 1 else w
           fenceTag := match x.fenceTag with
             | none => some t
             | some f => some (if tagAfter t f then t else f) }

/-! ### Fetch checks (R295, R296, R299) -/

/-- An answer to a packet that does not begin: its reply, whether the tag is accepted, the counters it raises. -/
def answer (q : BitVec 2) (ws : List Nat) (x : Say) (accept : Bool) (counts : List Nat) : Fetch :=
  .answer (replyOf q (pOp ws) (pTag ws) (pIrq ws) x) accept counts false

/-- A refusal at a fetch check. -/
def refuse (q : BitVec 2) (ws : List Nat) (status reason index : Nat) : Fetch :=
  answer q ws { status := status, reason := reason, index := index } true [cREFUSED]

/-- The re-sent reply of case (b): the retained words with duplicate set. -/
def resend (e : WinEntry) : Reply :=
  let w (k : Nat) : Word := e.words.getD k 0
  { w0 := w 0 ||| flag true 22, w1 := w 1, w2 := w 2, w3 := w 3, w4 := w 4, w5 := w 5, irq := true, enters := false }

/-- Checks 2 to 4 on a packet that was read (R295). -/
def State.packetChecks (s : State) (q : BitVec 2) (ws : List Nat) : Fetch :=
  let x := s.queue q
  let t := w32 (pTag ws)
  let n : Nat := (x.newest.map (·.toNat)).getD 0
  if s.unfinished q t then
    answer q ws { status := 0x01, index := 0xFF, value := n, enters := false } false [cDUPLICATE]
  else match x.retained t with
  | some e => .answer (resend e) false [cDUPLICATE] false
  | none =>
    if x.newest.any (fun m => !tagAfter t m) then
      answer q ws { status := 0x02, index := 0xFF, value := n, enters := false } false [cSTALE, cREFUSED]
    else if pOp ws > oDAWN then refuse q ws 0x03 0 0
    else match packetFault (geomOf s.straps.mxaGeom) q.toNat ws with
    | some (r, w) => refuse q ws 0x04 r w
    | none => if pCount ws = 0 then
        (match descCheck (geomOf s.straps.mxaGeom) ws [] with
         | some (st, r, i) => refuse q ws st r i
         | none => .ready (words ws) [])
      else .table (words ws)

/-- The words of a 64-byte packet or 128-byte descriptor at a byte offset of a line. -/
def lineWords (l : RdLine) (off n : Nat) : List Nat := unpack 32 n (l.data.toNat >>> (8 * off))

/-- What a poisoned packet, descriptor or image does beside its reply (15 R360, R364). -/
def State.poisonedInput (s : State) (q : BitVec 2) (seq : Nat) : State :=
  (s.raiseErr 2).recordErr q { kind := 1, storage := 6, source := 7, seq := seq }

/-- A packet that may begin while its queue holds a suspended command (12 R301, 16 R390). -/
def mayBeginBeside (p : Suspended) (op : Nat) : Bool :=
  op = oRESUME || op = oABORT || op = oQUERY || op = oNOP || (p.afterDawn && op = oLOAD)

/-- A final answer that enters its queue's window keeps the queue's order: it is not given while a command of the queue
executes, waits in a FENCE, or is suspended and holds the packet back (12 R287, R301; log 40). -/
def State.answerHeld (s : State) (q : BitVec 2) (r : Reply) : Bool :=
  let x := s.queue q
  r.enters &&
  ((match s.run with | some c => c.queue = q && c.stolen.isNone | none => false) || x.waitFence.isSome ||
   (match x.susp with | some p => !mayBeginBeside p (r.w0.extractLsb' 8 8).toNat | none => false))

/-- Give the answer that waits at queue `q`'s head, when no reply waits and its queue's order allows it (R276, R278); in
Dusk packets stay at head (16 R388). -/
def State.giveAnswer (s : State) (q : BitVec 2) : State :=
  let x := s.queue q
  match x.fetch with
  | .answer r acc counts disable =>
    if !s.ring.waiting.isEmpty || s.pow.state != .run || s.answerHeld q r then s else
    let x := if disable then { x with enable := false, fetch := .idle } else x.advance
    let x := if acc then x.accept r.w1 else x
    let s := counts.foldl (fun s k => s.count k) (s.setQueue q x)
    let s := if counts.contains cPOISON then s.poisonedInput q r.w1.toNat else s
    (s.tell r).push r
  | _ => s

/-- The address of the packet at a queue's head (R273). -/
def Queue.packetAddr (x : Queue) : Nat := x.base.addr + 64 * x.head.toNat

/-- The outcome of a packet fetch that faults or returns poison (R296): the queue is disabled, head stays. -/
def fetchFailed (q : BitVec 2) (head : Nat) (x : Say) (count : Nat) : Fetch :=
  .answer (replyOf q 0 0 false { x with info := head, index := 0xFF, enters := false }) false [count] true

/-- Queue `q` may fetch: it is enabled, not halted, holds a packet, and the instance is up and may use its
memory port (R275, R277; 13 R309, R315). In Dusk only the head packet that the queue holds is read, and none after a latched
DAWN (16 R388). -/
def State.mayFetch (s : State) (q : BitVec 2) : Bool :=
  let x := s.queue q
  x.enable && !x.halted && x.head != x.tail && !s.pow.fence && (s.pow.state = .run || s.pow.state = .dusk) &&
  !(s.pair.mode = .lockstep && !s.isA) && !(s.pow.state = .dusk && s.pow.latchedDawn.any (·.1 = q))

/-- One step of the fetch of queue `q`'s head packet: read it, check it, read its descriptor table, check that, or
give the answer that it leads to. -/
def State.fetchStep (s : State) (q : BitVec 2) : State :=
  let x := s.queue q
  let put (s : State) (f : Fetch) : State := (s.setQueue q { (s.queue q) with fetch := f }).giveAnswer q
  match x.fetch with
  | .answer .. => s.giveAnswer q
  | .ready .. => s
  | .idle =>
    let a := x.packetAddr
    match s.ask (ownFetch q) 3 0 [(a / 128, 0xFF)] with
    | .fault _ => put (s.dropReads (ownFetch q)) (fetchFailed q x.head.toNat { status := 0x20, reason := 3, value := a } cXLATFAULT)
    | .wait s => s
    | .ready s ls =>
      let l := sget ⟨0, 0, 0, false⟩ ls (a / 128)
      if l.poison then put s (fetchFailed q x.head.toNat { status := 0x31 } cPOISON)
      else put s (s.packetChecks q (lineWords l (a % 128) 16))
  | .table pkt =>
    if s.pow.state != .run then s else
    let ws := nats pkt
    let n := pCount ws
    let a := pTab ws / 128
    match s.ask (ownFetch q) 2 0 ((List.range n).map fun k => (a + k, k)) with
    | .fault f => put (s.dropReads (ownFetch q)) (answer q ws
        { status := 0x20, reason := 2, index := f.pos, value := f.va } true [cXLATFAULT])
    | .wait s => s
    | .ready s ls =>
      let line (k : Nat) : RdLine := sget ⟨0, 0, 0, false⟩ ls (a + k)
      match (List.range n).find? (fun k => (line k).poison) with
      | some k => put s (answer q ws { status := 0x31, index := k } true [cPOISON])
      | none =>
        let ds := (List.range n).map fun k => lineWords (line k) 0 32
        match descCheck (geomOf s.straps.mxaGeom) ws ds with
        | some (st, r, i) => put s (refuse q ws st r i)
        | none => put s (.ready pkt (ds.map words))

/-- Discard a packet that was fetched and not begun, with what it still waits for (R275). -/
def State.discardFetch (s : State) (q : BitVec 2) : State :=
  (s.setQueue q { (s.queue q) with fetch := .idle }).dropReads (ownFetch q)

/-! ### Writing a reply (R278-R280, R444) -/

/-- The reply ring has room for one more entry (R278). -/
def ReplyRing.room (r : ReplyRing) : Bool := (r.head.toNat + 1) % r.base.entries != r.tail.toNat

/-- The 32 bytes of the next reply as one number: words 0 to 5, the serial and phase, the CRC (R292). -/
def ReplyRing.bytes (g : ReplyRing) (r : Reply) : Nat :=
  let ws := [r.w0, r.w1, r.w2, r.w3, r.w4, r.w5].map (·.toNat) ++
    [((g.serial.toNat + 1) % 2 ^ 16) <<< 16 + (if g.phase then 1 else 0)]
  pack 32 (ws ++ [crcWords ws])

/-- The beat of the next reply. -/
def ReplyRing.beat (g : ReplyRing) (r : Reply) : WriteBeat :=
  plainBeat (g.base.addr + 32 * g.head.toNat) 32 (g.bytes r) 0 ownReply 0xFF

/-- When no reply waits, the next that the block has to give waits: that of a latched DAWN, or of an ended command (R278, R291). -/
def State.nextReply (s : State) : State :=
  if !s.ring.waiting.isEmpty then s else
  match s.ring.owed with
  | y :: rest => { s with ring := { s.ring with owed := rest } }.push y
  | [] => match s.run.bind (·.final) with
    | some y => { s with run := none }.push y
    | none => s

/-- The oldest waiting reply has been written: the ring advances, the interrupt rises, a final reply's tag
enters its queue's window, and an ST_PREEMPTED interim reply clears the pre-emption latch (R279, R280, R297, 16 R391). -/
def State.replyWritten (s : State) : State :=
  match s.ring.waiting with
  | [] => s
  | r :: rest =>
    let s := { s with ring := { s.ring.next with
      irq := s.ring.irq || r.irq, waiting := rest, stallCounted := false, issued := false } }
    let s := if s.pair.entering then { s with pair := { s.pair with entering := false, mode := .lockstep } } else s
    let s := if r.w0.getLsbD 23 && r.w0.extractLsb' 24 8 = 0x21 then { s with pow := { s.pow with preempt := s.pow.preemptKeep, preemptKeep := false } } else s
    let s := if r.enters then s.setQueue r.queue ((s.queue r.queue).enter r.w1 [r.w0, r.w1, r.w2, r.w3, r.w4, r.w5]) else s
    s.nextReply

/-- Write the oldest waiting reply if it can be written; in LOCKSTEP its beat first waits for B's check. A mirrored
reply of twin B only sends the check of its bytes (13 R310, R311). A fenced instance writes the reply that its suspension or an
earlier packet left waiting, its last write, but makes no access in Dusk (13 R315, 16 R388). -/
def State.writeReply (s : State) : State :=
  match s.ring.waiting with
  | [] => s
  | r :: _ =>
    if s.ring.faulted || s.ring.issued || (s.pow.fence && s.pow.state != .run) then s
    else if s.ring.room then
      match s.issueWrite (s.ring.beat r) with
      | (t, true) =>
        if t.pair.held.any (fun h => h.1.owner = ownReply) then { t with ring := { t.ring with issued := true } } else t.replyWritten
      | (t, false) => t
    else if s.ring.stallCounted then s
    else { s with ring := { s.ring with stallCounted := true } }.count cREPLYSTALL

/-- The four queues. -/
def allQ : List (BitVec 2) := [0, 1, 2, 3]

/-- A reply write's translation came back with a fault (R444). -/
def State.replyFault (s : State) : State :=
  let s := allQ.foldl State.discardFetch s
  { s with queues := s.queues.map (fun x => { x with enable := false })
           ring := { s.ring with faulted := true } }.count cXLATFAULT |>.raiseErr 12

end Sys2Proof.Machine
end

