-- ==== Sys2Proof/Machine/Begin.lean ====
section
/-! DEFINITION. Beginning and ending a command: the chain store, slot bindings, the begin checks, the choice of the next
command, and the final reply (12 R295, R300-R303; 04 R121-R131, R441; 06 R162; 08 R192, R215, R216; 09 R222, R225; 14 R344-R348). -/

namespace Sys2Proof.Machine

open Sys2Proof

/-! ### The chain store (04 R121) -/

/-- The program registered under an identifier. -/
def Arch.prog? (a : Arch) (id : Nat) : Option ProgEntry := a.progs.find? (fun e => e.id.toNat = id)

/-- The image of a registered program, whole granules. -/
def Arch.image (a : Arch) (e : ProgEntry) : List Word :=
  (List.range e.count.toNat).flatMap fun k => words (unpack 32 16 (a.granule (e.first.toNat + k)).toNat)

/-! ### What a running command works with -/

/-- Overrides of a CHAIN_RUN packet (12 R285). -/
def overridesOf (ws : List Nat) : List (Nat × Nat) :=
  if pOp ws = oCHAIN then (List.range (pf ws 6 23 3)).map fun n => (pf ws (8 + 2 * n) 0 7, nth ws (9 + 2 * n)) else []

/-- G2 emulation governs the command: g2_emul is set and no fallback is taken (14 R344, R348). -/
def Running.g2 (r : Running) : Bool := r.cfg.g2Emul && !r.fallback

/-- The meridian switch of the command (14 R348). -/
def Running.meridian (r : Running) : Bool := r.cfg.meridian || r.fallback

/-- The packet's words. -/
def Running.ws (r : Running) : List Nat := nats r.packet
/-- The descriptor copies. -/
def Running.ds (r : Running) : List (List Nat) := r.descs.map nats
/-- Opcode. -/
def Running.op (r : Running) : Nat := pOp r.ws
/-- The descriptor at a position. -/
def Running.desc (r : Running) (p : Nat) : Desc := descAt r.ds p
/-- Position `p` is named. -/
def Running.has (r : Running) (p : Nat) : Bool := !isNone r.ds p

/-- Code 6 rounds under code 5 in a fallback (14 R348). -/
def fallbackRnd (fb : Bool) (c : Nat) : Nat := if fb && c = 6 then 5 else c

/-- The program that the command runs: the copy it took when it began, overrides applied (04 R123, R131). -/
def Running.prog (r : Running) : Prog :=
  let P := progOf (nats r.image)
  let P := (applyOverrides P [] (overridesOf r.ws)).getD P
  { P with uops := P.uops.map fun u => { u with rnd := fallbackRnd r.fallback u.rnd } }

/-- Rounding code of a Tile Mover or quantiser conversion for a tensor class (03 R71). -/
def Running.classRnd (r : Running) (c : Nat) : Nat := fallbackRnd r.fallback (r.cfg.rnd c)

/-! ### Slots -/

/-- The descriptor position of slot `d` (12 R284). -/
def slotPos (op d : Nat) : Nat := if op = oPRODUCT then 9 + d else if op = oLINK then 11 + d else d

/-- The command is one of those that suspend (13 R321). -/
def suspends (op : Nat) : Bool := [oCHAIN, oEXPORT, oPRODUCT, oLINK, oQUANT, oCOPY, oSEAL, oMERGE].contains op

/-- Slots that the block fills or keeps itself: the finished values, and the logits (08 R215, 09 R225). -/
def innerSlots (op : Nat) : List Nat := if op = oPRODUCT then [0] else if op = oLINK then [0, 1] else []

/-- Slot `d` of a program. -/
def Prog.slot (P : Prog) (d : Nat) : Slot := P.slots.getD d ⟨0, 0, 0⟩

/-- Slots in use. -/
def Prog.used (P : Prog) : List Nat := (List.range 8).filter fun d => (P.slot d).dir != 0

/-- A command of opcode `op` stores slot `d`; PARTIAL_EXPORT stores no slot (06 R162). -/
def Prog.storesSlot (P : Prog) (op d : Nat) : Bool := decide ((P.slot d).dir ≥ 2) && op != oEXPORT

/-- The slot of the primary output tensor under opcode `op` (04 R441). -/
def Prog.primary (P : Prog) (op : Nat) : Option Nat :=
  ((List.range 8).find? (P.storesSlot op)).orElse fun _ => (List.range 8).find? fun d => (P.slot d).dir != 0

/-- Registers of a slot's span (04 R125): one for a plane; an inner slot holds FP32 or INT32. -/
def slotSpan (P : Prog) (ds : List (List Nat)) (op d : Nat) : Nat :=
  if (P.slot d).plane != 0 then 1
  else if (innerSlots op).contains d then spanOf P.width 0
  else spanOf P.width (descAt ds (slotPos op d)).format

/-- How slot `d` uses its descriptor under opcode `op`: one that is not in use neither loads nor stores it. -/
def slotRole (P : Prog) (op d : Nat) : DescRole :=
  let k := (P.slot d).dir
  { load := k = 1 || k = 3, store := P.storesSlot op d, element := (P.slot d).plane = 0 }

/-- Columns that slot `d` must have when the primary output tensor has `c` (04 R125). -/
def slotCols (P : Prog) (d c : Nat) : Nat :=
  match (P.slot d).plane with
  | 0 => c
  | 1 => cdiv c 32
  | _ => 2 * cdiv c 32

/-- The first failing check of a program's slots against the descriptors; `shape`: the shape that the slots
must have when the block fixes it. -/
def bindFault (P : Prog) (ds : List (List Nat)) (op : Nat) (shape : Option (Nat × Nat)) : Option (Nat × Nat × Nat) :=
  let inner := innerSlots op
  let outer := P.used.filter fun d => !inner.contains d
  let named := (List.range 8).filter fun d => !inner.contains d && !isNone ds (slotPos op d)
  let at_ (d : Nat) : Desc := descAt ds (slotPos op d)
  if P.used.isEmpty then some (0x0B, 0x01, 0xFF) else
  (named.findSome? fun d =>
    let f := descFault (descWords ds (slotPos op d)) (at_ d) (slotRole P op d)
    let f := f.orElse fun _ =>
      if (P.slot d).dir = 0 then none
      else if ((P.slot d).plane = 1 && (at_ d).format != 12) || ((P.slot d).plane = 2 && (at_ d).format != 15) then
        some 0x0C else none
    f.map (fun r => (0x05, r, slotPos op d))).orElse fun _ =>
  (named.findSome? fun d =>
    if P.storesSlot op d && !(at_ d).allowAlias && !aliasFree (at_ d) then some (0x06, 0, slotPos op d) else none).orElse fun _ =>
  ((outer.find? fun d => isNone ds (slotPos op d)).map (fun d => (0x0B, 0x01, d))).orElse fun _ =>
  ((P.used.find? fun d => (P.slot d).base + slotSpan P ds op d > 96).map (fun d => (0x0B, 0x01, d))).orElse fun _ =>
  ((P.used.find? fun d => P.used.any fun e => decide (e < d) &&
      decide ((P.slot d).base < (P.slot e).base + slotSpan P ds op e) &&
      decide ((P.slot e).base < (P.slot d).base + slotSpan P ds op d)).map (fun d => (0x0B, 0x01, d))).orElse fun _ =>
  let (rr, cc) := match shape with
    | some x => x
    | none => match P.primary op with
      | some p => let d := at_ p; (d.rLocal d.transpose, d.cLocal d.transpose)
      | none => (0, 0)
  (outer.find? fun d => let x := at_ d
    x.rLocal x.transpose != rr || x.cLocal x.transpose != slotCols P d cc).map (fun d => (0x0B, 0x01, d))

/-- A stage of the program writes S register `n`. -/
def writesS (u : Uop) (n : Nat) : Bool := isStat u.op && u.dst = 0x70 + n

/-- The program writes some S register. -/
def Prog.writesAnyS (P : Prog) : Bool := P.uops.any fun u => isStat u.op

/-- The statistic kind of a stage as an export carries it (06 R162). -/
def exportKind (u : Uop) : Option Nat :=
  if u.op = 0x50 then
    match bits u.aux 0 3 with
    | 0 | 3 | 5 => some 0
    | 1 => some 1
    | 2 => some 2
    | 4 => some 3
    | _ => none
  else if u.op = 0x52 then (if bits u.aux 0 3 = 0 then some 4 else if bits u.aux 0 3 = 1 then some 5 else none)
  else none

/-- Staging area bounds of an array command: first register and one past its last. -/
def stagingArea (ws : List Nat) : Nat × Nat :=
  let w := if pOp ws = oPRODUCT then 7 else 10
  (pf ws w 7 7, pf ws w 7 7 + pf ws w 0 7)

/-- R215, R216 and the staging-area overlap of R192, for an epilogue or a score program: reason 0x03. -/
def epilogueFault (g : Geom) (P : Prog) (ws : List Nat) (ds : List (List Nat)) (n nc : Nat) : Option (Nat × Nat × Nat) :=
  let op := pOp ws
  let (lo, hi) := stagingArea ws
  if P.applyFrom != 0 || decide (P.width > nc) || (P.slot 0).dir != 1 || (P.slot 0).plane != 0 ||
      (P.writesAnyS && decide (g.mr > 32) && decide (n > g.nc)) then some (0x0B, 0x03, 0xFF)
  else if op = oLINK && ((P.slot 1).dir != 2 || (P.slot 1).plane != 0 || P.writesAnyS) then some (0x0B, 0x03, 0xFF)
  else (P.used.find? fun d =>
    decide ((P.slot d).base < hi) && decide (lo < (P.slot d).base + slotSpan P ds op d)).map (fun d => (0x0B, 0x03, d))

/-! ### Begin checks (12 R295 rows 7 to 9) -/

/-- A conversion from `fi` to `fo` rounds under a class field (03 R71). -/
def roundsField (fi fo : Nat) : Bool := fi != fo && fo != 12 && !(isIntT fi && isIntT fo)

/-- The class fields that a command's conversions use. -/
def convClasses (ws : List Nat) (ds : List (List Nat)) : List Nat :=
  let op := pOp ws
  let d (p : Nat) : Desc := descAt ds p
  if op = oCOPY then (if roundsField (d 0).format (d 1).format then [(d 1).cls] else [])
  else if op = oQUANT then [(d 1).cls]
  else if op = oPRODUCT then
    if isNone ds 9 then [] else
    let fin := if intClassFmt (d 0).format && bit (nth ws 6) 19 then 15 else 0
    if roundsField fin (d 9).format then [(d 9).cls] else []
  else if op = oLINK then (if roundsField 0 (d 11).format then [(d 11).cls] else [])
  else []

/-- Use of a Dygen 2 absence (14 R347). -/
def g2Absent (n : NumRegs) (P : Option Prog) (ws : List Nat) (ds : List (List Nat)) : Bool :=
  let op := pOp ws
  let absF (f : Nat) : Bool := (5 ≤ f && f ≤ 7) || (9 ≤ f && f ≤ 11)
  ((List.range ds.length).any fun p => !isNone ds p && absF (descAt ds p).format) ||
  (match P with
   | none => false
   | some P => P.uops.any (fun u => absF u.fi || absF u.fo || u.rnd = 5 ||
       (u.op = 0x41 && (bits u.aux 2 2 != 0 || bits u.imm 8 8 != 0))) || P.slots.any (fun s => s.dir != 0 && s.plane = 2)) ||
  ((op = oPRODUCT || op = oLINK) && (!isNone ds 2 || !isNone ds 6)) ||
  (op = oQUANT && (!isNone ds 3 || pf ws 6 30 2 != 0 || pf ws 6 22 8 != 0)) ||
  (op = oLINK && (absF (pf ws 6 9 4) || pf ws 6 6 3 = 5)) ||
  (convClasses ws ds).any (fun c => n.rnd c = 5)

/-- Use of code 6 (03 R69). -/
def usesCode6 (n : NumRegs) (P : Option Prog) (ws : List Nat) (ds : List (List Nat)) : Bool :=
  (match P with | some P => P.usesRnd 6 | none => false) || (convClasses ws ds).any (fun c => n.rnd c = 6) ||
  (pOp ws = oLINK && pf ws 6 6 3 = 6)

/-- A PAIR_MODE that the present mode and partner do not allow (13 R308). -/
def State.pairModeIllegal (s : State) (m : Nat) : Bool :=
  match s.pair.mode, m with
  | .split, 0 => false
  | .split, 1 => s.pair.detached || s.queues.toList.any (·.susp.isSome)
  | .split, _ => !s.pair.detached
  | .lockstep, 1 => true
  | .lockstep, _ => !s.isA
  | .solo, 0 => s.pair.detached
  | .solo, _ => true

/-- A suspended command uses program `id`. -/
def State.programSuspended (s : State) (id : Nat) : Bool :=
  s.queues.toList.any fun x => match x.susp with
    | some p => pProg p.run.ws = some id
    | none => false

/-- Queue `q` holds a suspended command of tag `t`. -/
def State.suspendedTag (s : State) (q : BitVec 2) (t : Nat) : Bool :=
  match (s.queue q).susp with | some p => pTag p.run.ws = t | none => false

/-- Queue `q` waits in a FENCE of tag `t`. -/
def State.fenceTagWaits (s : State) (q : BitVec 2) (t : Nat) : Bool :=
  match (s.queue q).waitFence with | some ws => pTag (nats ws) = t | none => false

/-- Offset of the dirty registers in an image (13 R328). -/
def imageT (explicit : Bool) : Nat := if explicit then 0x8E000 else 0x8A000

/-- Dirty registers in increasing number. -/
def Arch.dirtyRegs (a : Arch) : List Nat := (List.range 96).filter fun k => a.dirty.getLsbD k

/-- Length of an image of the present state. -/
def Arch.imageBytes (a : Arch) (explicit : Bool) (ndesc : Nat) : Nat :=
  imageT explicit + 4096 * a.dirtyRegs.length + 128 * ndesc

/-- The command's own rules at row 9: status, reason, index (12 R295). -/
def State.ownRules (s : State) (g : Geom) (ws : List Nat) (ds : List (List Nat)) (P : Option Prog) :
    Option (Nat × Nat × Nat) :=
  let op := pOp ws
  let d (p : Nat) : Desc := descAt ds p
  let tq := BitVec.ofNat 2 (pf ws 6 0 2)
  let tt := nth ws 7
  if op = oLOAD then
    if s.programSuspended (pf ws 6 26 6) && (s.arch.prog? (pf ws 6 26 6)).isSome then some (0x09, 0, 0)
    else if nth ws 9 != 0 && !lengthLegal (nth ws 9) then some (0x07, 0x03, 0xFF) else none
  else if op = oCHAIN then
    match P with
    | none => some (0x0A, 0, 0)
    | some P =>
      (bindFault P ds op none).orElse fun _ =>
      (((List.range (overridesOf ws).length).find? fun k =>
        (applyOverrides P [] ((overridesOf ws).take (k + 1))).isNone).map (fun k => (0x0B, 0x02, k))).orElse fun _ =>
      if P.applyFrom != 0 then
        let c := match P.primary op with | some p => (d p).cLocal (d p).transpose | none => 0
        if slotSpan P ds op P.holdSlot * cdiv c P.width > 128 then some (0x0C, 0, 0) else none
      else none
  else if op = oEXPORT then
    match P with
    | none => some (0x0A, 0, 0)
    | some P =>
      (bindFault P ds op none).orElse fun _ =>
      match P.uops.filter (fun u => writesS u (pf ws 6 21 5)) with
      | [u] => if exportKind u = some (pf ws 6 18 3) then none else some (0x11, 0x04, 0xFF)
      | _ => some (0x0B, 0x04, 0xFF)
  else if op = oPRODUCT then
    let n := (viewShape ws ds 4).1
    if !(g.has (d 0).format && g.has (d 4).format) then some (0x0E, 0, 0)
    else if (!isNone ds 2 || !isNone ds 6) && !g.star && !bit (nth ws 6) 18 then some (0x0E, 0, 0)
    else if productNeed g ws ds (productL g ws ds) > pf ws 7 0 7 then some (0x0D, 0, 0)
    else if (pProg ws).isNone then none
    else match P with
      | none => some (0x0A, 0, 0)
      | some P => (epilogueFault g P ws ds n g.nc).orElse fun _ =>
          bindFault P ds op (some ((viewShape ws ds 0).1, n))
  else if op = oLINK then
    let m := (viewShape ws ds 0).1
    let nk := (viewShape ws ds 4).1
    let dv := (viewShape ws ds 8).1
    let bk := linkBk ws
    if !(g.has (d 0).format && g.has (d 4).format && g.has (d 8).format && g.has (pf ws 6 9 4)) then some (0x0E, 0, 0)
    else if (!isNone ds 2 || !isNone ds 6) && !g.star && !bit (nth ws 6) 4 then some (0x0E, 0, 0)
    else if linkNeed g ws ds (linkL g ws ds) > pf ws 10 0 7 then some (0x0D, 0, 0)
    else if g.mr / 32 * (cdiv dv 32 + bk / 32) > 64 then some (0x0C, 0, 0)
    else match P with
      | none => some (0x0A, 0, 0)
      | some P => (epilogueFault g P ws ds nk bk).orElse fun _ => bindFault P ds op (some (m, nk))
  else if op = oMERGE then
    let n := pf ws 6 0 7
    if n = 0 || n > 64 then some (0x11, 0x0A, 0xFF) else none
  else if op = oRESUME then
    if s.suspendedTag tq tt then none else some (0x16, 0, 0)
  else if op = oABORT then
    if s.suspendedTag tq tt || s.fenceTagWaits tq tt then none else some (0x16, 0, 0)
  else if op = oSAVE then
    if pf ws 9 0 16 * 1024 < s.arch.imageBytes true 0 then some (0x15, 0x01, 0) else none
  else none

/-- The program with the packet's overrides, which a use of an absence of Dygen 2 may lie in (04 R131, 14 R347). -/
def overridden (ws : List Nat) (P : Prog) : Prog := (applyOverrides P [] (overridesOf ws)).getD P

/-- The outcome of the begin checks: a refusal (status, reason, index), or the command with its fallback. -/
def State.beginChecks (s : State) (ws : List Nat) (ds : List (List Nat)) (P : Option Prog) :
    Except (Nat × Nat × Nat) Bool :=
  let op := pOp ws
  let g := geomOf s.straps.mxaGeom
  let absent := s.num.g2Emul && g2Absent s.num (P.map (overridden ws)) ws ds
  if (op = oPRODUCT || op = oLINK) && s.pair.arrayBarred then .error (0x17, 0, 0)
  else if op = oPAIR && s.pairModeIllegal (pf ws 6 0 2) then .error (0x17, 0, 0)
  else if !s.num.g2Emul && usesCode6 s.num P ws ds then .error (0x0F, 0, 0)
  else if absent && !s.num.g2Fallback then .error (0x10, 0, 0)
  else match s.ownRules g ws ds P with
    | some e => .error e
    | none => .ok absent

/-! ### Which command is next (12 R300, R301, 13 R326) -/

/-- Queue `q` has a suspended command that resumes at its turn. -/
def Queue.canResume (x : Queue) : Bool := match x.susp with | some p => !p.needsResume | none => false

/-- Queue `q` is ready (R300). -/
def State.queueReady (s : State) (q : BitVec 2) : Bool :=
  let x := s.queue q
  x.enable && !x.halted && x.waitFence.isNone &&
  (x.canResume || (match x.fetch with
    | .ready ws _ => (match x.susp with | some p => mayBeginBeside p (pOp (nats ws)) | none => true)
    | _ => false))

/-- Queues in priority order. -/
def allQueues : List (BitVec 2) := [0, 1, 2, 3]

/-- The queue whose command begins or resumes at this boundary. A queue pre-empted by PREEMPT_REQ is passed over
once when another is ready (13 R326). -/
def State.nextQueue (s : State) : Option (BitVec 2) :=
  let rs := allQueues.filter s.queueReady
  let rs' := rs.filter (fun q => s.pow.passedOver != some q)
  if rs'.isEmpty then rs.head? else rs'.head?

/-- A command boundary at which a command may begin or resume: the instance runs, is not fenced, executes nothing,
holds no waiting reply, and is not the mirroring twin (R278, R300; 13 R309, R315). -/
def State.atBoundary (s : State) : Bool :=
  s.run.isNone && s.ring.waiting.isEmpty && s.pow.state = .run && s.pow.dawnDone && !s.pow.fence &&
  !(s.pair.mode = .lockstep && !s.isA)

/-! ### Ending a command -/

/-- A CTL word (08 R201). -/
def ctlWord (op shift : Nat) (sat pre sa sb : Bool) (fa fb kseg count : Nat) : BitVec 64 :=
  let b (x : Bool) (k : Nat) : Nat := if x then 1 <<< k else 0
  BitVec.ofNat 64 (op <<< 60 + shift <<< 58 + b sat 57 + b pre 56 + b sa 55 + b sb 54 + fa <<< 50 + fb <<< 46 +
    (kseg % 4096) <<< 34 + (count % 4096) <<< 22)

/-- Twin A asks twin B to release the token to a command of queue `q` that waits for it (01 R38, 17 R409). -/
def Pair.wantsBack (p : Pair) (q : Option (BitVec 2)) : Bool :=
  p.partnerHeld && p.request && match q with | some q => decide (q < p.partnerQueue) | none => false

/-- Lower MXA_TOKEN (17 R409): twin A grants a partner that waits; twin B waits for the grant to fall. -/
def Pair.lower (p : Pair) (isA : Bool) : Pair :=
  let give := isA && p.mode = .split && !p.detached && p.partnerReq
  { p with token := false, grant := p.grant || give, release := false, grantUsed := !isA && p.grantSeen
           lastSelf := !give }

/-- Give the array token up at the end of a command (01 R37): it falls with the request. -/
def State.releaseToken (s : State) : State :=
  let p := if s.pair.token then s.pair.lower s.isA else s.pair
  { s with pair := { p with request := false } }

/-- Send ABANDON when a segment is open (08 R219); twin B of LOCKSTEP drives nothing (R220). -/
def State.abandonSegment (s : State) (r : Running) : State :=
  if r.prod.segOpen && !r.mirror then s.drive (.ctl (ctlWord 4 0 false false false false 0 0 r.prod.kseg 0)) else s

/-- The reply's words of a running command. -/
def Running.reply (r : Running) (x : Say) : Reply :=
  replyOf r.queue r.op (pTag r.ws) (pIrq r.ws)
    { x with tiles := r.tilesDone, nan := x.nan || (r.nanSeen && !r.cfg.trapMode) }

/-- Leave the executing command: its reads and writes not issued are dropped, translations are discarded (17 R403), the
token is given up, and a pre-emption request that has not acted is spent (16 R391). -/
def State.leave (s : State) (r : Running) : State :=
  let s := (((s.abandonSegment r).releaseToken).dropReads ownCmd).dropOutbox.dropXlats
  { s with run := none, pow := { s.pow with preempt := s.pow.preemptKeep, preemptKeep := false, fenceStop := false } }

/-- A thief gives its stolen band up (13 R320): nothing commits, and the owner is told by a steal message whose header
carries code 3 and the band. -/
def State.abandonBand (s : State) (r : Running) : State :=
  (s.leave r).sendBeat 0 (sideband 4 (3 + (r.stolen.getD 0) <<< 8) (rowCheck 0) false 0)

/-- The bands that the partner runs are abandoned when their owner suspends (13 R320) or ends; it is told by a steal message of code 5. -/
def State.recallBands (s : State) (r : Running) : State × Running :=
  if r.claimed.isEmpty then (s, r)
  else ((s.countBy cSTEALAB r.claimed.length).sendBeat 0 (sideband 4 5 (rowCheck 0) false 0),
    { r with claimed := [], skipped := r.skipped ++ r.claimed.filter fun b => decide (b < r.front) })

/-- The final reply of a command that has ended waits for its write, or for its turn while another reply waits: till then the
command stands at the end of its work (12 R278). -/
def State.giveFinal (s : State) (r : Running) (y : Reply) : State :=
  if r.mirror || s.ring.waiting.isEmpty then s.push y else { s with run := some { r with stage := .done, final := some y } }

/-- End the executing command with a final reply and the counters of its status. A stolen band has no reply: whatever
would end it makes the thief abandon it (13 R320). -/
def State.endRun (s : State) (r : Running) (x : Say) (counts : List Nat) : State :=
  if r.stolen.isSome then s.abandonBand r
  else
    let (s, r) := s.recallBands r
    let s := counts.foldl (fun s k => s.count k) (s.leave r)
    let y := r.reply x
    (if r.mirror then s else if mirrorsOp r.op then s.tellEnd y else s.tell y).giveFinal r y

/-- End the executing command with a refusal made as it reads its input (12 R295): nothing is written. -/
def State.refuseRun (s : State) (r : Running) (status reason index value : Nat) : State :=
  s.endRun { r with tilesDone := 0 } { status := status, reason := reason, index := index, value := value } [cREFUSED]

/-- Set an ERR_STATUS bit and fill the error record for a command that has ended; an abandoned band does neither. -/
def State.endError (s : State) (r : Running) (k : Nat) (e : ErrRec) : State :=
  if r.stolen.isSome then s else (s.raiseErr k).recordErr r.queue { e with seq := pTag r.ws }

/-- The fields of an error record as words (log 10). -/
def ErrRec.toWords (e : ErrRec) : List Nat :=
  [e.storage, e.source, e.pass, e.stage, e.uop, e.band, e.colTile, e.register, e.row]

/-- An error record from its words. -/
def errOf (ws : List Nat) : ErrRec :=
  let w := nth ws
  { kind := 1, storage := w 0, source := w 1, pass := w 2, stage := w 3, uop := w 4, band := w 5, colTile := w 6
    register := w 7, row := w 8 }

/-- End the executing command on consumed poison (15 R360): the error record, POISON_TRAPS and IRQ_ERR. A mirrored command tells
twin A, which ends it (R361). -/
def State.endPoison (s : State) (r : Running) (index : Nat) (e : ErrRec) : State :=
  if r.mirror then (s.leave r).sendWords 5 (7 :: pTag r.ws :: index :: e.toWords)
  else (s.endRun r { status := 0x31, index := index } [cPOISON]).endError r 2 { e with kind := 1 }

/-- End the executing command with ST_OK. -/
def State.endOk (s : State) (r : Running) : State := s.endRun r { status := 0x00 } []

/-! ### Beginning (12 R295, R303) -/

/-- Descriptor positions whose seal is checked before the first unit (14 R341). -/
def sealPositions (ws : List Nat) (ds : List (List Nat)) (P : Option Prog) : List Nat :=
  let op := pOp ws
  let slotOk (p : Nat) : Bool := match P with
    | some P => P.used.any fun d => slotPos op d = p && !(innerSlots op).contains d && ((P.slot d).dir = 1 || (P.slot d).dir = 3)
    | none => false
  (List.range ds.length).filter fun p =>
    !isNone ds p && (descAt ds p).sealCheck && (!slotPosition ws p || slotOk p)

/-- Where a command starts: verification of its first checked tensor, else its work. -/
def firstStage (ws : List Nat) (ds : List (List Nat)) (P : Option Prog) : Stage :=
  match sealPositions ws ds P with
  | p :: _ => .verify p 0 0xFFFFFFFF
  | [] => .load

/-- A command as it begins (R303). -/
def State.newRun (s : State) (q : BitVec 2) (pkt : List Word) (ds : List (List Word)) (image : List Word)
    (fb : Bool) : Running :=
  let ws := nats pkt
  let P := if image.isEmpty then none else some (progOf (nats image))
  { queue := q, home := s.straps.instanceId, packet := pkt, descs := ds, cfg := s.num
    almanac := if fb then s.almanacFallback s.num else s.almanacNow
    image := image, fallback := fb, stage := firstStage ws (ds.map nats) P
    phase := match P with | some P => if P.applyFrom != 0 && pOp ws = oCHAIN then .collect else .single | none => .single }

/-- `r` executes from here on; its work may wait for banks and pinned rows (18 R425). -/
def State.execute (s : State) (r : Running) : State := { s with run := some r, cnt := { s.cnt with stalls := true } }

/-- Request the token and take it when it may be taken (01 R37, 17 R409): alone, in SOLO or LOCKSTEP at once; twin A when
neither twin holds it, unless a simultaneous request is the partner's to win; twin B takes it at the edge that shows the grant
(`Pair.seeGrant`). -/
def State.takeToken (s : State) : State :=
  let p := { s.pair with request := true }
  let won := { p with token := true, everGranted := true, lastSelf := true }
  let p' :=
    if p.token then p
    else if p.mode != PairModeKind.split || p.detached then won
    else if s.isA then
      if p.grant || p.partnerHeld then { p with release := p.wantsBack (s.run.map (·.queue)) }
      else if p.partnerReq && p.everGranted && p.lastSelf then { p with grant := true, lastSelf := false }
      else won
    else p
  { s with pair := p' }

/-- A command begins to execute; an array command requests the token as it begins (01 R37). -/
def State.starts (s : State) (r : Running) : State :=
  let s := s.execute r
  if r.op = oPRODUCT || r.op = oLINK then s.takeToken else s

/-- The fallback counts once per command (14 R348). -/
def State.countFallback (s : State) (fb : Bool) : State := if fb then s.count cG2FALL else s

/-- Begin the command at the head of queue `q` (R276, R295, R303): it is accepted, and refused or set running. -/
def State.beginQueue (s : State) (q : BitVec 2) : State :=
  let x := s.queue q
  match x.fetch with
  | .ready pkt dw =>
    let ws := nats pkt
    let ds := dw.map nats
    let s := (s.setQueue q (x.advance.accept (w32 (pTag ws)))).dropXlats
    let s := { s with pow := { s.pow with passedOver := none, preemptKeep := false } }
    let e := (pProg ws).bind s.arch.prog?
    let image := match e with | some e => s.arch.image e | none => []
    let P := e.map fun _ => progOf (nats image)
    match s.beginChecks ws ds P with
    | .error (st, r, i) =>
      let s := if st = 0x15 then { s with pair := { s.pair with ctxReason := BitVec.ofNat 8 r } } else s
      let r := if st = 0x15 then 0 else r
      let y := replyOf q (pOp ws) (pTag ws) (pIrq ws) { status := st, reason := r, index := i }
      ((s.count cREFUSED).tell y).push y
    | .ok fb =>
      let r := s.newRun q pkt dw image fb
      let s := s.countFallback fb
      if e.any (·.poison) then s.endPoison r 0xFF { kind := 1, storage := 5, source := 7 }
      else s.starts r
  | _ => s

end Sys2Proof.Machine
end

