-- ==== Sys2Proof/Machine/Ecc.lean ====
section
/-! DEFINITION. Word errors, residue failures and the records they leave (15 R352-R364), and the trap record (03 R89). -/

namespace Sys2Proof.Machine

open Sys2Proof

/-! ### Poison marks (R357) -/

/-- A row with its 64-bit word `k` as an uncorrectable read returns it. -/
def setWord64 {n : Nat} (d : BitVec n) (k : Nat) (v : BitVec 64) : BitVec n :=
  (d &&& ~~~((BitVec.allOnes 64).setWidth n <<< (64 * k))) ||| (v.setWidth n <<< (64 * k))

/-- Mark a tile row poisoned, its word `k` as read; marking is no row write, so no dirty bit is set. -/
def Arch.poisonRow (a : Arch) (key k : Nat) (v : BitVec 64) : Arch :=
  let t := sget {} a.trf key
  { a with trf := sset {} a.trf key { data := setWord64 t.data k v, tag := { t.tag with poison := true } } }

/-- Replace the tag of a tile row whose tag word is uncorrectable. -/
def Arch.poisonTag (a : Arch) (key : Nat) : Arch :=
  let t := sget {} a.trf key
  { a with trf := sset {} a.trf key { t with tag := ⟨0, 0, true, true, 0⟩ } }

/-- Mark a mask row poisoned, its word `k` as read. -/
def Arch.poisonMask (a : Arch) (m row k : Nat) (v : BitVec 64) : Arch :=
  a.setMask m row ⟨setWord64 (a.maskRow m row).bits k v, true⟩

/-- Mark the row of field number `j` of S register `n` poisoned, that field as read. -/
def Arch.poisonField (a : Arch) (n j : Nat) (v : Word) : Arch :=
  let x := a.srow n (j / 5)
  let x := match j % 5 with
    | 0 => { x with max := v }
    | 1 => { x with sum := v }
    | 2 => { x with count := v }
    | 3 => { x with mean := v }
    | _ => { x with m2 := v }
  a.setSrow n (j / 5) { x with poison := true }

/-- Mark a WAS row poisoned, its word `k` as read. -/
def Arch.poisonWas (a : Arch) (row k : Nat) (v : BitVec 64) : Arch :=
  let x := a.wasRow row
  a.setWas row (setWord64 x.data k v) (x.badCheck ^^^ rowCheck x.data) true

/-- Granule `g` belongs to a registered program. -/
def ProgEntry.holds (e : ProgEntry) (g : Nat) : Bool :=
  decide (e.first.toNat ≤ g) && decide (g < e.first.toNat + e.count.toNat)

/-- Word `k` of granule `g` as read. -/
def Arch.spoilGranule (a : Arch) (g k : Nat) (v : BitVec 64) : Arch :=
  { a with granules := sset 0 a.granules g (setWord64 (a.granule g) k v) }

/-- Mark the program that holds granule `g`. -/
def Arch.poisonProg (a : Arch) (g : Nat) : Arch :=
  { a with progs := a.progs.map fun e => if e.holds g then { e with poison := true } else e }

/-- Mark the granule that holds word `w` of a storage, the word as read (R357, word indices of R363). -/
def Arch.poisonWord (a : Arch) (storage w : Nat) (v : BitVec 64) : Arch :=
  match storage with
  | 0 => a.poisonRow (w / 16) (w % 16) v
  | 1 => a.poisonTag w
  | 2 => a.poisonMask (w / 128) (w % 128 / 4) (w % 4) v
  | 3 => (a.poisonField (w / 80) (2 * (w % 80)) (v.extractLsb' 0 32)).poisonField (w / 80) (2 * (w % 80) + 1) (v.extractLsb' 32 32)
  | 4 => a.poisonWas (w / 16) (w % 16) v
  | 5 => (a.spoilGranule (w / 8) (w % 8) v).poisonProg (w / 8)
  | _ => a

/-- The poison bit of a pair beat's sideband (17 R406). -/
def poisonBit : BitVec 112 := 1 <<< 11

/-- Poison the oldest beat of a pair queue. -/
def poisonFirst : List (Line × BitVec 112) → List (Line × BitVec 112)
  | [] => []
  | (d, sb) :: r => (d, sb ||| poisonBit) :: r

/-- The command is saving its context. -/
def Running.isSaving (r : Running) : Bool := r.stage.code = 12

/-- An uncorrectable word of an internal queue poisons the oldest beat held there (R357). Queue 0 holds the read beats, 1 the write
beats, 2 the pair beats that have come and 3 those that wait to be sent (log 59). A write beat of a save area ends the save
(13 R325). -/
def State.poisonBeat (s : State) (queue : Nat) : State :=
  match queue with
  | 0 => { s with port := { s.port with buf := match s.port.buf with
      | [] => []
      | (o, l, x) :: r => (o, l, { x with poison := true }) :: r } }
  | 1 =>
    (match s.port.outbox with
     | [] => s
     | b :: bs => { s with
        port := { s.port with outbox := { b with poison := true } :: bs }
        run := s.run.map fun r => { r with savePoison := r.savePoison || (r.isSaving && suspends r.op) } })
  | 2 => { s with pair := { s.pair with rx := poisonFirst s.pair.rx } }
  | 3 => { s with pair := { s.pair with tx := poisonFirst s.pair.tx } }
  | _ => s

/-! ### Logs (R356, R357, R363) -/

/-- The scrub unit that holds word `w` of a storage (R363, R365); S registers and queues are of none. -/
def scrubUnitOf (storage w : Nat) : Option Nat :=
  match storage with
  | 0 => some (w / 16)
  | 1 => some w
  | 2 => some (3072 + w / 16)
  | 4 => some (3200 + w / 16)
  | 5 => some (7296 + w / 16)
  | _ => none

/-- A corrected unit waits for Nightwatch's write slot (R356, R366). -/
def Nightwatch.wantWrite (n : Nightwatch) (u : Nat) : Nightwatch :=
  if n.writebacks.contains (BitVec.ofNat 13 u) then n else { n with writebacks := n.writebacks ++ [BitVec.ofNat 13 u] }

/-- The corrected codeword asks for its write-back. -/
def State.wantWrite (s : State) (storage w : Nat) : State :=
  match scrubUnitOf storage w with
  | some u => { s with night := s.night.wantWrite u }
  | none => s

/-- A read corrected a word: the counter, the interval count of Starlog, ERR_STATUS, ECC_CE_LOG and the write-back. -/
def State.logCorrected (s : State) (storage requester : BitVec 3) (word : BitVec 16) (pos0 : BitVec 7)
    (pos1 : Option (BitVec 7)) : State :=
  let n : Nat := if pos1.isSome then 2 else 1
  let s := ((s.count cECCCORR).raiseErr 0).wantWrite storage.toNat word.toNat
  { s with
    err := { s.err with
      eccCe0 := w32 (1 <<< 31 + storage.toNat <<< 28 + requester.toNat <<< 25 + n <<< 23 + word.toNat)
      eccCe1 := w32 ((pos1.getD 0x7F).toNat <<< 7 + pos0.toNat) }
    star := { s.star with corrected := BitVec.ofNat 16 (Nat.min 0xFFFF (s.star.corrected.toNat + 1)) } }

/-- A read detected an uncorrectable word: the counter, ERR_STATUS and, when empty, ECC_LOG. -/
def State.logUncorrectable (s : State) (storage requester : BitVec 3) (word : BitVec 16) : State :=
  let s := (s.count cECCUNC).raiseErr 1
  if s.err.eccLog0.getLsbD 31 then s
  else { s with err := { s.err with
    eccLog0 := w32 (1 <<< 31 + storage.toNat <<< 28 + requester.toNat <<< 25 + word.toNat) } }

/-- What a read met. -/
def State.eccHit (s : State) (h : EccHit) : State :=
  match h.kind with
  | .corrected p0 p1 => s.logCorrected h.storage h.requester h.word p0 p1
  | .uncorrectable v =>
    let s := s.logUncorrectable h.storage h.requester h.word
    if h.storage.toNat ≥ 6 then s.poisonBeat h.word.toNat
    else { s with arch := s.arch.poisonWord h.storage.toNat h.word.toNat v }

/-- Every word error that some reads met. -/
def State.eccList (s : State) (l : List EccHit) : State := l.foldl State.eccHit s

/-- Every word error of a piece of work. -/
def State.eccHits (s : State) (m : Mishap) : State := s.eccList m.ecc

/-! ### Residue failures (R353, R354) -/

/-- The failures up to and with the first whose rerun failed too, which ends the work. -/
def upToTwice : List ResidueFail → List ResidueFail
  | [] => []
  | f :: l => if f.twice then [f] else f :: upToTwice l

/-- The mishaps of a piece of work of `n` retry units. -/
def ofUnits (m : Mishap) (n : Nat) : Mishap :=
  { m with residue := upToTwice (m.residue.filter fun f => decide (f.unit.toNat < n)) }

/-- Count the failing evaluations of a retry unit and its rerun; a rerun that passes sets ERR_STATUS.residue_retry (R362). -/
def State.residueFail (s : State) (f : ResidueFail) : State :=
  if f.twice then (s.countBy cRESERR 2).count cRESRETRY else ((s.count cRESERR).count cRESRETRY).raiseErr 5

/-- Count the residue failures of a piece of work. -/
def State.residue (s : State) (m : Mishap) : State := m.residue.foldl State.residueFail s

/-- The failure of a unit whose rerun failed too. -/
def failureOf (m : Mishap) : Option ResidueFail := m.residue.find? (·.twice)

/-- A rerun failed too. -/
def fatal (m : Mishap) : Bool := (failureOf m).isSome

/-- The retry unit that ended the work. -/
def failedUnit (m : Mishap) : Nat := match failureOf m with | some f => f.unit.toNat | none => 0

/-- The physical column that carries logical lane column `c` (01 R24). -/
def CalRegs.physical (x : CalRegs) (c : Nat) : Nat := if c < x.spare.toNat then c else c + 1

/-- End the executing command with ST_RESIDUE (R354); the error record names the physical lane column. -/
def State.endResidue (s : State) (r : Running) (m : Mishap) (e : ErrRec) : State :=
  ((s.residue m).endRun r { status := 0x36 } []).endError r 4
    { e with kind := 3, column := match failureOf m with | some f => s.cal.physical f.column.toNat | none => 0x3F }

/-- End the executing command with ST_ROW_CHECK (R256, R350). The mismatch counts and shows in a thief's twin too, which
abandons its band (13 R320). -/
def State.endRowCheck (s : State) (r : Running) (e : ErrRec) : State :=
  if r.stolen.isSome then (((s.count cROWCHECK).raiseErr 3).abandonBand r)
  else (s.endRun r { status := 0x32 } [cROWCHECK]).endError r 3 { e with kind := 2 }

/-! ### The trap record (03 R87-R91) -/

/-- TRAP_REC0 to TRAP_REC4 for a NaN event of the running command. -/
def NanEv.record (e : NanEv) (q : BitVec 2) (ws : List Nat) : Rec5 :=
  let prog := if e.source = 0 then (pProg ws).getD 0x3F else 0x3F
  { w0 := w32 (1 <<< 31 + (if e.consumed then 1 <<< 28 else 0) + q.toNat <<< 26 + (prog % 64) <<< 20
      + (e.source % 4) <<< 18 + (e.pass % 16) <<< 14 + (e.stage % 8) <<< 11 + (e.uop % 128) <<< 4 + e.fmt % 16)
    w1 := w32 (pTag ws)
    w2 := w32 e.band
    w3 := w32 e.colTile
    w4 := w32 ((e.row % 32) <<< 16 + e.col % 512) }

/-- Fill the trap record when it is empty (R89). -/
def State.fillTrap (s : State) (x : Rec5) : State := if s.trap.w0.getLsbD 31 then s else { s with trap := x }

/-- Commit counts and the first NaN event (R84, R89). -/
def State.commitPend (s : State) (r : Running) (p : Pend) : State :=
  let s := { s with cnt := s.cnt.raiseAll p.counts }
  match p.nan with
  | some e => s.fillTrap (e.record r.queue r.ws)
  | none => s

/-- A queue halts: what it has fetched and not begun is discarded (R91, 11 R272). -/
def State.haltQueue (s : State) (q : BitVec 2) : State :=
  let s := s.discardFetch q
  s.setQueue q { (s.queue q) with halted := true }

/-- A tile commits a NaN event under trap_mode 1 (R91): its counts and record commit, it stores nothing, the command ends
with ST_TRAP_NAN and the queue halts. -/
def State.endTrap (s : State) (r : Running) : State :=
  ((s.commitPend r r.pend).endRun { r with nanSeen := true } { status := 0x30 } [cNANTRAP]).haltQueue r.queue

/-- The unit about to commit halts the command. -/
def Running.traps (r : Running) : Bool := r.cfg.trapMode && r.pend.nan.isSome

end Sys2Proof.Machine
end

