-- ==== Sys2Proof/Machine/Quant.lean ====
section
/-! DEFINITION. Micro-blocks: analysis, block scale, payload, stars and sidecars (07 R169-R189). -/

namespace Sys2Proof.Machine

/-- MAX and EMAX of a payload format (07 R173); MAX as numerator over 2. -/
def payParams : Nat → Nat × Int
  | 3 => (896, 8) | 4 => (114688, 15) | 5 => (15, 2) | 6 => (56, 4) | 7 => (12, 2)
  | 8 => (254, 6) | 9 => (14, 2) | 10 => (6, 1) | _ => (2, 0)

/-- x × 2^k. -/
def xscale (x : XVal) (k : Int) : XVal := xmul x (dyadic false 1 k)

/-- The magnitude exponent ε of R170. -/
def magExp : XVal → Int
  | .fin _ n d => if n = 0 then -1024 else flog2 n d
  | _ => 1024

/-- What the analysis of a micro-block finds (R172, R174, R179, R180). -/
inductive BlockKind where
  | empty
  | zero
  | nan (lowest : Nat)
  | normal (code : Nat) (t : Int) (stars : List Nat) (clampHi clampLo : Bool)
  deriving DecidableEq, Repr

/-- The first of the largest magnitudes (R171). -/
def pickMax : List (Nat × XVal) → Option (Nat × XVal)
  | [] => none
  | p :: ps => match pickMax ps with
    | none => some p
    | some q => if xlt (xabs p.2) (xabs q.2) then some q else some p

/-- Take out element `i`. -/
def dropElem (i : Nat) (l : List (Nat × XVal)) : List (Nat × XVal) := l.filter (fun p => p.1 != i)

/-- block_scale of R174: code, effective exponent, clamp at 254, clamp at 0. -/
def blockScale (amax : XVal) (fmt : Nat) (b : Int) : Nat × Int × Bool × Bool :=
  match amax with
  | .fin _ n d =>
    let (mx, emax) := payParams fmt
    let s := flog2 n d - emax
    let s := if xcmp (xscale (xabs amax) (1 - s)) (ofInt mx) = .gt then s + 1 else s
    let c := s - b + 127
    if c > 254 then (254, 127 + b, true, false)
    else if c < 0 then (0, b - 127, false, true)
    else (c.toNat, s, false, false)
  | _ => (254, 127 + b, true, false)

/-- The analysis of one micro-block: present elements by index, star limit, payload format, bias. -/
def analyse (l : List (Nat × XVal)) (limit fmt : Nat) (b : Int) : BlockKind :=
  if l.isEmpty then .empty else
  match l.find? (fun p => p.2 = .nan) with
  | some p => .nan p.1
  | none =>
    let n := (l.filter (fun p => magExp p.2 != -1024)).length
    if n = 0 then .zero else
    let r1 := pickMax l
    let l1 := match r1 with | some p => dropElem p.1 l | none => l
    let r2 := pickMax l1
    let l2 := match r2 with | some p => dropElem p.1 l1 | none => l1
    let e (r : Option (Nat × XVal)) : Int := match r with | some p => magExp p.2 | none => -1024
    let e1 := e r1
    let e2 := e r2
    let e3 := e (pickMax l2)
    let stars :=
      if limit = 2 && decide (n ≥ 3) && decide (e1 - e3 ≥ 4) && decide (e2 - e3 ≥ 4) then
        (r1.map (·.1)).toList ++ (r2.map (·.1)).toList
      else if decide (limit ≥ 1) && decide (n ≥ 2) && decide (e1 - e2 ≥ 4) then (r1.map (·.1)).toList
      else []
    let rest := l.filter (fun p => !stars.contains p.1)
    let amax := match pickMax rest with | some p => p.2 | none => .fin false 0 1
    let (c, t, hi, lo) := blockScale amax fmt b
    .normal c t stars hi lo

/-- The E8M0 code written for a block (R174, R179, R180). -/
def blockCode : BlockKind → Nat
  | .nan _ => 0xFF
  | .normal c _ _ _ _ => c
  | _ => 0

/-- One remaining element in the payload format, the symmetric range for integers (R173, R176, R181). -/
def toPayload (ctx : NumCtx) (fmt rnd w : Nat) (x : XVal) : Nat × Ev :=
  if isIntT fmt then
    let m : Int := (payParams fmt).1 / 2
    toIntRange fmt (-m) m rnd w x
  else convert ctx fmt rnd w x

/-- The sidecar word of a block whose stars have the given indices and BF16 codes (R177). -/
def sidecarWord (stars : List (Nat × Nat)) : Nat :=
  match stars with
  | [] => 0
  | [(i, v)] => i + 1 <<< 10 + v <<< 16
  | (i, v) :: (j, u) :: _ => i + j <<< 5 + 2 <<< 10 + v <<< 16 + u <<< 32

/-- The sidecar word of a zero block and of a NaN block (R179, R180). -/
def zeroSidecar : Nat := 1 <<< 48
/-- The sidecar word of a NaN block (R180). -/
def nanSidecar : Nat := 1 <<< 49

/-- A sidecar word as a reader takes it (R178). -/
inductive SideRead where
  | nan
  | zero
  | stars (l : List (Nat × Nat))
  deriving DecidableEq, Repr

/-- Read a sidecar word beside a scale code for a block of `len` elements; the second component is a
malformed word (R178 cases 3-5). -/
def readSidecar (word scale len : Nat) : SideRead × Bool :=
  if bit word 49 || scale % 256 = 255 then (.nan, false)
  else if bit word 48 then (.zero, false)
  else
    let cnt := bits word 10 2
    let s0 := (bits word 0 5, bits word 16 16)
    let s1 := (bits word 5 5, bits word 32 16)
    let (l, bad) :=
      if cnt = 3 then ([], true)
      else if cnt = 0 then ([], false)
      else if cnt = 1 then ([s0], false)
      else if s0.1 = s1.1 then ([s0], true) else ([s0, s1], false)
    let l' := l.filter (fun s => s.1 < len)
    (.stars l', bad || l'.length != l.length)

/-- The value of a payload element read through its block (R57, R58): the star's value in its place. -/
def starAt (l : List (Nat × Nat)) (i : Nat) : Option Nat := (l.find? (fun s => s.1 = i)).map (·.2)

/-- Demote a star into its payload position (R189): the payload code, and what the conversion reports (02 R61, R62). -/
def demoteStar (ctx : NumCtx) (fmt bf16 : Nat) : Nat × Ev := convert ctx fmt 0 0 (readVal ctx 1 bf16)

end Sys2Proof.Machine
end

