-- ==== Sys2Proof/Machine/Functions.lean ====
section
/-! DEFINITION. The function unit: exp2, log2, rcp, rsqrt, sqrt, sin, cos, tanh, sigm (05 R132-R147). -/

namespace Sys2Proof.Machine

/-- What a function's algorithm gives before the final rounding: an FP32 code taken from the edge-case
table, or the exact value v. -/
inductive FnVal where
  | edge (code : Nat)
  | val (v : XVal)
  deriving DecidableEq, Repr

/-- Bitwise integer square root by `k` result bits. -/
def isqrtAux : Nat → Nat → Nat → Nat
  | 0, _, acc => acc
  | k + 1, n, acc =>
    let t := acc + 2 ^ k
    isqrtAux k n (if t * t ≤ n then t else acc)

/-- ⌊√n⌋ for n < 2^600. -/
def isqrt (n : Nat) : Nat := isqrtAux (n.log2 / 2 + 1) n 0

/-- Nearest integer of a fraction with no ties. -/
def nearestDiv (a b : Nat) : Nat := (2 * a + b) / (2 * b)

/-- One entry of EXP_TAB computed from its definition: the nearest integer of the 64th root, found by
comparing 64th powers (R136). -/
def expTabAux : Nat → Nat → Nat → Nat
  | 0, _, acc => acc
  | k + 1, target, acc =>
    let t := acc + 2 ^ k
    expTabAux k target (if t ^ 64 ≤ target then t else acc)

/-- EXP_TAB[j]: the integer nearest 2^(30 + j/64); half-unit precision decides the rounding (R136). -/
def expTabAt (j : Nat) : Nat := (expTabAux 33 (2 ^ (31 * 64 + j)) 0 + 1) / 2

/-- (y, n) of exp2_core (R137) for the signed fraction `z = num / den`. -/
def exp2Core (num : Int) (den : Nat) : Nat × Int :=
  let n := num / (den : Int)
  let fr := (num - n * den).toNat
  let f := fr * 2 ^ 32 / den
  let rr := f % 2 ^ 26
  let t := (0x0E35846C * rr) >>> 32
  let t := ((0x3D7F7BFF + t) * rr) >>> 32
  let p := ((0xB17217F8 + t) * rr) >>> 32
  let e := expTabAt (f >>> 26)
  (e + ((e * p) >>> 32), n)

/-- exp2 of a finite operand (R137, R147). -/
def fnExp2 (x : XVal) : FnVal :=
  match x with
  | .nan => .edge 0x7FC00000
  | .inf neg => .edge (if neg then 0 else 0x7F800000)
  | .fin neg n d =>
    if n = 0 then .edge 0x3F800000
    else if !neg && decide (128 * d ≤ n) then .val (dyadic false 1 128)
    else if neg && decide (150 * d ≤ n) then .edge 0
    else
      let (y, k) := exp2Core (snum neg n) d
      .val (dyadic false y (k - 30))

/-- RCP_TAB[j] and LOG_TAB[j] are nearest integers (R139); j = −16..32. -/
def rcpTab (j : Int) : Nat := nearestDiv (2 ^ 30) (64 + j).toNat

/-- ⌊2^k × log2(n / d)⌋-style fixed-point logarithm by repeated squaring: `k` fraction bits of
log2(m) for m = x / 2^p in [1, 2). -/
def log2Bits : Nat → Nat → Nat → Nat → Nat
  | 0, _, _, acc => acc
  | k + 1, p, x, acc =>
    let y := (x * x) >>> p
    if y ≥ 2 ^ (p + 1) then log2Bits k p (y >>> 1) (2 * acc + 1) else log2Bits k p y (2 * acc)

/-- LOG_TAB[j]: the integer nearest 2^32 × log2(2^24 / RCP_TAB[j]) (R139). 33 fraction bits decide the
rounding. A value below 1 is taken as the negated logarithm of its inverse. -/
def logTab (j : Int) : Int :=
  let r := rcpTab j
  if r = 2 ^ 24 then 0
  else if r < 2 ^ 24 then
    -- 2^24 / r in (1, 2)
    let t := log2Bits 33 160 (((2 ^ 24) <<< 160) / r) 0
    ((t + 1) / 2 : Nat)
  else
    let t := log2Bits 33 160 ((r <<< 160) / 2 ^ 24) 0
    (-(((t + 1) / 2 : Nat) : Int))

/-- Arithmetic shift right, toward −∞. -/
def ishr (a : Int) (s : Nat) : Int := a / (2 ^ s : Int)

/-- log2 of a positive finite operand n / d (R140). -/
def fnLog2Pos (n d : Nat) : XVal :=
  let k := flog2 n d
  let (mx, _, _) := scaled n d (k - 24)
  let (mx, k) := if mx ≥ 0x01800000 then (mx >>> 1, k + 1) else (mx, k)
  let j : Int := ishr ((mx : Int) - 0x01000000 + 0x00020000) 18
  let rr : Int := (mx : Int) * rcpTab j - 2 ^ 48
  let h : Int := -0x5C551D95
  let h := 0x7B1C2771 + ishr (h * rr) 48
  let h := -0xB8AA3B29 + ishr (h * rr) 48
  let h := 0x171547653 + ishr (h * rr) 48
  let total := k * 2 ^ 80 + logTab j * 2 ^ 48 + h * rr
  .fin (decide (total < 0)) total.natAbs (2 ^ 80)

/-- log2 (R140, R147). -/
def fnLog2 (x : XVal) : FnVal :=
  match x with
  | .nan => .edge 0x7FC00000
  | .inf neg => .edge (if neg then 0x7FC00000 else 0x7F800000)
  | .fin neg n d =>
    if n = 0 then .edge 0xFF800000
    else if neg then .edge 0x7FC00000
    else if n = d then .edge 0
    else .val (fnLog2Pos n d)

/-- rcp (R141, R147). -/
def fnRcp (x : XVal) : FnVal :=
  match x with
  | .nan => .edge 0x7FC00000
  | .inf neg => .edge (signBit 0 neg)
  | .fin neg n d => if n = 0 then .edge (0x7F800000 + signBit 0 neg) else .val (.fin neg d n)

/-- A fraction that lies on the same side of every 40-bit binary fraction as √(n / d): the root taken
to 64 fraction bits below its leading bit, with a half unit added when it is inexact. -/
def rootVal (n d : Nat) : XVal :=
  -- √(n/d) = √(n·d) / d
  let s := isqrt (n * d * 2 ^ 256)
  if s * s = n * d * 2 ^ 256 then .fin false s (d * 2 ^ 128)
  else .fin false (2 * s + 1) (d * 2 ^ 129)

/-- sqrt (R141, R147). -/
def fnSqrt (x : XVal) : FnVal :=
  match x with
  | .nan => .edge 0x7FC00000
  | .inf neg => .edge (if neg then 0x7FC00000 else 0x7F800000)
  | .fin neg n d =>
    if n = 0 then .edge (signBit 0 neg)
    else if neg then .edge 0x7FC00000
    else .val (rootVal n d)

/-- rsqrt (R141, R147). -/
def fnRsqrt (x : XVal) : FnVal :=
  match x with
  | .nan => .edge 0x7FC00000
  | .inf neg => .edge (if neg then 0x7FC00000 else 0)
  | .fin neg n d =>
    if n = 0 then .edge (0x7F800000 + signBit 0 neg)
    else if neg then .edge 0x7FC00000
    else .val (rootVal d n)

/-- Sign an FP32 value. -/
def signed (neg : Bool) (x : XVal) : XVal :=
  match x with
  | .fin _ n d => .fin neg n d
  | .inf _ => .inf neg
  | .nan => .nan

/-- tanh of x = |a| finite, a ≠ 0, |a| < 16 (R142). -/
def fnTanhPos (n d : Nat) : XVal :=
  if 16 * n < d then
    let s : Int := ((n * n * 2 ^ 40 / (d * d) : Nat) : Int)
    let h : Int := -0x0DD0DD0E
    let h := 0x22222222 + ishr (h * s) 40
    let h := -0x55555555 + ishr (h * s) 40
    let q := ishr (h * s) 32
    .fin false (n * ((2 ^ 40 : Int) + q).toNat) (d * 2 ^ 40)
  else
    let (y, k) := exp2Core (-((n * 0x02E2A8ECA570 : Nat) : Int)) (d * 2 ^ 40)
    -- e = y · 2^(k − 30), k < 0
    let den := 2 ^ (30 - k).toNat
    .fin false (den - y) (den + y)

/-- tanh (R142, R147). -/
def fnTanh (x : XVal) : FnVal :=
  match x with
  | .nan => .edge 0x7FC00000
  | .inf neg => .edge (0x3F800000 + signBit 0 neg)
  | .fin neg n d =>
    if n = 0 then .edge (signBit 0 neg)
    else if 16 * d ≤ n then .edge (0x3F800000 + signBit 0 neg)
    else .val (signed neg (fnTanhPos n d))

/-- sigm (R143, R147). -/
def fnSigm (x : XVal) : FnVal :=
  match x with
  | .nan => .edge 0x7FC00000
  | .inf neg => .edge (if neg then 0 else 0x3F800000)
  | .fin neg n d =>
    if n = 0 then .edge 0x3F000000
    else if !neg && decide (32 * d ≤ n) then .edge 0x3F800000
    else if neg && decide (128 * d ≤ n) then .edge 0
    else
      let (y, k) := exp2Core (-(snum neg n) * 0x0171547652B8) (d * 2 ^ 40)
      -- 1 / (1 + y · 2^(k − 30))
      let e := k - 30
      if 0 ≤ e then .val (.fin false 1 (1 + y * 2 ^ e.toNat))
      else .val (.fin false (2 ^ (-e).toNat) (2 ^ (-e).toNat + y))

/-- TWO_OVER_PI (R144). -/
def twoOverPi : Nat := 0xA2F9836E4E441529FC2757D1F534DDC0DB6295993C439041FE5163ABDEBBC561

/-- trig_core for |a| = n / d ≥ 2^−12 (R145): quadrant, sv and cv. -/
def trigCore (n d : Nat) : Nat × XVal × XVal :=
  let e := flog2 n d
  let kx := e - 23
  let (mx, _, _) := scaled n d kx
  let zq : Int := ((mx * twoOverPi) >>> (192 - kx).toNat : Nat)
  let nq := ishr (zq + 2 ^ 63) 64
  let rq := zq - nq * 2 ^ 64
  let u := ishr rq 32
  let w := ishr (u * u) 32
  let hs := [(-0x0132D2CD : Int), 0x1466BC67, -0xA55DE731, 0x1921FB544].foldl
    (fun h c => c + ishr (h * w) 32) 0x000A83C2
  let sv := rq * hs
  let hc := [(0x003C3EA1 : Int), -0x05574F20, 0x40F07C20, -0x13BD3CC9C].foldl
    (fun h c => c + ishr (h * w) 32) (-0x0001A6D2)
  let cv := 2 ^ 32 + ishr (hc * w) 32
  ((nq % 4).toNat, .fin (decide (sv < 0)) sv.natAbs (2 ^ 96), .fin (decide (cv < 0)) cv.natAbs (2 ^ 32))

/-- sin (R144-R147). -/
def fnSin (x : XVal) : FnVal :=
  match x with
  | .nan => .edge 0x7FC00000
  | .inf _ => .edge 0x7FC00000
  | .fin neg n d =>
    if n = 0 then .edge (signBit 0 neg)
    else if n * 4096 < d then .val (.fin neg n d)
    else
      let (q, sv, cv) := trigCore n d
      let v := match q with | 0 => sv | 1 => cv | 2 => xneg sv | _ => xneg cv
      let v := if neg then xneg v else v
      match v with
      | .fin s m e => if m = 0 then .val (.fin neg 0 1) else .val (.fin s m e)
      | v => .val v

/-- cos (R144-R147). -/
def fnCos (x : XVal) : FnVal :=
  match x with
  | .nan => .edge 0x7FC00000
  | .inf _ => .edge 0x7FC00000
  | .fin _ n d =>
    if n = 0 then .edge 0x3F800000
    else if n * 4096 < d then .edge 0x3F800000
    else
      let (q, sv, cv) := trigCore n d
      let v := match q with | 0 => cv | 1 => xneg sv | 2 => xneg cv | _ => sv
      match v with
      | .fin s m e => if m = 0 then .val (.fin false 0 1) else .val (.fin s m e)
      | v => .val v

/-- The function of opcode `op` (04 R107). -/
def fnEval (op : Nat) (x : XVal) : FnVal :=
  match op with
  | 0x30 => fnExp2 x
  | 0x31 => fnLog2 x
  | 0x32 => fnRcp x
  | 0x33 => fnRsqrt x
  | 0x34 => fnSqrt x
  | 0x35 => fnSin x
  | 0x36 => fnCos x
  | 0x37 => fnTanh x
  | _ => fnSigm x

/-- The FP32 value round_f32(v) with gradual underflow; `none` where it would pass the largest finite
magnitude (R133, R134). -/
def roundF32 (v : XVal) : Option Nat :=
  match v with
  | .nan => some 0x7FC00000
  | .inf neg => some (0x7F800000 + signBit 0 neg)
  | .fin neg n d =>
    let c := magCode ⟨23, 127, 0x7F7FFFFF, none, none⟩ 0 neg 0 n d
    if c > 0x7F7FFFFF then none else some (c + signBit 0 neg)

/-- A function stage's element: the FP32 value carried into `fo` under `rnd` (R132-R134, 04 R108). -/
def fnStage (ctx : NumCtx) (op fo rnd w : Nat) (x : XVal) : Nat × Ev :=
  -- an FP32 target takes the FP32 value as it stands
  let carry (code : Nat) : Nat × Ev :=
    if fo = 0 then (code, { nanProd := isNanCode 0 code })
    else convert { ctx with ftz := false } fo rnd w (decode 0 code)
  match fnEval op x with
  | .edge code => carry code
  | .val v =>
    match v, floatParams fo with
    | .fin neg n d, some p =>
      if ctx.ftz && isF3 fo && n != 0 && below n d (1 - p.bias) then
        (signBit fo neg, { flush := true })
      else match roundF32 v with
        | some c => carry c
        | none => (overflowCode ctx fo p (if fo = 0 then 0 else rnd) neg, { sat := true })
    | _, _ => carry 0x7FC00000

/-- The FP32 code of exp2 where the block evaluates 2^x on its own (R138), and whether it was flushed: its result
has an FP32 target, so the output flush of 03 R83 acts on it, judged on the exact v (R133, log 50). -/
def exp2F32 (ftz : Bool) (x : XVal) : Nat × Bool :=
  match fnExp2 x with
  | .edge c => (c, false)
  | .val v =>
    match v with
    | .fin neg n d =>
      if ftz && n != 0 && below n d (-126) then (signBit 0 neg, true) else ((roundF32 v).getD 0x7F7FFFFF, false)
    | _ => ((roundF32 v).getD 0x7F7FFFFF, false)

/-- The FP32 values of rcp and log2 used by linked products (09 R229). -/
def rcpF32 (x : XVal) : Nat :=
  match fnRcp x with
  | .edge c => c
  | .val v => (roundF32 v).getD 0x7F7FFFFF

/-- The FP32 value of log2 (R140). -/
def log2F32 (x : XVal) : Nat :=
  match fnLog2 x with
  | .edge c => c
  | .val v => (roundF32 v).getD 0x7FC00000

end Sys2Proof.Machine
end

