-- ==== Sys2Proof/Machine/Reduce.lean ====
section
/-! DEFINITION. The Meridian order: chunks, trees, folds and online statistics (06 R148-R158, R440). Values are exact
FP32 values; every node and fold rounds to FP32 under code 0 (R151). -/

namespace Sys2Proof.Machine

/-- What a row reduction reports: flushed roundings, the columns of the NaNs it formed, count saturation. -/
structure RAcc where
  flushes : Nat := 0
  nans : List Nat := []
  sat : Bool := false
  deriving DecidableEq, Repr

/-- The value is NaN. -/
def xIsNan : XVal → Bool
  | .nan => true
  | _ => false

/-- A reduction's or a correction's factor 2^d for a difference d already rounded to FP32 (R138, R155); a flushed factor
is counted with the roundings (03 R83). -/
def redExp (ftz : Bool) (d : XVal) (acc : RAcc) : XVal × RAcc :=
  let (c, fl) := exp2F32 ftz d
  (decode 0 c, if fl then { acc with flushes := acc.flushes + 1 } else acc)

/-- Equal values, −0 equal to +0, NaN equal to nothing (06 R155). -/
def xeq (a b : XVal) : Bool := !xIsNan a && !xIsNan b && decide (xcmp a b = .eq)

/-- Round an exact result of operands that are not NaN; a NaN formed here is an event at `col` (R151, R440). -/
def redRound (ftz : Bool) (col : Nat) (opsNan : Bool) (x : XVal) (acc : RAcc) : XVal × RAcc :=
  if opsNan then (.nan, acc)
  else match x with
    | .nan => (.nan, { acc with nans := col :: acc.nans })
    | x =>
      let (c, fl) := r32 ftz x
      (decode 0 c, if fl then { acc with flushes := acc.flushes + 1 } else acc)

/-- round_f32(a + b). -/
def redAdd (ftz : Bool) (a b : XVal) (col : Nat) (acc : RAcc) : XVal × RAcc :=
  redRound ftz col (xIsNan a || xIsNan b) (xadd 0 a b) acc

/-- round_f32(a × b). -/
def redMul (ftz : Bool) (a b : XVal) (col : Nat) (acc : RAcc) : XVal × RAcc :=
  redRound ftz col (xIsNan a || xIsNan b) (xmul a b) acc

/-- The larger value, −0 below +0; NaN gives NaN (R153). -/
def larger (a b : XVal) : XVal :=
  if xIsNan a then a else if xIsNan b then b else if xlt a b then b else a

/-- The smaller value, −0 below +0; NaN gives NaN (R153). -/
def smaller (a b : XVal) : XVal :=
  if xIsNan a then a else if xIsNan b then b else if xlt b a then b else a

/-- The pair with the larger value; a NaN is largest, and the first operand wins ties (R153). DEDUCED (log 54): −0 lies
below +0 for argmax as R153 orders it for maximum, so that a later +0 replaces an earlier −0. -/
def argLarger (a b : XVal × Int) : XVal × Int :=
  if xIsNan a.1 then a else if xIsNan b.1 then b else if xlt a.1 b.1 then b else a

/-- One level of the tree of R149; each node keeps the lowest column of its present leaves. -/
def treeLevel {α : Type} (f : α → α → Nat → RAcc → α × RAcc) :
    List (Option (α × Nat)) → RAcc → List (Option (α × Nat)) × RAcc
  | a :: b :: rest, acc =>
    let (n, acc) := match a, b with
      | none, b => (b, acc)
      | a, none => (a, acc)
      | some (x, c), some (y, _) =>
        let (v, acc) := f x y c acc
        (some (v, c), acc)
    let (ns, acc) := treeLevel f rest acc
    (n :: ns, acc)
  | l, acc => (l, acc)

/-- The balanced tree over 2^k leaf positions (R149). -/
def tree {α : Type} (f : α → α → Nat → RAcc → α × RAcc) :
    Nat → List (Option (α × Nat)) → RAcc → Option α × RAcc
  | 0, l, acc => ((l.headD none).map (·.1), acc)
  | k + 1, l, acc =>
    let (l, acc) := treeLevel f l acc
    tree f k l acc

/-- Lift a combination that neither rounds nor reports. -/
def pure2 {α : Type} (f : α → α → α) (a b : α) (_ : Nat) (acc : RAcc) : α × RAcc := (f a b, acc)

/-- The FP32 value of an exact value under code 0: the winner of an integer comparison (R152). -/
def toF32 (x : XVal) : XVal := decode 0 (r32 false x).1

/-- FP32 code of an FP32 value. -/
def f32Code (x : XVal) : Nat := (r32 false x).1

/-- Apply a step to each present leaf. -/
def mapLeaves {α β : Type} (f : α → Nat → RAcc → β × RAcc) :
    List (Option (α × Nat)) → RAcc → List (Option (β × Nat)) × RAcc
  | [], acc => ([], acc)
  | none :: l, acc => let (r, acc) := mapLeaves f l acc; (none :: r, acc)
  | some (x, c) :: l, acc =>
    let (y, acc) := f x c acc
    let (r, acc) := mapLeaves f l acc
    (some (y, c) :: r, acc)

/-- The five fields of one row of an S register as FP32 codes and an INT32 count (01 R16). -/
structure SVals where
  max : Nat
  sum : Nat
  count : Nat
  mean : Nat
  m2 : Nat
  deriving DecidableEq, Repr

/-- A field by number (04 R116). -/
def SVals.get (s : SVals) : Nat → Nat
  | 0 => s.max | 1 => s.sum | 2 => s.count | 3 => s.mean | _ => s.m2

/-- Write a field by number. -/
def SVals.set (s : SVals) (k v : Nat) : SVals :=
  match k with
  | 0 => { s with max := v } | 1 => { s with sum := v } | 2 => { s with count := v }
  | 3 => { s with mean := v } | _ => { s with m2 := v }

/-- A chunk of one row: its index, its first column and its leaves. -/
structure Chunk where
  index : Nat
  leaves : List (Option (XVal × Nat))
  deriving DecidableEq, Repr

/-- The lowest present column of a chunk (R440). -/
def Chunk.first (c : Chunk) : Option Nat := c.leaves.findSome? (fun l => l.map (·.2))

/-- The kind's clear value written into the fields of a row (R152, R155, R157). `kind` is a statistic kind of 06 R162. -/
def clearKind (kind : Nat) (s : SVals) : SVals :=
  match kind with
  | 0 => { s with sum := 0x80000000 }
  | 1 => { s with max := 0xFF800000 }
  | 2 => { s with max := 0x7F800000 }
  | 3 => { s with max := 0xFF800000, count := 0xFFFFFFFF }
  | 4 => { s with max := 0xFF800000, sum := 0 }
  | _ => { s with count := 0, mean := 0, m2 := 0 }

/-- The statistic kind of rred kind `k` (06 R162). -/
def rredStat : Nat → Nat
  | 1 => 1 | 2 => 2 | 4 => 3 | _ => 0

/-- The record words of a statistic kind (06 R163): which fields of a row it owns. -/
def kindFields : Nat → List Nat
  | 0 => [1] | 1 => [0] | 2 => [0] | 3 => [0, 2] | 4 => [0, 1] | _ => [2, 3, 4]

/-- fold_ms of R155 on FP32 values. -/
def foldMs (ftz : Bool) (col : Nat) (ma sa mb sb : XVal) (acc : RAcc) : (XVal × XVal) × RAcc :=
  let m := larger ma mb
  if xIsNan m then ((.nan, .nan), acc) else
  let (fa, acc) := if xeq ma m then (XVal.fin false 1 1, acc) else
    let (d, acc) := redAdd ftz ma (xneg m) col acc
    redExp ftz d acc
  let (fb, acc) := if xeq mb m then (XVal.fin false 1 1, acc) else
    let (d, acc) := redAdd ftz mb (xneg m) col acc
    redExp ftz d acc
  let (t, acc) := redRound ftz col (xIsNan sa || xIsNan sb) (xadd 0 (xmul sa fa) (xmul sb fb)) acc
  ((m, t), acc)

/-- fold_w of R157: count, mean, M2. Negative counts, which only a load or another statistic can leave in the field, are
folded by the same formulas (log 51): the sum saturates at either end of INT32, and where it is zero the quotients have
no value and mean and M2 are free. -/
def foldW (ftz : Bool) (col : Nat) (n : Int) (mu m2 : XVal) (nb : Int) (mub m2b : XVal) (acc : RAcc) :
    (Int × XVal × XVal) × RAcc :=
  if nb = 0 then ((n, mu, m2), acc)
  else if n = 0 then ((nb, mub, m2b), acc)
  else
    let t := n + nb
    let nt := if t > 2147483647 then 2147483647 else if t < -2147483648 then -2147483648 else t
    let acc := if nt != t then { acc with sat := true } else acc
    let (d, acc) := redAdd ftz mub (xneg mu) col acc
    let ratio (a b : Int) : XVal := .fin (decide (a < 0) != decide (b < 0)) a.natAbs b.natAbs
    if nt = 0 then
      let free (k : Nat) : XVal := decode 0 (Config.freeWelford n nb k).toNat
      let (mu', acc) := redRound ftz col (xIsNan mu || xIsNan d) (free 3) acc
      let (m2', acc) := redRound ftz col (xIsNan m2 || xIsNan m2b || xIsNan d) (free 4) acc
      ((nt, mu', m2'), acc)
    else
    let (mu', acc) := redRound ftz col (xIsNan mu || xIsNan d) (xadd 0 mu (xmul d (ratio nb nt))) acc
    let (m2', acc) := redRound ftz col (xIsNan m2 || xIsNan m2b || xIsNan d)
      (xadd 0 (xadd 0 m2 m2b) (xmul (xmul d d) (ratio (n * nb) nt))) acc
    ((nt, mu', m2'), acc)

/-- Read an FP32 field of a row. -/
def sVal (ctx : NumCtx) (c : Nat) : XVal := readVal ctx 0 c

/-- The record of one chunk by its statistic kind: the fields it owns, as the stage computed them (06 R163). -/
abbrev ChunkRec := SVals

/-- Chunk result of rred kind `k` (R149, R152). -/
def rredChunk (ctx : NumCtx) (k lv : Nat) (isI : Bool) (idx : Nat → Int) (c : Chunk) (acc : RAcc) :
    Option ChunkRec × RAcc :=
  let z : SVals := clearKind (rredStat k) ⟨0, 0, 0, 0, 0⟩
  let pre (x : XVal) : XVal := if isI then toF32 x else x
  match k with
  | 1 =>
    let (r, acc) := tree (pure2 larger) lv c.leaves acc
    (r.map (fun x => { z with max := f32Code (toF32 x) }), acc)
  | 2 =>
    let (r, acc) := tree (pure2 smaller) lv c.leaves acc
    (r.map (fun x => { z with max := f32Code (toF32 x) }), acc)
  | 4 =>
    let ls := c.leaves.map (fun l => l.map (fun p => ((p.1, idx p.2), p.2)))
    let (r, acc) := tree (pure2 argLarger) lv ls acc
    (r.map (fun x => { z with max := f32Code (toF32 x.1), count := ofSigned 32 x.2 }), acc)
  | k =>
    let leaf (x : XVal) (col : Nat) (acc : RAcc) : XVal × RAcc :=
      if k = 3 then redMul ctx.ftz (pre x) (pre x) col acc
      else if k = 5 then (xabs (pre x), acc) else (pre x, acc)
    let (ls, acc) := mapLeaves leaf c.leaves acc
    let (r, acc) := tree (redAdd ctx.ftz) lv ls acc
    (r.map (fun x => { z with sum := f32Code x }), acc)

/-- Chunk result of rstat modes 0 and 1 (R155, R157). -/
def rstatChunk (ctx : NumCtx) (mode lv : Nat) (c : Chunk) (acc : RAcc) : Option ChunkRec × RAcc :=
  match c.first with
  | none => (none, acc)
  | some c0 =>
    if mode = 0 then
      let (m, acc) := tree (pure2 larger) lv c.leaves acc
      let m := m.getD .nan
      let leaf (x : XVal) (col : Nat) (acc : RAcc) : XVal × RAcc :=
        if xIsNan x || xIsNan m then (.nan, acc)
        else if decide (x = .inf true) then (.fin false 0 1, acc)
        else if xeq x m then (.fin false 1 1, acc)
        else
          let (d, acc) := redAdd ctx.ftz x (xneg m) col acc
          redExp ctx.ftz d acc
      let (ls, acc) := mapLeaves leaf c.leaves acc
      let (t, acc) := tree (redAdd ctx.ftz) lv ls acc
      (some ⟨f32Code m, f32Code (t.getD .nan), 0, 0, 0⟩, acc)
    else
      let n := (c.leaves.filter Option.isSome).length
      let (s, acc) := tree (redAdd ctx.ftz) lv c.leaves acc
      let s := s.getD .nan
      let (mu, acc) := redRound ctx.ftz c0 (xIsNan s) (xdivPos s n 1) acc
      let leaf (x : XVal) (col : Nat) (acc : RAcc) : XVal × RAcc :=
        let d := xadd 0 x (xneg mu)
        redRound ctx.ftz col (xIsNan x || xIsNan mu) (xmul d d) acc
      let (ls, acc) := mapLeaves leaf c.leaves acc
      let (m2, acc) := tree (redAdd ctx.ftz) lv ls acc
      (some ⟨0, 0, n, f32Code mu, f32Code (m2.getD .nan)⟩, acc)

/-- Fold one chunk record into a row by the operator of its statistic kind (R150, R152, R155, R157, R166). -/
def foldKind (ctx : NumCtx) (kind col : Nat) (s : SVals) (c : ChunkRec) (acc : RAcc) : SVals × RAcc :=
  match kind with
  | 0 =>
    let (v, acc) := redAdd ctx.ftz (sVal ctx s.sum) (sVal ctx c.sum) col acc
    ({ s with sum := f32Code v }, acc)
  | 1 => ({ s with max := f32Code (larger (sVal ctx s.max) (sVal ctx c.max)) }, acc)
  | 2 => ({ s with max := f32Code (smaller (sVal ctx s.max) (sVal ctx c.max)) }, acc)
  | 3 =>
    let f := (sVal ctx s.max, toSigned 32 s.count)
    let r := (sVal ctx c.max, toSigned 32 c.count)
    let w := if f.2 = -1 then r else argLarger f r
    ({ s with max := f32Code w.1, count := ofSigned 32 w.2 }, acc)
  | 4 =>
    let ((m, t), acc) := foldMs ctx.ftz col (sVal ctx s.max) (sVal ctx s.sum) (sVal ctx c.max) (sVal ctx c.sum) acc
    ({ s with max := f32Code m, sum := f32Code t }, acc)
  | _ =>
    let ((n, mu, m2), acc) := foldW ctx.ftz col (toSigned 32 s.count) (sVal ctx s.mean) (sVal ctx s.m2)
      (toSigned 32 c.count) (sVal ctx c.mean) (sVal ctx c.m2) acc
    ({ s with count := ofSigned 32 n, mean := f32Code mu, m2 := f32Code m2 }, acc)

/-- Fold the chunks of one row in increasing index; returns the row, the chunk records and what was reported. `quiet`: the
folds report nothing, for another instance repeats and reports them (R168). -/
def foldRow (ctx : NumCtx) (kind : Nat) (quiet : Bool) (chunkOf : Chunk → RAcc → Option ChunkRec × RAcc) :
    List Chunk → SVals → RAcc → SVals × List (Nat × ChunkRec) × RAcc
  | [], s, acc => (s, [], acc)
  | c :: cs, s, acc =>
    let (r, acc) := chunkOf c acc
    match r, c.first with
    | some r, some c0 =>
      let (s, folded) := foldKind ctx kind c0 s r acc
      let (s, rs, acc) := foldRow ctx kind quiet chunkOf cs s (if quiet then acc else folded)
      (s, (c.index, r) :: rs, acc)
    | _, _ =>
      let (s, rs, acc) := foldRow ctx kind quiet chunkOf cs s acc
      (s, (c.index, clearKind kind ⟨0, 0, 0, 0, 0⟩) :: rs, acc)

/-- wmerge of two rows (R158). DESIGN CHOICE (log 54): where the merged maximum is NaN, no maximum equals it, and the
count comes from the operands whose maximum is NaN as from those that equal it. -/
def wmergeRow (ctx : NumCtx) (welford : Bool) (a b : SVals) (acc : RAcc) : SVals × RAcc :=
  if welford then
    let (r, acc) := foldKind ctx 5 0 a b acc
    (r, acc)
  else
    let ma := sVal ctx a.max
    let mb := sVal ctx b.max
    let ((m, t), acc) := foldMs ctx.ftz 0 ma (sVal ctx a.sum) mb (sVal ctx b.sum) acc
    let ca := toSigned 32 a.count
    let cb := toSigned 32 b.count
    let ea := xeq ma m || (xIsNan m && xIsNan ma)
    let eb := xeq mb m || (xIsNan m && xIsNan mb)
    let c := if ca = -1 then cb else if cb = -1 then ca
      else if ea && eb then (if cb < ca then cb else ca) else if ea then ca else cb
    ({ a with max := f32Code m, sum := f32Code t, count := ofSigned 32 c }, acc)

/-- A row of an S register holds a NaN in one of the fields named. -/
def sHasNan (s : SVals) (fields : List Nat) : Bool := fields.any (fun k => k != 2 && isNanCode 0 (s.get k))

end Sys2Proof.Machine
end

