-- ==== Sys2Proof/Machine/Stardust.lean ====
section
/-! DEFINITION. The Stardust generator (03 R77-R79) and the Dygen 2 lane stream (03 R81). -/

namespace Sys2Proof.Machine

/-- The keys of R73. -/
structure StarKeys where
  seed : Nat
  tensor : Nat
  step : Nat
  deriving DecidableEq, Repr

/-- 32-bit sum. -/
def add32 (a b : Nat) : Nat := (a + b) % 2 ^ 32

/-- Left rotation of a 32-bit word. -/
def rotl32 (x k : Nat) : Nat := ((x <<< k) % 2 ^ 32) ||| (x >>> (32 - k))

/-- The five key words of R77. -/
def starKey (k : StarKeys) : List Nat :=
  let k0 := k.seed % 2 ^ 32
  let k1 := bits k.seed 32 32
  let k2 := k.tensor % 2 ^ 32
  let k3 := k.step % 2 ^ 32
  [k0, k1, k2, k3, k0 ^^^ k1 ^^^ k2 ^^^ k3 ^^^ 0x6A553C91]

/-- The four counter words. -/
structure Quad32 where
  x0 : Nat
  x1 : Nat
  x2 : Nat
  x3 : Nat
  deriving DecidableEq, Repr

/-- Injection `i` (R78). -/
def starInject (k : List Nat) (i : Nat) (x : Quad32) : Quad32 :=
  ⟨add32 x.x0 (nth k (i % 5)), add32 x.x1 (nth k ((i + 1) % 5)), add32 x.x2 (nth k ((i + 2) % 5)),
   add32 (add32 x.x3 (nth k ((i + 3) % 5))) i⟩

/-- One round with rotation amounts `a`, `b` (R78). -/
def starRound (a b : Nat) (x : Quad32) : Quad32 :=
  let x0 := add32 x.x0 x.x1
  let x1 := rotl32 x.x1 a ^^^ x0
  let x2 := add32 x.x2 x.x3
  let x3 := rotl32 x.x3 b ^^^ x2
  ⟨x0, x3, x2, x1⟩

/-- One evaluation for element group `g` (R77, R78). -/
def starEval (k : StarKeys) (stream g : Nat) : Quad32 :=
  let ks := starKey k
  let x : Quad32 := ⟨g % 2 ^ 32, (stream % 2 ^ 16) <<< 16 ||| bits g 32 13, 0x5D2B7C41, 0⟩
  let x := starInject ks 0 x
  let x := starRound 20 4 (starRound 12 24 (starRound 16 8 x))
  let x := starInject ks 1 x
  let x := starRound 4 20 (starRound 24 12 (starRound 8 16 x))
  starInject ks 2 x

/-- The 16-bit word of element `e` (R79). -/
def stardust (k : StarKeys) (stream e : Nat) : Nat :=
  let x := starEval k stream ((e % 2 ^ 48) >>> 3)
  let y := pack 32 [x.x0, x.x1, x.x2, x.x3]
  bits y (16 * (e % 8)) 16

/-- Start state of Dygen 2 lane `l` (R81). -/
def g2LaneStart (k : StarKeys) (l : Nat) : Nat :=
  let s := (k.seed % 2 ^ 32) ^^^ (k.tensor % 2 ^ 32) ^^^ (k.step % 2 ^ 32) ^^^ ((l * 0x6F4D1B27) % 2 ^ 32)
  if s = 0 then 1 else s

/-- One update of a lane state (R81). -/
def g2LaneNext (s : Nat) : Nat :=
  let s := s ^^^ ((s <<< 13) % 2 ^ 32)
  let s := s ^^^ (s >>> 17)
  s ^^^ ((s <<< 5) % 2 ^ 32)

/-- `n` updates of a lane state. -/
def g2LaneSkip : Nat → Nat → Nat
  | 0, s => s
  | n + 1, s => g2LaneSkip n (g2LaneNext s)

end Sys2Proof.Machine
end

