-- ==== Sys2Proof/Machine/Uops.lean ====
section
/-! DEFINITION. One pass of a chain program over one block: operand reads at pass entry, masks, every opcode, counts and
NaN events, pass-end writes (04 R94-R117, 03 R85-R88, 15 R359). -/

namespace Sys2Proof.Machine

open Sys2Proof

/-- Which elements of the shape a code-6 site rounds, and so draws a word for (14 R345). -/
inductive G2Draws where
  | all
  /-- A cred stage rounds its result rows alone: rows 0 and 16 of a block (14 R344). -/
  | heads
  /-- A mask register that nothing of the command writes: its 32 rows govern every block alike (04 R104). -/
  | masked (rows : List Nat)
  /-- A mask that the command itself writes or loads: the words are free (log 11). -/
  | computed
  deriving DecidableEq, Repr

/-- A code-6 rounding site: its number and what it draws for. -/
structure G2Site where
  id : Nat
  draws : G2Draws := .all
  deriving DecidableEq, Repr

/-- The key blocks of `bk` keys that causal LINK_RUNs skip, for query blocks of `mr` of `rows` rows: those whose first
key lies beyond the block's last row plus `lead` (09 R223). -/
structure KeySkip where
  mr : Nat
  bk : Nat
  rows : Nat
  lead : Int
  deriving DecidableEq, Repr

/-- Key c is of a key block that is skipped for query ρ. -/
def KeySkip.at (k : KeySkip) (rho c : Nat) : Bool :=
  decide (((c / k.bk * k.bk : Nat) : Int) > ((Nat.min ((rho / k.mr + 1) * k.mr) k.rows - 1 : Nat) : Int) + k.lead)

/-- The Dygen 2 stream of a command: its code-6 rounding sites in the order of 14 R345, the block width that
places an element in a mask, and the elements that no site reaches. -/
structure G2Env where
  sites : List G2Site := []
  width : Nat := 32
  skip : Option KeySkip := none
  deriving DecidableEq, Repr

/-- A tensor view as numerics see it (10 R240): local shape, logical origin and row length. -/
structure ViewIx where
  rLocal : Nat
  cLocal : Nat
  gRow0 : Nat
  gCol0 : Nat
  rowLen : Nat
  deriving DecidableEq, Repr

/-- A block of a run: where it lies in the primary output tensor, and what its work depends on. -/
structure Blk where
  ctx : NumCtx
  width : Nat
  row0 : Nat
  col0 : Nat
  view : ViewIx
  primW : Nat
  keys : StarKeys
  stream : Nat
  producer : Nat
  bandStart : Bool
  g2 : Bool := false
  g2env : G2Env := {}
  /-- A block of a stolen band whose cross-band chunk results its owner folds (06 R168). -/
  away : Bool := false
  freeIx : Nat := 0
  deriving DecidableEq, Repr

/-- Element (i, j) of the block lies inside the logical shape (03 R85). -/
def Blk.inside (b : Blk) (i j : Nat) : Bool :=
  decide (b.row0 + i < b.view.rLocal) && decide (b.col0 + j < b.view.cLocal)

/-- Logical row index of row i (10 R240). -/
def Blk.gRow (b : Blk) (i : Nat) : Nat := b.view.gRow0 + b.row0 + i
/-- Logical column index of column j. -/
def Blk.gCol (b : Blk) (j : Nat) : Nat := b.view.gCol0 + b.col0 + j

/-- A site draws a word for local element (ρ, c) of a block of `w` columns. An element that is representable, NaN,
infinite or flushed draws like any other: R345 has the lane draw for each element it rounds stochastically, and
DEDUCED: the site rounds it under code 6 whatever its value (log 11). -/
def G2Draws.at (d : G2Draws) (w rho c : Nat) : Bool :=
  match d with
  | .all => true
  | .heads => rho % 16 = 0
  | .masked rows => bit (nth rows (rho % 32)) (if w ≤ 256 then c % w else c % w / 2)
  | .computed => true

/-- One site that draws for every element: a conversion (14 R345). -/
def g2One : G2Env := { sites := [⟨0, .all⟩] }

/-- Some site draws under a mask that the command computes (log 11). -/
def G2Env.open_ (env : G2Env) : Bool := env.sites.any fun s => s.draws = .computed

/-- Words drawn for local element (ρ, c). -/
def G2Env.drawn (env : G2Env) (rho c : Nat) : Nat :=
  if env.skip.any (·.at rho c) then 0 else (env.sites.filter fun s => s.draws.at env.width rho c).length

/-- The elements of the Dygen 2 lane of (ρ, c) in the G2 tiles before its own (14 R344, R345). -/
def g2Before (v : ViewIx) (rho c : Nat) : List (Nat × Nat) :=
  (List.range (rho / 16 + 1)).flatMap fun b =>
    (List.range (if b = rho / 16 then c / 16 else (v.cLocal + 15 - c % 16) / 16)).map fun t =>
      (16 * b + rho % 16, 16 * t + c % 16)

/-- Draws of the lane of (ρ, c) before the G2 tile of (ρ, c). -/
def g2Drawn (env : G2Env) (v : ViewIx) (rho c : Nat) : Nat :=
  ((g2Before v rho c).map fun e => env.drawn e.1 e.2).foldl (· + ·) 0

/-- The Dygen 2 lane of local element (ρ, c) (14 R345). -/
def g2LaneOf (v : ViewIx) (rho c : Nat) : Nat := 16 * ((v.gRow0 + rho) % 16) + (v.gCol0 + c) % 16

/-- The Dygen 2 word of a site for local element (ρ, c): the draws of its lane in the tiles before it, and at the
sites before it in its own tile (14 R345); a free value where a mask that the command computes decides them (log 11). -/
def g2Word (keys : StarKeys) (env : G2Env) (v : ViewIx) (site rho c : Nat) : Nat :=
  if env.open_ then Config.freeG2Word site ((v.gRow0 + rho) * v.rowLen + v.gCol0 + c) % 2 ^ 16 else
  let own := (env.sites.takeWhile fun s => s.id != site).filter fun s => s.draws.at env.width rho c
  g2LaneSkip (g2Drawn env v rho c + own.length + 1) (g2LaneStart keys (g2LaneOf v rho c)) % 2 ^ 16

/-- The random word of local element (ρ, c) at a site under rounding code `rnd` (03 R73-R75, R81). -/
def siteWord (keys : StarKeys) (stream : Nat) (env : G2Env) (v : ViewIx) (rnd site rho c : Nat) : Nat :=
  if rnd = 5 then stardust keys (stream % 2 ^ 16) ((v.gRow0 + rho) * v.rowLen + v.gCol0 + c)
  else if rnd = 6 then g2Word keys env v site rho c else 0

/-- The random word of element (i, j) for a micro-op. -/
def Blk.word (b : Blk) (u : Uop) (i j : Nat) : Nat :=
  siteWord b.keys (b.stream + u.index) b.g2env b.view u.rnd u.index (b.row0 + i) (b.col0 + j)

/-! ### Latches and operands -/

/-- A stage latch (04 R94): codes by row, the predicate of a cmp, or the unstated content of an S stage. -/
inductive Latch where
  | codes (rows : List (List Nat))
  | pred (rows : List (List Bool))
  | free
  deriving DecidableEq, Repr

/-- Columns 0 to n − 1 of row i of the tile operand starting at register `reg`, read in format f (R98). -/
def tileCols (a : Arch) (reg f n i : Nat) : List Nat :=
  let w := tileWidth f
  ((List.range (Nat.max 1 (cdiv n w))).flatMap fun r =>
    unpack (fmtBits f) (Nat.min w n) (a.row (reg + r) i).bytes).take n

/-- The format an operand is read in (R102, R103, R113). -/
def readFmt (u : Uop) (k c : Nat) : Nat :=
  if k = 1 && u.immB then
    match (srcKinds u.op).2.1 with
    | .fixed f _ => f
    | .optLo => u.srcFmt 1
    | _ => if isCodeOp u.op then u.fi else if isFloat u.fi then 0 else 15
  else if c = 0xA0 || c = 0xA1 then 15
  else u.srcFmt k

/-- Columns that operand k of a stage has: the whole register for a plane operand (R98). -/
def opndCols (w : Nat) (u : Uop) (k : Nat) : Nat :=
  if (u.op = 0x42 || u.op = 0x43) && decide (k > 0) then tileWidth (u.srcFmt k) else w

/-- The codes of operand k (code c) in row i, at pass entry (R95, R101-R103). -/
def opndRow (a : Arch) (b : Blk) (ls : List Latch) (u : Uop) (k c i : Nat) : List Nat :=
  let n := opndCols b.width u k
  if k = 1 && u.immB then List.replicate n u.imm
  else if c < 0x60 then tileCols a c (u.srcFmt k) n i
  else if isLatch c then
    match ls[c - 0x60]? with
    | some (.codes rows) => rows.getD i []
    | _ => (List.range n).map fun j =>
        Config.freeElement b.freeIx (((c * 16 + u.pass) * 32 + i) * 512 + j) % 2 ^ fmtBits (u.srcFmt k)
  else if c = 0xA0 then List.replicate n (Nat.min (b.gRow i) 0x7FFFFFFF)
  else if c = 0xA1 then (List.range n).map fun j => Nat.min (b.gCol j) 0x7FFFFFFF
  else List.replicate n 0

/-- The bits of mask m for row i, one per column (R104). -/
def maskCols (a : Arch) (w m i : Nat) : List Bool :=
  let x := (a.maskRow m i).bits.toNat
  (List.range w).map fun j => bit x (if w ≤ 256 then j else j / 2)

/-- Source code k of a micro-op. -/
def Uop.src (u : Uop) (k : Nat) : Nat := if k = 0 then u.sa else if k = 1 then u.sb else u.sc

/-! ### Reports of a stage -/

/-- What one stage reports: increments, and the first NaN event as an ordered key (03 R88). -/
structure SAcc where
  pend : Pend := {}
  best : Option Nat := none
  deriving DecidableEq, Repr

/-- The key of a NaN event at block element (i, j): tile, consumed before produced, row, column, format. -/
def nanKey (b : Blk) (i j : Nat) (produced : Bool) (fmt : Nat) : Nat :=
  let c := b.col0 + j
  let tile := if b.g2 then (i / 16) * 2 ^ 32 + c / 16 else c / b.primW
  ((((tile * 2 + (if produced then 1 else 0)) * 32 + i) * 2 ^ 32) + c) * 16 + fmt

/-- Record a NaN event: the counter and the key (R87). -/
def SAcc.nan (s : SAcc) (b : Blk) (i j : Nat) (produced : Bool) (fmt : Nat) : SAcc :=
  let k := nanKey b i j produced fmt
  { pend := s.pend.add (if produced then cNANPROD else cNANCONS) 1
    best := match s.best with | some o => some (Nat.min o k) | none => some k }

/-- Add to a counter. -/
def SAcc.add (s : SAcc) (k n : Nat) : SAcc := { s with pend := s.pend.add k n }

/-- Record what a conversion into format `fo` reported at (i, j). -/
def SAcc.ev (s : SAcc) (b : Blk) (i j fo : Nat) (e : Ev) : SAcc :=
  let s := if e.sat then s.add fo 1 else s
  let s := if e.nanDrop then s.add cNANDROP 1 else s
  let s := if e.flush then s.add cFTZ 1 else s
  if e.nanProd then s.nan b i j true fo else s

/-- The NaN event of a key, for a stage of a program. -/
def nanOfKey (b : Blk) (u : Uop) (k : Nat) : NanEv :=
  let fmt := k % 16
  let c := (k / 16) % 2 ^ 32
  let r := k / 16 / 2 ^ 32
  { consumed := r / 32 % 2 = 0, source := 0, pass := u.pass, stage := u.stage, uop := u.index, fmt := fmt
    band := b.row0 / 32, colTile := c / b.primW, row := r % 32, col := c % b.primW }

/-- Merge a stage's reports into the unit's pending commit. -/
def mergeStage (b : Blk) (u : Uop) (p : Pend) (s : SAcc) : Pend :=
  let p := s.pend.counts.foldl (fun p kn => p.add kn.1 kn.2) p
  match s.best with
  | some k => p.addNan b.g2 b.primW (nanOfKey b u k)
  | none => p

/-! ### Element operations -/

/-- The pair value of R51; under ftz a zero or subnormal hi reads as a zero and lo is ignored (11 R265). -/
def pairVal (ctx : NumCtx) (hi lo : Nat) : XVal :=
  match decode 0 hi with
  | .fin neg n d =>
    let e := bits hi 23 8
    if ctx.ftz && e = 0 then .fin neg 0 1 else
    let E : Int := if e = 0 then -126 else (e : Int) - 127
    if toSigned 16 lo = 0 then .fin neg n d
    else xadd 0 (.fin neg n d) (xscale (ofInt (toSigned 16 lo)) (E - 39))
  | x => x

/-- The pair of an exact value under `rnd` with random word w: hi, lo, and what the stage that writes hi
reports (11 R262-R265). -/
def splitPair (ctx : NumCtx) (rnd w : Nat) (x : XVal) : Nat × Nat × Ev :=
  match x with
  | .nan => (0x7FC00000, 0, { nanProd := true })
  | .inf neg => (0x7F800000 + signBit 0 neg, 0, {})
  | .fin neg n d =>
    if n = 0 then (signBit 0 neg, 0, {})
    else if ctx.ftz && below n d (-126) then (signBit 0 neg, 0, { flush := true })
    else
      let p : FloatParams := ⟨23, 127, 0x7F7FFFFF, some 0x7F800000, some 0x7FC00000⟩
      let c := magCode p (if neg then 8 else 4) neg 0 n d
      if c > p.maxCode then
        let h := overflowCode ctx 0 p rnd neg
        let l := if h % 2 ^ 31 = 0x7F800000 then 0 else ofSigned 16 (if neg then -32767 else 32767)
        (h, l, { sat := true })
      else
        let E : Int := if c < 2 ^ 23 then -126 else (c / 2 ^ 23 : Nat) - 127
        let h := c + signBit 0 neg
        match xscale (xadd 0 x (xneg (decode 0 h))) (39 - E) with
        | .fin dn m k =>
          let v : Int := roundInt rnd dn w m k
          let v := if dn then -v else v
          (h, ofSigned 16 (if v > 32767 then 32767 else v), {})
        | _ => (h, 0, {})

/-- min and max (04 R109). -/
def minmax (isMax nanMode : Bool) (a b : XVal) : XVal :=
  if xIsNan a && xIsNan b then .nan
  else if xIsNan a then (if nanMode then b else .nan)
  else if xIsNan b then (if nanMode then a else .nan)
  else if isMax then (if xlt a b then b else a) else (if xlt b a then b else a)

/-- Bits of a shifted element: 3 for INT3 (R110). -/
def shiftBits (f : Nat) : Nat := if f = 10 then 3 else fmtBits f

/-- The integer stages 0x10 to 0x14 (R110): the exact result, then wrap or saturate. `fa` is the format that a was
read in, which is INT32 for the index operands whatever fi is (R102); the amount is judged against fi (R110). -/
def intOp (u : Uop) (fa : Nat) (a b : Int) : Nat × Ev :=
  let sat := bit u.aux 0 && u.op != 0x14
  let sh := (b % 32).toNat
  let wb := shiftBits u.fi
  let x : Int :=
    if u.op = 0x10 then a + b
    else if u.op = 0x11 then a - b
    else if u.op = 0x12 then a * b
    else if u.op = 0x13 then (if !sat && decide (sh ≥ wb) then 0 else a * 2 ^ sh)
    else if bit u.aux 1 then (if sh ≥ wb then 0 else (ofSigned (shiftBits fa) a : Int) / 2 ^ sh)
    else (if sh ≥ wb then (if a < 0 then -1 else 0) else a / 2 ^ sh)
  let (lo, hi) := intRange u.fo
  if sat && decide (x < lo) then (intCode u.fo lo, { sat := true })
  else if sat && decide (x > hi) then (intCode u.fo hi, { sat := true })
  else (intCode u.fo x, {})

/-- Predicate of a cmp (R112). -/
def cmpPred (op : Nat) (a b : XVal) : Bool :=
  if xIsNan a || xIsNan b then op = 0x21 || op = 0x26
  else match op, xcmp a b with
    | 0x20, .eq => true
    | 0x21, .lt | 0x21, .gt => true
    | 0x22, .lt => true
    | 0x23, .lt | 0x23, .eq => true
    | 0x24, .gt => true
    | 0x25, .gt | 0x25, .eq => true
    | _, _ => false

/-- Exact value of a code as an integer stage reads it. -/
def intOf (f code : Nat) : Int := intValue f code

/-- A code of a code operation as it is written in fo, with its NaN event (R111). DEDUCED (log 48): the operations that
keep or combine codes write what R111 gives, also the T2 code 10; R50's sentence that the block never writes it is
taken of values that the block forms, and pack, for which R111 says so, is the one code operation that avoids it. -/
def codeOut (fo code : Nat) : Nat × Ev :=
  let c := code % 2 ^ fmtBits fo
  (c, { nanProd := isFloat fo && isNanCode fo c })

/-- The result of an element stage on codes a, b, c read in formats fa, fb, fc with random word w. For qpack
and dequant b is the block's scale code and c its reading: 0 ordinary, 1 zero block, 2 NaN block,
3 + 4 × BF16 a star, and imm holds the row scale. For sel c is the selecting bit; for shuf a is already permuted. -/
def evalElem (ctx : NumCtx) (u : Uop) (fa fb fc w a b c : Nat) : Nat × Ev :=
  let A := readVal ctx fa a
  let B := readVal ctx fb b
  let C := readVal ctx fc c
  let put (x : XVal) : Nat × Ev := convert ctx u.fo u.rnd w x
  let half (x : XVal) : Nat × Ev :=
    let (h, l, e) := splitPair ctx u.rnd w x
    if u.fo = 0 then (h, e) else (l, {})
  match u.op with
  | 0x02 => put (xadd u.rnd A B)
  | 0x03 => put (xadd u.rnd A (xneg B))
  | 0x04 => put (xmul A B)
  | 0x05 => put (xadd u.rnd (xmul A B) C)
  | 0x06 => put (xadd u.rnd (xmul A B) (xneg C))
  | 0x07 => put (xneg A)
  | 0x08 => put (xabs A)
  | 0x09 => put (minmax false (bit u.aux 0) A B)
  | 0x0A => put (minmax true (bit u.aux 0) A B)
  | 0x15 => codeOut u.fo (a &&& b)
  | 0x16 => codeOut u.fo (a ||| b)
  | 0x17 => codeOut u.fo (a ^^^ b)
  | 0x27 => codeOut u.fo (if c = 1 then a else b)
  | 0x40 =>
    let x := if bit u.aux 0 then pairVal ctx a b else A
    if bit u.aux 1 then half x else put x
  | 0x42 =>
    if c = 0 then toPayload ctx u.fo u.rnd w (xscale A (127 - (b : Int))) else (0, {})
  | 0x43 =>
    if c = 1 then (0, {})
    else if c = 2 then put .nan
    else
      let p := if c = 0 then A else readVal ctx 1 (c / 4)
      put (xmul (xscale p ((b : Int) - 127)) (readVal ctx 0 u.imm))
  | 0x54 => put A
  | 0x61 =>
    let x := a % 2 ^ fmtBits u.fo
    codeOut u.fo (if u.fo = 11 && x = 2 then 0 else x)
  | 0x62 =>
    let x : Int := if bit u.aux 0 then toSigned (fmtBits fa) a else (a % 2 ^ fmtBits fa : Nat)
    (ofSigned (fmtBits u.fo) x, {})
  | 0x63 => half (xadd u.rnd (pairVal ctx a b) C)
  | op =>
    if isFn op then fnStage ctx op u.fo u.rnd w A
    else if 0x10 ≤ op && op ≤ 0x14 then intOp u fa (intOf fa a) (intOf fb b)
    else codeOut u.fo a

/-- Which operands of a stage carry values that can be NaN or a reserved T2 code (R87, R266, 02 R50). The scale
operand of qpack and dequant is a code (R114, 07 R186); an element that dequant reads in a NaN block represents NaN
(02 R58, log 25). -/
def valueOpnds (u : Uop) : List Nat :=
  if isCodeOp u.op then []
  else if u.op = 0x63 then [0, 2]
  else if u.op = 0x40 || u.op = 0x42 || u.op = 0x43 then [0]
  else (List.range 3).filter fun k =>
    (k = 1 && u.immB) || (u.src k != 0xFF && (match k, srcKinds u.op with
      | 0, (.val, _, _) => true
      | 1, (_, .val, _) => true
      | 2, (_, _, .val) => true
      | _, _ => false))

/-- Report the reads of one active element inside the shape: a consumed NaN once per element, and every
reserved T2 code. `ops` lists the formats and codes of its value operands. -/
def readReports (b : Blk) (i j : Nat) (ops : List (Nat × Nat)) (s : SAcc) : SAcc :=
  let s := s.add cT2RES ((ops.filter (fun p => p.1 = 11 && p.2 % 4 = 2)).length)
  if b.ctx.nanIn then
    match ops.find? (fun p => decide (decode p.1 p.2 = .nan)) with
    | some p => s.nan b i j false p.1
    | none => s
  else s

/-- Element (i, j) of a stage: excluded elements take `old`, active ones are computed and, inside the shape,
reported (R85, R104, R105). -/
def elemAt (b : Blk) (u : Uop) (fa fb fc i j : Nat) (active : Bool) (a bb c old : Nat) (s : SAcc) : Nat × SAcc :=
  if !active then (old, s) else
  if u.op = 0x42 && !b.inside i j then (0, s) else
  let (v, e) := evalElem b.ctx u fa fb fc (b.word u i j) a bb c
  if !b.inside i j then (v, s) else
  let ops := (valueOpnds u).filterMap fun k =>
    if u.op = 0x43 && k = 0 then
      if c = 1 then none else if c = 2 then some (12, 0xFF) else if c = 0 then some (fa, a) else some (1, c / 4)
    else if k = 0 then some (fa, a) else if k = 1 then some (fb, bb) else some (fc, c)
  let s := if u.op = 0x54 then s else readReports b i j ops s
  (v, s.ev b i j u.fo e)

/-- A row of element results, left to right. -/
def elemRow (b : Blk) (u : Uop) (fa fb fc i : Nat) :
    Nat → List Bool → List Nat → List Nat → List Nat → List Nat → SAcc → List Nat × SAcc
  | _, [], _, _, _, _, s => ([], s)
  | j, m :: ms, a, bb, c, old, s =>
    let (v, s) := elemAt b u fa fb fc i j m (a.headD 0) (bb.headD 0) (c.headD 0) (old.headD 0) s
    let (vs, s) := elemRow b u fa fb fc i (j + 1) ms a.tail bb.tail c.tail old.tail s
    (v :: vs, s)

/-- Column permutation of shuf for output column c (R117). At 2^g = W mode 2 has one group and leaves the
columns in place (log 14). -/
def shufCol (w : Nat) (u : Uop) (idx : List Nat) (c : Nat) : Nat :=
  let g := bits u.imm 0 4
  match bits u.aux 0 2 with
  | 0 => (c + bits u.imm 0 9) % w
  | 1 => c ^^^ (2 ^ g - 1)
  | 2 => if 2 ^ (g + 1) ≤ w then c ^^^ 2 ^ g else c
  | _ =>
    let x := toSigned 32 (nth idx c)
    if x < 0 then 0 else if x > (w - 1 : Nat) then w - 1 else x.toNat

/-- The sidecar readings of a row: one per micro-block, with the count of malformed ones inside the shape
(07 R178). -/
def blockReads (b : Blk) (i : Nat) (scales side : List Nat) (hasSide : Bool) : List (SideRead × Bool) :=
  (List.range (b.width / 32)).map fun q =>
    let word := if hasSide then nth side (2 * q) + nth side (2 * q + 1) <<< 32 else 0
    let len := Nat.min 32 (b.view.cLocal - (b.col0 + 32 * q))
    let (r, bad) := readSidecar word (nth scales q) len
    (r, bad && b.inside i (32 * q))

/-- The reading of element j as `evalElem` takes it. -/
def elemReading (rs : List (SideRead × Bool)) (j : Nat) : Nat :=
  match rs[j / 32]? with
  | some (.nan, _) => 2
  | some (.zero, _) => 1
  | some (.stars l, _) => (match starAt l (j % 32) with | some v => 3 + 4 * v | none => 0)
  | none => 0

/-- The field of S-register row i as an operand code: INT32 count or FP32 bits. -/
def sField (a : Arch) (n i k : Nat) : Nat :=
  let r := a.srow n i
  match k with
  | 0 => r.max.toNat | 1 => r.sum.toNat | 2 => r.count.toNat | 3 => r.mean.toNat | _ => r.m2.toNat

/-- One row of an element stage with its operands prepared (R107): codes for a, b, c, their formats, and what
reading the row reported. -/
structure RowOps where
  a : List Nat
  b : List Nat := []
  c : List Nat := []
  fa : Nat
  fb : Nat := 0
  fc : Nat := 0
  imm : Nat
  acc : SAcc

/-- Consumed events of bcast: once per S row read, or once per column of row 0 read (R117, R440). -/
def bcastReports (b : Blk) (u : Uop) (i : Nat) (ms : List Bool) (anyCol : List Bool) (vals : List Nat) (f : Nat)
    (s : SAcc) : SAcc :=
  if !b.ctx.nanIn then s
  else if bit u.aux 3 then
    if i != 0 then s else
    (List.range b.width).foldl (fun s j =>
      if b.inside 0 j && anyCol.getD j false && decide (decode f (nth vals j) = .nan) then s.nan b 0 j false f else s) s
  else if b.inside i 0 && ms.any id && decide (decode f (vals.headD 0) = .nan) then s.nan b i 0 false f
  else s

/-- Prepare row i of an element stage. -/
def prepRow (a : Arch) (b : Blk) (ls : List Latch) (u : Uop) (i : Nat) (ms anyCol : List Bool) (s : SAcc) : RowOps :=
  let w := b.width
  let row (k : Nat) := opndRow a b ls u k (u.src k) i
  let fa := readFmt u 0 u.sa
  if u.op = 0x54 then
    if bit u.aux 3 then
      let vals := opndRow a b ls u 0 u.sa 0
      { a := vals, fa := fa, imm := u.imm, acc := bcastReports b u i ms anyCol vals fa s }
    else
      let vals := List.replicate w (sField a (u.sa - 0x70) i (bits u.aux 0 3))
      { a := vals, fa := u.fi, imm := u.imm, acc := bcastReports b u i ms anyCol vals u.fi s }
  else if u.op = 0x60 then
    let av := row 0
    let idx := if bits u.aux 0 2 = 3 then row 1 else []
    { a := (List.range w).map fun c => nth av (shufCol w u idx c), fa := fa, imm := u.imm, acc := s }
  else if u.op = 0x42 || u.op = 0x43 then
    let sc := (row 1).map (· % 256)
    let hasSide := u.sc != 0xFF
    let rs := blockReads b i sc (if hasSide then row 2 else []) hasSide
    let s := s.add cSIDEMAL (rs.filter (·.2)).length
    let r := if u.op = 0x43 && bit u.aux 5 then sField a (bits u.aux 0 5) i 3 else 0x3F800000
    { a := row 0, b := (List.range w).map fun j => nth sc (j / 32), c := (List.range w).map (elemReading rs)
      fa := fa, fb := 12, fc := 15, imm := r, acc := s }
  else if u.op = 0x27 then
    let sel := if isM u.sc then maskCols a w (u.sc - 0x90) i else
      match ls[u.sc - 0x60]? with | some (.pred rows) => rows.getD i [] | _ => []
    { a := row 0, b := row 1, c := sel.map (fun x => if x then 1 else 0), fa := fa, fb := readFmt u 1 u.sb
      imm := u.imm, acc := s }
  else
    { a := row 0, b := if (srcKinds u.op).2.1 = .none then [] else row 1
      c := if (srcKinds u.op).2.2 = .none then [] else row 2
      fa := fa, fb := readFmt u 1 u.sb, fc := readFmt u 2 u.sc, imm := u.imm, acc := s }

/-- What excluded elements of row i take (R105): zero of fo, the destination's bits, or sa's bits read in fi. An sa of
fixed format (tsum, and the hi of a pair) is read in fi too: a tile by the layout of fi, a latch by its low bits. A bcast
has no element of sa at (i, j) when it goes down columns or along rows: DEDUCED, an excluded element takes what would
have been broadcast there, row 0's element or the row's field (log 49). -/
def oldRow (a : Arch) (b : Blk) (ls : List Latch) (u : Uop) (i : Nat) (prep : List Nat) : List Nat :=
  if u.mz then [] else
  if u.dst < 0x60 then tileCols a u.dst u.fo b.width i
  else if u.op = 0x54 then prep
  else if u.sa < 0x60 then tileCols a u.sa u.fi b.width i
  else (opndRow a b ls u 0 u.sa i).map (· % 2 ^ fmtBits u.fi)

/-- Rows 0 to 31 of a stage, in order. -/
def mapRows {α : Type} (f : Nat → SAcc → α × SAcc) : Nat → Nat → SAcc → List α × SAcc
  | 0, _, s => ([], s)
  | n + 1, i, s =>
    let (x, s) := f i s
    let (xs, s) := mapRows f n (i + 1) s
    (x :: xs, s)

/-- The masks of all 32 rows. -/
def stageMasks (a : Arch) (b : Blk) (u : Uop) : List (List Bool) := (List.range 32).map (maskCols a b.width u.mask)

/-- Columns in which some row is active. -/
def anyActive (w : Nat) (ms : List (List Bool)) : List Bool :=
  (List.range w).map fun j => ms.any (fun r => r.getD j false)

/-- An element stage over the block. -/
def elemStage (a : Arch) (b : Blk) (ls : List Latch) (u : Uop) (s : SAcc) : List (List Nat) × SAcc :=
  let ms := stageMasks a b u
  let anyCol := if u.op = 0x54 then anyActive b.width ms else []
  mapRows (fun i s =>
    let m := ms.getD i []
    let p := prepRow a b ls u i m anyCol s
    elemRow b { u with imm := p.imm } p.fa p.fb p.fc i 0 m p.a p.b p.c (oldRow a b ls u i p.a) p.acc) 32 0 s

/-- A cmp stage: predicates, false where excluded (R112). -/
def cmpStage (a : Arch) (b : Blk) (ls : List Latch) (u : Uop) (s : SAcc) : List (List Bool) × SAcc :=
  let ms := stageMasks a b u
  mapRows (fun i s =>
    let m := ms.getD i []
    let av := opndRow a b ls u 0 u.sa i
    let bv := opndRow a b ls u 1 u.sb i
    let fa := readFmt u 0 u.sa
    let fb := readFmt u 1 u.sb
    (List.range b.width).foldr (fun j (acc : List Bool × SAcc) =>
      if !m.getD j false then (false :: acc.1, acc.2) else
      let x := nth av j
      let y := nth bv j
      let s := if b.inside i j then readReports b i j [(fa, x), (fb, y)] acc.2 else acc.2
      (cmpPred u.op (readVal b.ctx fa x) (readVal b.ctx fb y) :: acc.1, s)) ([], s)) 32 0 s

/-- Present elements of row i with their exact values; their reads are reported. -/
def presentRow (a : Arch) (b : Blk) (ls : List Latch) (u : Uop) (m : List Bool) (i : Nat) (s : SAcc) :
    List (Option XVal) × SAcc :=
  let av := opndRow a b ls u 0 u.sa i
  let fa := readFmt u 0 u.sa
  (List.range b.width).foldr (fun j (acc : List (Option XVal) × SAcc) =>
    if m.getD j false && b.inside i j then
      (some (readVal b.ctx fa (nth av j)) :: acc.1, readReports b i j [(fa, nth av j)] acc.2)
    else (none :: acc.1, acc.2)) ([], s)

/-- One micro-block of qblk (R114, R186, R188): the codes it writes, and its reports. -/
def qblkBlock (b : Blk) (u : Uop) (i q : Nat) (xs : List (Option XVal)) (s : SAcc) : List Nat × SAcc :=
  let l := ((List.range 32).zip ((xs.drop (32 * q)).take 32)).filterMap (fun p => p.2.map (fun x => (p.1, x)))
  let k := analyse l (bits u.aux 2 2) (bits u.imm 0 4) (toSigned 8 (bits u.imm 8 8))
  if bits u.aux 0 2 = 0 then
    let s := match k with
      | .nan j => (s.add cNANBLK 1).nan b i (32 * q + j) true 12
      | .zero => s.add cZEROBLK 1
      | .normal _ _ _ hi lo => (s.add 12 (if hi then 1 else 0)).add cCLAMPLO (if lo then 1 else 0)
      | .empty => s
    ([blockCode k], s)
  else
    let (word, s) := match k with
      | .nan _ => (nanSidecar, s)
      | .normal _ t stars _ _ =>
        let (ps, s) := stars.foldl (fun (acc : List (Nat × Nat) × SAcc) j =>
          let x := match (l.find? (fun p => p.1 = j)) with | some p => p.2 | none => .nan
          let (v, e) := convert b.ctx 1 u.rnd (b.word u i (32 * q + j)) (xscale x (-t))
          (acc.1 ++ [(j, v)], (acc.2.ev b i (32 * q + j) 1 e).add cSTARLIFT 1)) ([], s)
        (sidecarWord ps, s)
      | _ => (zeroSidecar, s)
    ([word % 2 ^ 32, word >>> 32], s)

/-- qblk over the block: the plane columns of each row. -/
def qblkStage (a : Arch) (b : Blk) (ls : List Latch) (u : Uop) (s : SAcc) : List (List Nat) × SAcc :=
  let ms := stageMasks a b u
  mapRows (fun i s =>
    let (xs, s) := presentRow a b ls u (ms.getD i []) i s
    let (cs, s) := (List.range (b.width / 32)).foldl (fun (acc : List Nat × SAcc) q =>
      let (c, s) := qblkBlock b u i q xs acc.2
      (acc.1 ++ c, s)) ([], s)
    (cs ++ List.replicate (b.width - cs.length) 0, s)) 32 0 s

/-- Chunk length and tree levels: 32 and 5, or 16 and 4 under G2 emulation (14 R344). -/
def chunkLen (g2 : Bool) : Nat := if g2 then 16 else 32
/-- Tree levels (06 R149). -/
def chunkLevels (g2 : Bool) : Nat := if g2 then 4 else 5

/-- Record the reports of a reduction at row i. DESIGN CHOICE (log 51): a saturated count is reported once per row in each
block that saturates it again; R157 says once per row so affected. -/
def redReports (b : Blk) (i : Nat) (r : RAcc) (s : SAcc) : SAcc :=
  if !b.inside i 0 then s else
  let s := s.add cFTZ r.flushes
  let s := s.add 15 (if r.sat then 1 else 0)
  r.nans.foldl (fun s c => s.nan b i c true 0) s

/-- One column of cred over rows lo to lo + n − 1: the FP32 result and the lowest present row (R154). -/
def credCol (b : Blk) (kind lv : Nat) (leaves : List (Option (XVal × Nat))) : Option XVal × RAcc :=
  let acc : RAcc := {}
  match kind with
  | 1 => tree (pure2 larger) lv leaves acc
  | 2 => tree (pure2 smaller) lv leaves acc
  | k =>
    let (ls, acc) := if k = 3 then mapLeaves (fun x c acc => redMul b.ctx.ftz x x c acc) leaves acc else (leaves, acc)
    tree (redAdd b.ctx.ftz) lv ls acc

/-- The result row of cred for the band of rows lo to lo + n − 1 (R115, R154, R440). Each NaN formed at a node is an event,
at the column's lowest present row; the NaN written from it is not a second one (log 15). -/
def credBand (b : Blk) (u : Uop) (lo n : Nat) (xs : List (List (Option XVal))) (s : SAcc) : List Nat × SAcc :=
  (List.range b.width).foldr (fun j (acc : List Nat × SAcc) =>
    let leaves := (List.range n).map fun k =>
      ((xs.getD (lo + k) []).getD j none).map (fun x => (x, lo + k))
    let (r, ra) := credCol b (bits u.aux 0 2) (chunkLevels b.g2) leaves
    let x : XVal := r.getD (match bits u.aux 0 2 with | 1 => .inf true | 2 => .inf false | _ => .fin false 0 1)
    let (v, e) := convert b.ctx u.fo u.rnd (b.word u lo j) x
    let row := (leaves.findSome? (fun l => l.map (·.2))).getD lo
    if !b.inside lo j then (v :: acc.1, acc.2) else
    let s := ra.nans.foldl (fun s _ => s.nan b row j true 0) (acc.2.add cFTZ ra.flushes)
    (v :: acc.1, s.ev b row j u.fo { e with nanProd := e.nanProd && ra.nans.isEmpty })) ([], s)

/-- cred over the block: results in row 0 (and row 16 under G2 emulation), +0 elsewhere (R115, log 15). -/
def credStage (a : Arch) (b : Blk) (ls : List Latch) (u : Uop) (s : SAcc) : List (List Nat) × SAcc :=
  let ms := stageMasks a b u
  let (xs, s) := mapRows (fun i s => presentRow a b ls u (ms.getD i []) i s) 32 0 s
  let (r0, s) := credBand b u 0 (chunkLen b.g2) xs s
  let (r1, s) := if b.g2 then credBand b u 16 16 xs s else ([], s)
  ((List.range 32).map fun i => if i = 0 then r0 else if b.g2 && i = 16 then r1 else List.replicate b.width 0, s)

/-- The fields of a row. -/
def sVals (r : SRow) : SVals := ⟨r.max.toNat, r.sum.toNat, r.count.toNat, r.mean.toNat, r.m2.toNat⟩

/-- Fields as a row with a poison mark. -/
def sRowOf (v : SVals) (poison : Bool) : SRow :=
  ⟨BitVec.ofNat 32 v.max, BitVec.ofNat 32 v.sum, BitVec.ofNat 32 v.count, BitVec.ofNat 32 v.mean,
   BitVec.ofNat 32 v.m2, poison⟩

/-- The chunks of row i, leaves at block columns, in increasing index (R148). -/
def rowChunks (b : Blk) (xs : List (Option XVal)) : List Chunk :=
  let n := chunkLen b.g2
  (List.range (b.width / n)).map fun k =>
    ⟨(b.gCol (n * k)) / n,
     (List.range n).map fun l => (xs.getD (n * k + l) none).map (fun x => (x, n * k + l))⟩

/-- The statistic kind of a stage (06 R162). -/
def stageKind (u : Uop) : Nat := if u.op = 0x50 then rredStat (bits u.aux 0 3) else 4 + bits u.aux 0 3

/-- One row of rred or rstat (R115, R116): the new row and the chunk records. A NaN that mode 2 writes into a field is a
produced event at column 0 (03 R87). -/
def statRow (a : Arch) (b : Blk) (ls : List Latch) (u : Uop) (m : List Bool) (i : Nat) (s : SAcc) :
    (SRow × List (Nat × ChunkRec)) × SAcc :=
  let old := a.srow (u.dst - 0x70) i
  let v := sVals old
  if u.op = 0x52 && bits u.aux 0 3 = 3 then ((sRowOf ⟨0xFF800000, 0, 0, 0, 0⟩ false, []), s)
  else if u.op = 0x52 && bits u.aux 0 3 = 2 then
    let av := opndRow a b ls u 0 u.sa i
    let fa := readFmt u 0 u.sa
    if !(m.getD 0 false && b.inside i 0) then ((old, []), s) else
    let s := readReports b i 0 [(fa, av.headD 0)] s
    let x := readVal b.ctx fa (av.headD 0)
    let k := bits u.aux 3 3
    if k = 2 then
      let (c, e) := convert b.ctx 15 0 0 x
      ((sRowOf (v.set 2 c) old.poison, []), s.ev b i 0 15 e)
    else ((sRowOf (v.set k (f32Code x)) old.poison, []), if xIsNan x then s.nan b i 0 true 0 else s)
  else
    let kind := stageKind u
    let v := if b.bandStart && bit u.imm 0 then clearKind kind v else v
    let (xs, s) := presentRow a b ls u m i s
    let lv := chunkLevels b.g2
    let idx (c : Nat) : Int := (Nat.min (b.gCol c) 0x7FFFFFFF : Nat)
    let chunk := if u.op = 0x50 then rredChunk b.ctx (bits u.aux 0 3) lv (u.fi = 15) idx
      else rstatChunk b.ctx (bits u.aux 0 3) lv
    let (v, rs, acc) := foldRow b.ctx kind (b.away && !bit u.imm 0) chunk (rowChunks b xs) v {}
    ((sRowOf v false, rs), redReports b i acc s)

/-- One row of wmerge (R158): one consumed and one produced event per row at most (R440, log 15). -/
def mergeRow (a : Arch) (b : Blk) (u : Uop) (i : Nat) (s : SAcc) : (SRow × List (Nat × ChunkRec)) × SAcc :=
  let x := sVals (a.srow (u.sa - 0x70) i)
  let y := sVals (a.srow (u.sb - 0x70) i)
  let w := bit u.aux 0
  let (r, acc) := wmergeRow b.ctx w x y {}
  let s := if b.inside i 0 then
      let s := if b.ctx.nanIn && (sHasNan x [0, 1, 3, 4] || sHasNan y (if w then [3, 4] else [0, 1])) then
        s.nan b i 0 false 0 else s
      let s := (s.add cFTZ acc.flushes).add 15 (if acc.sat then 1 else 0)
      if sHasNan r [0, 1, 3, 4] then s.nan b i 0 true 0 else s
    else s
  ((sRowOf r false, []), s)

/-! ### Poison and reads of rows -/

/-- A poisoned granule that a stage consumes (15 R359): storage, register, row. -/
structure PoisonAt where
  storage : Nat
  register : Nat
  row : Nat
  deriving DecidableEq, Repr

/-- The first poisoned row among tile registers reg to reg + n − 1, rows 0 to `rows` − 1. -/
def tilePoison (a : Arch) (reg n rows : Nat) : Option PoisonAt :=
  (List.range n).findSome? fun r => (List.range rows).findSome? fun i =>
    if (a.row (reg + r) i).tag.poison then some ⟨0, reg + r, i⟩ else none

/-- The first poisoned row of a mask. -/
def maskPoison (a : Arch) (m : Nat) : Option PoisonAt :=
  (List.range 32).findSome? fun i => if (a.maskRow m i).poison then some ⟨2, m, i⟩ else none

/-- The first poisoned row of an S register. -/
def sregPoison (a : Arch) (n : Nat) : Option PoisonAt :=
  (List.range 32).findSome? fun i => if (a.srow n i).poison then some ⟨3, n, i⟩ else none

/-- A stage reads its tile destination at pass entry to keep the bits of excluded elements (R105, 15 R359). -/
def Uop.keepsOld (u : Uop) : Bool := decide (u.dst < 0x60) && !u.mz && u.op != 0 && u.op != 0x41 && u.op != 0x51

/-- What a stage consumes of poison at pass entry (15 R359). -/
def stagePoison (a : Arch) (w : Nat) (u : Uop) : Option PoisonAt :=
  if u.op = 0 then none else
  (maskPoison a u.mask).orElse fun _ =>
  ((List.range 3).findSome? fun k =>
    let c := u.src k
    if k = 1 && u.immB then none
    else if c < 0x60 then tilePoison a c (u.srcSpan w k) (if u.op = 0x54 then 1 else 32)
    else if isS c then sregPoison a (c - 0x70)
    else if isM c then maskPoison a (c - 0x90)
    else none).orElse fun _ =>
  (if u.op = 0x43 && bit u.aux 5 then sregPoison a (bits u.aux 0 5) else none).orElse fun _ =>
  (if isS u.dst && (u.op = 0x50 || (u.op = 0x52 && bits u.aux 0 3 ≤ 1)) then sregPoison a (u.dst - 0x70)
   else none).orElse fun _ =>
  if u.keepsOld then tilePoison a u.dst (u.dstSpan w) 32
  else if isM u.dst && !u.mz then maskPoison a (u.dst - 0x90)
  else none

/-- The rows of a tile operand of `span` registers from `reg` that hold elements of the shape: register and row. A plane
operand holds some in every row of the shape. -/
def readRows (b : Blk) (reg span fmt rows : Nat) (plane : Bool) : List (Nat × Nat) :=
  (List.range span).flatMap fun r => ((List.range rows).filter fun i =>
    b.inside i (if plane then 0 else r * tileWidth fmt)).map fun i => (reg + r, i)

/-- Reads of rows never written, and of source rows whose tag names another format (01 R19, R20, 03 R438). The two counts
are judged apart: a row never written has the format of its tag too. -/
def rowReads (a : Arch) (b : Blk) (u : Uop) (p : Pend) : Pend :=
  let invalid (p : Pend) (x : Nat × Nat) : Pend := if (a.row x.1 x.2).tag.valid then p else p.add cINVROW 1
  let p := (List.range 3).foldl (fun p k =>
    let c := u.src k
    if (k = 1 && u.immB) || u.op = 0 || !decide (c < 0x60) then p else
    let f := u.srcFmt k
    (readRows b c (u.srcSpan b.width k) f (if u.op = 0x54 then 1 else 32)
      ((u.op = 0x42 || u.op = 0x43) && decide (k > 0))).foldl (fun p x =>
        let p := invalid p x
        if (a.row x.1 x.2).tag.format.toNat != f then p.add cFMTMIS 1 else p) p) p
  if u.keepsOld then (readRows b u.dst (u.dstSpan b.width) u.fo 32 false).foldl invalid p else p

/-! ### Pass-end writes -/

/-- A write made at pass end (R95). -/
inductive PassWrite where
  | tile (reg span fmt : Nat) (rows : List (List Nat))
  | mask (m : Nat) (rows : List (BitVec 256))
  | sreg (n : Nat) (rows : List SRow)
  deriving DecidableEq, Repr

/-- Write the 32 rows of a tile operand: columns beyond the block are zero (R98, 01 R17). -/
def writeTile (a : Arch) (producer reg span fmt : Nat) (rows : List (List Nat)) : Arch :=
  let w := tileWidth fmt
  (List.range span).foldl (fun a r => (List.range 32).foldl (fun a i =>
    let cs := ((rows.getD i []).drop (r * w)).take w
    a.setRow (reg + r) i (freshRow producer fmt false (BitVec.ofNat 1024 (pack (fmtBits fmt) cs)))) a) a

/-- Apply one write. -/
def PassWrite.apply (producer : Nat) (a : Arch) : PassWrite → Arch
  | .tile reg span fmt rows => writeTile a producer reg span fmt rows
  | .mask m rows => (List.range 32).foldl (fun a i => a.setMask m i ⟨rows.getD i 0, false⟩) a
  | .sreg n rows => (List.range 32).foldl (fun a i => a.setSrow n i (rows.getD i {})) a

/-- Bits of a row of booleans, the first lowest. -/
def packBools : List Bool → Nat
  | [] => 0
  | x :: xs => (if x then 1 else 0) + 2 * packBools xs

/-- The row of a mask destination: excluded elements take 0, or the old bit under mz = 0 (R105). -/
def maskOut (a : Arch) (u : Uop) (i : Nat) (m p : List Bool) : BitVec 256 :=
  let old := (a.maskRow (u.dst - 0x90) i).bits.toNat
  BitVec.ofNat 256 (packBools ((List.range p.length).map fun j =>
    if m.getD j false then p.getD j false else !u.mz && bit old j))

/-- What running the stages of a pass yields so far. -/
structure PassAcc where
  latches : List Latch := []
  writes : List PassWrite := []
  pend : Pend
  /-- Chunk records of the captured stages: micro-op, row, records. -/
  chunks : List (Nat × Nat × List (Nat × ChunkRec)) := []
  deriving DecidableEq, Repr

/-- Run one stage on the entry state `a`. `cap`: the stages whose chunk records are kept (06 R163, R168). -/
def runStage (a : Arch) (b : Blk) (cap : List Nat) (p : PassAcc) (u : Uop) : PassAcc :=
  let ls := p.latches
  if u.op = 0 then { p with latches := ls ++ [.free] } else
  let pend := rowReads a b u p.pend
  if isCmp u.op then
    let (rows, s) := cmpStage a b ls u {}
    let ms := stageMasks a b u
    let ws := if isM u.dst then
      [PassWrite.mask (u.dst - 0x90) ((List.range 32).map fun i => maskOut a u i (ms.getD i []) (rows.getD i []))] else []
    { p with latches := ls ++ [.pred rows], writes := p.writes ++ ws, pend := mergeStage b u pend s }
  else if isStat u.op then
    let ms := stageMasks a b u
    let (rows, s) := mapRows (fun i s =>
      if u.op = 0x53 then mergeRow a b u i s else statRow a b ls u (ms.getD i []) i s) 32 0 {}
    let n := u.dst - 0x70
    let ch := if cap.contains u.index then
      (((List.range 32).zip (rows.map (·.2))).filter (fun r => b.inside r.1 0)).map (fun r => (u.index, r.1, r.2)) else []
    { latches := ls ++ [.free], writes := p.writes ++ [.sreg n (rows.map (·.1))], pend := mergeStage b u pend s
      chunks := p.chunks ++ ch }
  else
    let (rows, s) := if u.op = 0x41 then qblkStage a b ls u {} else if u.op = 0x51 then credStage a b ls u {}
      else elemStage a b ls u {}
    let ws := if u.dst < 0x60 then [PassWrite.tile u.dst (u.dstSpan b.width) u.fo rows] else []
    { p with latches := ls ++ [.codes rows], writes := p.writes ++ ws, pend := mergeStage b u pend s }

/-- What a pass leads to: its end state and pending commit, or the poison a stage consumed. -/
inductive PassOut where
  | done (a : Arch) (p : Pend) (chunks : List (Nat × Nat × List (Nat × ChunkRec)))
  | poison (u : Uop) (at_ : PoisonAt)
  deriving DecidableEq, Repr

/-- Run a pass: reads at entry, stages in order, writes at the end (R93-R97, 15 R359). -/
def runPass (a : Arch) (b : Blk) (cap : List Nat) (us : List Uop) (pend : Pend) : PassOut :=
  match us.findSome? (fun u => (stagePoison a b.width u).map (fun x => (u, x))) with
  | some (u, x) => .poison u x
  | none =>
    let acc := us.foldl (runStage a b cap) { pend := pend }
    .done (acc.writes.foldl (PassWrite.apply b.producer) a) acc.pend acc.chunks

end Sys2Proof.Machine
end

