-- ==== Sys2Proof/Machine/Operands.lean ====
section
/-! DEFINITION. What a running command's work depends on, and the movement of tile rows between memory and the tile
registers: loads, OOB masks, stores, canonical row checks (04 R98, R126; 10 R241-R257; 17 R399). -/

namespace Sys2Proof.Machine

open Sys2Proof

/-! ### Contexts -/

/-- The numerics switches of a command (12 R303). -/
def NumRegs.ctx (n : NumRegs) : NumCtx := ⟨n.ovfInf, n.ftz, n.nanIn⟩

/-- The keys of R73 for a tensor. -/
def Running.keys (r : Running) (tensor : Nat) : StarKeys :=
  ⟨r.cfg.seedLo.toNat + r.cfg.seedHi.toNat <<< 32, tensor, pStep r.ws⟩

/-- A descriptor's view as numerics see it (10 R240). -/
def Desc.view (d : Desc) (tr : Bool) : ViewIx := ⟨d.rLocal tr, d.cLocal tr, d.gRow0, d.gCol0, d.rowLength tr⟩

/-- Bands of a view. -/
def Desc.bands (d : Desc) (tr : Bool) : Nat := cdiv (d.rLocal tr) 32

/-- Column tiles of a view. -/
def Desc.ctiles (d : Desc) (tr : Bool) : Nat := cdiv (d.cLocal tr) (tileWidth d.format)

/-- Rows of band `b` that lie inside the shape. -/
def rowsIn (rLocal row0 : Nat) : Nat := Nat.min 32 (rLocal - row0)

/-- A micro-op that rounds under its rnd field (03 R71, 04 R108, R110-R115): neither a code, integer or statistic stage,
nor an analysis (under G2 emulation qblk lifts no star, 14 R347), nor the hi half of a pair (11 R263), nor a function
that writes FP32, nor a conversion into E8M0 or between integers. -/
def Uop.rounds (u : Uop) : Bool :=
  if u.op ≤ 0x01 || (0x10 ≤ u.op && u.op ≤ 0x27) || u.op = 0x41 || isStat u.op || (0x60 ≤ u.op && u.op ≤ 0x62) then false
  else if u.op = 0x63 || (u.op = 0x40 && bit u.aux 1) then u.fo = 2
  else if isFn u.op then u.fo != 0
  else u.fo != 12 && !(isIntT u.fi && isIntT u.fo)

/-- The elements that a code-6 stage draws for. `written`: the mask registers that the command writes. -/
def Uop.g2Draws (a : Arch) (written : List Nat) (u : Uop) : G2Draws :=
  if u.op = 0x51 then .heads
  else if u.mask = 0 then .all
  else if written.contains u.mask then .computed
  else .masked ((List.range 32).map fun i => (a.maskRow u.mask i).bits.toNat)

/-- The mask registers that a run writes: destinations of its cmp stages, and the OOB masks of its loads (04 R112, 10 R247). -/
def Prog.masksWritten (P : Prog) (oob : List Nat) : List Nat :=
  (P.uops.filter fun u => isM u.dst).map (fun u => u.dst - 0x90) ++ oob

/-- The Dygen 2 sites of a program (14 R345): its stages that round under code 6. -/
def Prog.g2env (P : Prog) (a : Arch) (oob : List Nat) : G2Env :=
  { sites := (P.uops.filter fun u => u.rnd = 6 && u.rounds).map fun u => ⟨u.index, u.g2Draws a (P.masksWritten oob)⟩
    width := P.width }

/-- The producer field of seals and export headers: the package and the instance whose queue holds the command (14 R340). -/
def Running.producerWord (r : Running) : Nat := r.cfg.package.toNat <<< 14 + r.home.toNat <<< 2

/-- Tag of the rows a command writes (01 R17). -/
def Running.producer (r : Running) : Nat := pTag r.ws % 2 ^ 16

/-- Ask for lines for the running command: through the memory port, or in the mirrored command of twin B from the
forwarded beats (13 R310). -/
def State.askRun (s : State) (r : Running) (want : List (Nat × Nat)) : Asked :=
  if r.mirror then s.askMirror (dedup (want.map (·.1))) else s.ask ownCmd 0 0 want

/-- Twin A announces the number of a group of writes to twin B, which mirrors the command (log 10). -/
def announce (s : State) (bs : List WriteBeat) : State :=
  s.sendBeat 0 (sideband 4 (8 + bs.length <<< 8) (rowCheck 0) false 0)

/-- The mirrored command of twin B sends the checks of announced beats and writes nothing (13 R310, R311, 17 R408). -/
def State.pumpMirror (s : State) : State :=
  let n := Nat.min s.pair.goes s.port.outbox.length
  let t := (s.port.outbox.take n).foldl (fun s b => s.drive (.pairCheck (beatCheck b.data b.ben))) s
  { t with port := { t.port with outbox := t.port.outbox.drop n }, pair := { t.pair with goes := t.pair.goes - n } }

/-- Issue the waiting writes of the running command. -/
def State.pumpRun (s : State) (r : Running) : State :=
  if r.mirror then s.pumpMirror else if s.leads then s.pumpLed announce else s.pump

/-! ### Loads (10 R246, R247, R256, R257) -/

/-- The lines of columns c0 to c0 + n − 1 of the band of rows that starts at `row0`. -/
def bandLines (d : Desc) (tr : Bool) (row0 c0 n : Nat) : List Nat :=
  (List.range (rowsIn (d.rLocal tr) row0)).flatMap fun i => rowLines d tr none (row0 + i) c0 n

/-- Lines wanted, with the descriptor position a fault is reported at. -/
def wantAt (pos : Nat) (ls : List Nat) : List (Nat × Nat) := ls.map fun l => (l, pos)

/-- A tile row assembled from memory: columns c0 to c0 + n − 1 of view row ρ, with the row's OOB bits. -/
def loadRow (buf : Sparse RdLine) (d : Desc) (tr : Bool) (g : Option Int) (producer rho c0 n : Nat) :
    TileRow × List Bool :=
  let (cs, oob, poison) := readRow buf d tr g rho c0 n
  (freshRow producer d.format poison (BitVec.ofNat 1024 (pack (fmtBits d.format) cs)), oob)

/-- Load a block of `n` columns into the span of registers that starts at `base`: the new state, and the OOB bits of
each row (R98, R126). -/
def loadBlock (a : Arch) (buf : Sparse RdLine) (d : Desc) (tr : Bool) (producer base row0 c0 n : Nat) :
    Arch × List (List Bool) :=
  let w := tileWidth d.format
  (List.range 32).foldl (fun (acc : Arch × List (List Bool)) i =>
    let rows := (List.range (cdiv n w)).map fun k =>
      loadRow buf d tr none producer (row0 + i) (c0 + k * w) (Nat.min w (n - k * w))
    let a := (List.range rows.length).foldl (fun a k => a.setRow (base + k) i (rows.getD k ({}, [])).1) acc.1
    (a, acc.2 ++ [rows.flatMap (·.2)])) (a, [])

/-- The mask row of OOB bits of a block of `w` columns (R247, 01 R15). -/
def oobMask (w : Nat) (bs : List Bool) : Nat :=
  if w ≤ 256 then packBools bs
  else packBools ((List.range 256).map fun j => bs.getD (2 * j) false && bs.getD (2 * j + 1) false)

/-- The AND of the OOB bits of two slots. -/
def andRows (x y : List (List Bool)) : List (List Bool) :=
  (List.range 32).map fun i => ((x.getD i []).zip (y.getD i [])).map fun p => p.1 && p.2

/-- Write the OOB masks of a block: slots that name one register are joined (R247). -/
def writeOob (a : Arch) (w : Nat) (slots : List (Nat × List (List Bool))) : Arch :=
  (dedup (slots.map (·.1))).foldl (fun a n =>
    let rows := (slots.filter (·.1 = n)).map (·.2)
    match rows with
    | [] => a
    | x :: xs =>
      let m := xs.foldl andRows x
      (List.range 32).foldl (fun a i => a.setMask n i ⟨BitVec.ofNat 256 (oobMask w (m.getD i [])), false⟩) a) a

/-! ### Row checks (10 R255, R256) -/

/-- The check of a tile row of format `f` with codes `cs` and zero elsewhere. -/
def codesCheck (f : Nat) (cs : List Nat) : Nat := crc32c 128 (pack (fmtBits f) cs)

/-- A CRC register after four more bytes. -/
def crcAdd (c check : Nat) : Nat := crcRun 4 c check

/-- The register of a longer string from those of its parts: the first register, shifted over the second part's bytes,
and the second part's register from zero. -/
def crcJoin (c bytes x : Nat) : Nat := crcRun bytes c 0 ^^^ x

/-- A tile row's tag check disagrees with its bytes; a poisoned row is never compared (15 R350, R351). -/
def TileRow.mismatch (t : TileRow) : Bool := t.tag.valid && !t.tag.poison && rowCheck t.data != t.tag.check

/-- The check that a tile row carries; a row never written is read as zero (01 R19). -/
def TileRow.check (t : TileRow) : Word := if t.tag.valid then t.tag.check else zeroRowCheck

/-! ### Stores (10 R248, R254, R256, R257; 17 R399) -/

/-- The meta sideband of a tile row (17 R399). -/
def rowMeta (t : TileRow) : BitVec 20 := BitVec.ofNat 20 (t.tag.producer.toNat <<< 4 + t.tag.format.toNat)

/-- The first `n` codes of a tile row in format `f`. -/
def TileRow.codes (t : TileRow) (f n : Nat) : List Nat := unpack (fmtBits f) n t.bytes

/-- The beats of one tile row's store, and the elements dropped: columns c0 to c0 + n − 1 of row ρ of `d`. A beat that
carries the whole row, every position inside the shape, carries the tag's check (R256). -/
def storeBeats (d : Desc) (pos rho c0 n : Nat) (t : TileRow) : List WriteBeat × Nat :=
  let w := tileWidth d.format
  let (ls, drops) := storeRow d rho c0 (t.codes d.format n)
  let whole := decide (n = w) && decide (c0 + w ≤ d.cLocal false)
  (ls.map fun p =>
    let data : Line := BitVec.ofNat 1024 p.2.data
    let ben := BitVec.ofNat 128 p.2.ben
    let check := if whole && ben = BitVec.allOnes 128 && data = BitVec.ofNat 1024 t.bytes then t.check
      else beatCheck data ben
    ⟨p.1, data, ben, check, rowMeta t, t.tag.poison, 0, pos, ownCmd⟩, drops)

/-- What storing part of a block yields: the beats in order, elements dropped, rows read that were never written, and
the first row whose check fails (register, row): nothing of it or after it is written (R256). -/
structure Stored where
  beats : List WriteBeat := []
  drops : Nat := 0
  invalid : Nat := 0
  fail : Option (Nat × Nat) := none
  deriving DecidableEq, Repr

/-- Store one tile row behind what is stored already. -/
def Stored.row (x : Stored) (d : Desc) (pos reg i rho c0 n : Nat) (t : TileRow) : Stored :=
  if x.fail.isSome then x
  else if t.mismatch then { x with fail := some (reg, i) }
  else
    let (bs, k) := storeBeats d pos rho c0 n t
    { x with beats := x.beats ++ bs, drops := x.drops + k, invalid := x.invalid + (if t.tag.valid then 0 else 1) }

/-- Store a block of `n` columns of the band at `row0` from the span that starts at `base`: tiles in increasing column,
rows of a tile in increasing row (R242). -/
def Stored.block (x : Stored) (a : Arch) (d : Desc) (pos base row0 c0 n : Nat) : Stored :=
  let w := tileWidth d.format
  (List.range (cdiv (Nat.min n (d.cLocal false - c0)) w)).foldl (fun x k =>
    (List.range (rowsIn (d.rLocal false) row0)).foldl (fun x i =>
      x.row d pos (base + k) i (row0 + i) (c0 + k * w) (Nat.min w (n - k * w)) (a.row (base + k) i)) x) x

/-- The counts of a store: dropped elements and reads of rows never written (R248, 01 R19, 03 R438). -/
def Pend.stored (p : Pend) (x : Stored) : Pend := (p.add cOOBDROP x.drops).add cINVROW x.invalid

/-! ### Tensor CRCs (10 R255) -/

/-- Key of the CRC register that band `b` of the tensor or export at position `p` leaves from zero. -/
def bandKey (b p : Nat) : Nat := 10000 + 128 * b + p
/-- Key of the CRC register of row `i` of a tile that several blocks share. -/
def partKey (p i : Nat) : Nat := 200 + 32 * p + i

/-- Fold the canonical checks of a tile of `d`, or of the part of it that a block holds, into its band's register: `n`
columns from `c0`, the codes of row i inside the shape given by `codes`. A tile wider than the block is folded when its
last block completes it. -/
def sealPart (acc : Sparse Nat) (d : Desc) (pos band c0 n : Nat) (codes : Nat → List Nat) : Sparse Nat :=
  let w := tileWidth d.format
  let b := fmtBits d.format
  let last := decide ((c0 + n) % w = 0) || decide (c0 + n ≥ d.cLocal false)
  (List.range (rowsIn (d.rLocal false) (32 * band))).foldl (fun acc i =>
    let start := if c0 % w = 0 then 0xFFFFFFFF else sget 0 acc (partKey pos i)
    let c := crcRun (n * b / 8) start (pack b (codes i))
    if last then
      let used := (c0 % w + n) * b / 8
      let check := crcRun (128 - used) c 0 ^^^ 0xFFFFFFFF
      sset 0 (serase acc (partKey pos i)) (bandKey band pos) (crcAdd (sget 0 acc (bandKey band pos)) check)
    else sset 0 acc (partKey pos i) c) acc

/-- Fold a block of `n` columns, held in the span that starts at `base`, into the tensor CRC of `d`. -/
def sealBlock (acc : Sparse Nat) (a : Arch) (d : Desc) (pos band base c0 n : Nat) : Sparse Nat :=
  let w := tileWidth d.format
  let inside := Nat.min n (d.cLocal false - c0)
  (List.range (cdiv inside w)).foldl (fun acc k =>
    sealPart acc d pos band (c0 + k * w) (Nat.min w (n - k * w)) fun i =>
      (a.row (base + k) i).codes d.format (Nat.min w (inside - k * w))) acc

/-- Canonical checks that a band of `d` holds. -/
def bandChecks (d : Desc) (tr : Bool) (band : Nat) : Nat := rowsIn (d.rLocal tr) (32 * band) * d.ctiles tr

/-- The CRC over the parts that bands 0 to `n` − 1 left from zero, `len b` bytes each. -/
def joinBands (acc : Sparse Nat) (pos n : Nat) (len : Nat → Nat) : Nat :=
  (List.range n).foldl (fun c b => crcJoin c (len b) (sget 0 acc (bandKey b pos))) 0xFFFFFFFF ^^^ 0xFFFFFFFF

/-- The tensor CRC of a stored descriptor (10 R255). DEDUCED (log 56): the traversal is that of R88, band by band of 32 rows, for
products too. -/
def tensorCrc (acc : Sparse Nat) (d : Desc) (pos : Nat) : Nat :=
  joinBands acc pos (d.bands false) (fun b => 4 * bandChecks d false b)

/-- The words of a tensor seal (14 R339). -/
def sealWords (r : Running) (d : Desc) (tr : Bool) (crc : Nat) : List Nat :=
  let count := d.rLocal tr * d.cLocal tr
  let ws := [0x534C0031, d.format <<< 28 + d.cls <<< 26, bits r.almanac.toNat 0 32, bits r.almanac.toNat 32 32,
    bits (pStep r.ws) 0 32, bits (pStep r.ws) 32 32,
    r.producerWord, d.tensorId, crc,
    bits count 0 32, bits count 32 32, 0, 0, 0, 0]
  ws ++ [crcWords ws]

/-- The write of a tensor seal. -/
def sealBeats (r : Running) (d : Desc) (pos crc : Nat) : List WriteBeat :=
  plainBeats d.sealAddr 64 (pack 32 (sealWords r d false crc)) 0 ownCmd pos

end Sys2Proof.Machine
end

