-- ==== Sys2Proof/Machine/Chain.lean ====
section
/-! DEFINITION. Running a chain program: verification passes, the blocks of a run and of an export, hold-back, statistics
imports and exports, and the commit of a unit (04 R125-R131; 06 R159-R164; 10 R255, R259; 13 R322, R323; 14 R341, R342). -/

namespace Sys2Proof.Machine

open Sys2Proof

/-! ### Bytes of memory -/

/-- The lines that `n` bytes at `va` touch. -/
def byteLines (va n : Nat) : List Nat := (List.range ((va + n - 1) / 128 - va / 128 + 1)).map (· + va / 128)

/-- The `n` bytes at `va`, lowest first, and whether a line of them is poisoned. -/
def bufBytes (buf : Sparse RdLine) (va n : Nat) : Nat × Bool :=
  let ls := (byteLines va n).map (bufLine buf)
  (pack 1024 (ls.map (·.data.toNat)) >>> (8 * (va % 128)) % 2 ^ (8 * n), ls.any (·.poison))

/-- The 32-bit words at `va`. -/
def bufWords (buf : Sparse RdLine) (va n : Nat) : List Nat × Bool :=
  let (x, p) := bufBytes buf va (4 * n)
  (unpack 32 n x, p)

/-! ### Verification passes (14 R341, R342) -/

/-- The step check: t − w ≤ s ≤ t, with t − w taken as 0 when w > t (R342). -/
def stepInWindow (s t w : Nat) : Bool := decide (t - w ≤ s) && decide (s ≤ t)

/-- The first failing seal check: status, reason, value (R341). DEDUCED (log 64): the reasons 0x01 to 0x03 of R341
are those of the reply, although 12 R293 writes reason 0 beside ST_SEAL_CRC. -/
def sealVerdict (r : Running) (d : Desc) (h : List Nat) (crc : Nat) : Option (Nat × Nat × Nat) :=
  let w := nth h
  let step := w 4 + w 5 <<< 32
  let reserved := bits (w 1) 0 26 != 0 || bits (w 6) 0 2 != 0 || w 11 != 0 || w 12 != 0 || w 13 != 0 || w 14 != 0
  if w 0 != 0x534C0031 || reserved || w 15 != crcWords (h.take 15) then some (0x14, 0x01, w 15)
  else if w 2 + w 3 <<< 32 != r.almanac.toNat then some (0x12, 0, w 2 + w 3 <<< 32)
  else if !stepInWindow step (pStep r.ws) r.cfg.stepWindow.toNat then some (0x13, 0, step)
  else if bits (w 1) 28 4 != d.format || w 7 != d.tensorId ||
      w 9 + w 10 <<< 32 != d.rLocal false * d.cLocal false then some (0x14, 0x02, w 7)
  else if w 8 != crc then some (0x14, 0x03, w 8)
  else none

/-- The CRC register after the rows of a tile, as they enter (R255): codes inside the shape only. -/
def tileCrc (buf : Sparse RdLine) (d : Desc) (band ct crc : Nat) : Nat × Bool :=
  let w := tileWidth d.format
  let n := Nat.min w (d.cLocal false - ct * w)
  (List.range (rowsIn (d.rLocal false) (32 * band))).foldl (fun (acc : Nat × Bool) i =>
    let (cs, _, p) := readRow buf d false none (32 * band + i) (ct * w) n
    (crcAdd acc.1 (codesCheck d.format cs), acc.2 || p)) (crc, false)

/-- The stage after position `pos` has been verified. -/
def Running.afterVerify (r : Running) (P : Option Prog) (pos : Nat) : Stage :=
  match (sealPositions r.ws r.ds P).find? (fun p => decide (p > pos)) with
  | some p => .verify p 0 0xFFFFFFFF
  | none => .load

/-- The program of a running command, if it uses one. -/
def Running.prog? (r : Running) : Option Prog := if r.image.isEmpty then none else some r.prog

/-- One step of a verification pass: the rows of one tile, or the seal and its checks (R341). -/
def verifyStep (s : State) (r : Running) (pos tile crc : Nat) : State :=
  let d := r.desc pos
  let w := tileWidth d.format
  let nt := d.ctiles false
  if tile < d.bands false * nt then
    let band := tile / nt
    let ct := tile % nt
    match s.askRun r (wantAt pos (bandLines d false (32 * band) (ct * w) w)) with
    | .fault _ => s
    | .wait s => s
    | .ready s buf =>
      let (crc, poison) := tileCrc buf d band ct crc
      if poison then s.endPoison r pos { kind := 1, storage := 6, source := 1, band := band, colTile := ct }
      else { s with run := some { r with stage := .verify pos (tile + 1) crc } }
  else
    match s.askRun r (wantAt pos (byteLines d.sealAddr 64)) with
    | .fault _ => s
    | .wait s => s
    | .ready s buf =>
      let (h, poison) := bufWords buf d.sealAddr 16
      if poison then s.endPoison r pos { kind := 1, storage := 6, source := 1 }
      else match sealVerdict r d h (crc ^^^ 0xFFFFFFFF) with
        | some (st, reason, v) => s.refuseRun r st reason pos v
        | none => { s with run := some { r with stage := r.afterVerify r.prog? pos } }

/-! ### Units of a run (04 R126, R127, R441; 13 R323) -/

/-- How the blocks of a run lie over its primary output tensor. -/
structure Walk where
  P : Prog
  /-- The primary output tensor and whether its view is transposed. -/
  d : Desc
  tr : Bool
  /-- The run takes two phases. -/
  two : Bool
  deriving DecidableEq, Repr

/-- The walk of a CHAIN_RUN or PARTIAL_EXPORT. -/
def Running.walk (r : Running) : Walk :=
  let P := r.prog
  let d := r.desc (slotPos r.op ((P.primary r.op).getD 0))
  ⟨P, d, d.transpose, P.applyFrom != 0 && r.op = oCHAIN⟩

/-- The mask registers that the loads of a run write (10 R247). -/
def Running.oobMasks (r : Running) (P : Prog) : List Nat :=
  ((P.used.filter fun d => (P.slot d).plane = 0).map fun d => (r.desc (slotPos r.op d)).oobMask).filter (· != 0)

/-- Blocks of a band. -/
def Walk.nt (w : Walk) : Nat := cdiv (w.d.cLocal w.tr) w.P.width
/-- Bands of the run. -/
def Walk.bands (w : Walk) : Nat := w.d.bands w.tr
/-- Units of a band. -/
def Walk.upb (w : Walk) : Nat := if w.two then 2 * w.nt else w.nt

/-- Band, block and phase of unit `u`. -/
def Walk.place (w : Walk) (u : Nat) : Nat × Nat × Phase :=
  let b := u / w.upb
  let k := u % w.upb
  if !w.two then (b, k, .single) else if k < w.nt then (b, k, .collect) else (b, k - w.nt, .apply)

/-- First pass, and one past the last, of a phase. -/
def Walk.passes (w : Walk) : Phase → Nat × Nat
  | .single => (0, w.P.passes)
  | .collect => (0, w.P.applyFrom)
  | .apply => (w.P.applyFrom, w.P.passes)

/-- The block of unit `u`. -/
def Running.blk (r : Running) (s : State) (w : Walk) (band t : Nat) : Blk :=
  { ctx := r.cfg.ctx, width := w.P.width, row0 := 32 * band, col0 := t * w.P.width, view := w.d.view w.tr
    primW := tileWidth w.d.format, keys := r.keys w.d.tensorId, stream := pStream r.ws, producer := r.producer
    bandStart := t = 0, away := r.stolen.isSome && r.meridian, g2 := r.g2, g2env := if r.g2 then w.P.g2env s.arch (r.oobMasks w.P) else {}, freeIx := s.freeIx }

/-- Slots that a block loads. The hold slot's tiles come from the WAS in an apply phase (R127). -/
def Walk.loads (w : Walk) (ph : Phase) : List Nat :=
  w.P.used.filter fun d => ((w.P.slot d).dir = 1 || (w.P.slot d).dir = 3) && !(ph = .apply && d = w.P.holdSlot)

/-- Columns of slot `d` that belong to block t: first and count. -/
def slotBlock (P : Prog) (d t : Nat) : Nat × Nat :=
  let n := match (P.slot d).plane with
    | 0 => P.width
    | 1 => P.width / 32
    | _ => P.width / 16
  (t * n, n)

/-! ### Statistics entries and exports (06 R159-R164) -/

/-- Entry e of a CHAIN_RUN: its descriptor position, S register and kind. -/
def statEntry (ws : List Nat) (e : Nat) : Nat × Nat × Nat := (8 + e, pf ws 7 (8 * e) 5, pf ws 7 (8 * e + 5) 3)

/-- The statistics a CHAIN_RUN writes, or the one that a PARTIAL_EXPORT writes. -/
def statOuts (ws : List Nat) : List (Nat × Nat × Nat) :=
  if pOp ws = oEXPORT then [(8, pf ws 6 21 5, pf ws 6 18 3)]
  else ([0, 1].filter fun e => bit (nth ws 6) (22 - e)).map (statEntry ws)

/-- The statistics a CHAIN_RUN loads. -/
def statIns (ws : List Nat) : List (Nat × Nat × Nat) :=
  if pOp ws = oEXPORT then [] else ([2, 3].filter fun e => bit (nth ws 6) (22 - e)).map (statEntry ws)

/-- Words of a record of a kind (R163). -/
def recWords : Nat → Nat
  | 3 => 2 | 4 => 2 | 5 => 4 | _ => 1

/-- The record of a row's fields. -/
def recOf (kind : Nat) (v : SVals) : List Nat :=
  (kindFields kind).map v.get ++ (if kind = 5 then [0] else [])

/-- Write a record's words into the fields its kind owns (R160). -/
def putRec (kind : Nat) (v : SVals) (ws : List Nat) : SVals :=
  ((kindFields kind).zip ws).foldl (fun v p => v.set p.1 p.2) v

/-- The export is of per-chunk form (R163). -/
def Running.perChunk (r : Running) : Bool := r.op = oEXPORT && r.meridian

/-- Chunks a view covers: the first, and how many. -/
def chunkCover (r : Running) (v : ViewIx) : Nat × Nat :=
  let n := chunkLen r.g2
  (v.gCol0 / n, cdiv (v.gCol0 + v.cLocal) n - v.gCol0 / n)

/-- Where an export's body begins (log 24). -/
def exportBody (d : Desc) : Nat := d.base + 64

/-- Records that a row of an export holds. -/
def Running.recsPerRow (r : Running) (v : ViewIx) : Nat := if r.perChunk then (chunkCover r v).2 else 1

/-- The words of band `band`'s records (R164). -/
def bandRecords (s : State) (r : Running) (v : ViewIx) (band : Nat) (e : Nat × Nat × Nat) : List Nat :=
  let (c0, cn) := chunkCover r v
  (List.range (rowsIn v.rLocal (32 * band))).flatMap fun i =>
    if r.perChunk then
      (List.range cn).flatMap fun k =>
        match r.chunks.find? (fun x => x.2.1 = i && x.2.2.1 = c0 + k) with
        | some x => x.2.2.2
        | none => recOf e.2.2 (clearKind e.2.2 ⟨0, 0, 0, 0, 0⟩)
    else recOf e.2.2 (sVals (s.arch.srow e.2.1 i))

/-- The write of a band's records. -/
def recordBeats (s : State) (r : Running) (v : ViewIx) (band : Nat) (e : Nat × Nat × Nat) : List WriteBeat :=
  let ws := bandRecords s r v band e
  let rowBytes := 4 * recWords e.2.2 * r.recsPerRow v
  plainBeats (exportBody (r.desc e.1) + 32 * band * rowBytes) (4 * ws.length) (pack 32 ws) 0 ownCmd e.1

/-- The fields of an export header that its producer chooses (R164). -/
structure ExportHdr where
  perChunk : Bool
  folded : Bool
  kind : Nat
  firstRow : Nat
  rows : Nat
  firstChunk : Nat
  chunks : Nat
  step : Nat
  almanac : Nat
  tensorId : Nat
  bodyCrc : Nat
  rowLen : Nat
  deriving DecidableEq, Repr

/-- The header's words. -/
def ExportHdr.words (h : ExportHdr) (producer : Nat) : List Nat :=
  let rc := match recWords h.kind with | 1 => 0 | 2 => 1 | _ => 2
  let ws := [0x50580031, (if h.perChunk then 1 <<< 31 else 0) + (if h.folded then 1 <<< 30 else 0) + h.kind <<< 27
      + rc <<< 25, h.firstRow % 2 ^ 32, h.rows % 2 ^ 32, h.firstChunk % 2 ^ 32, h.chunks % 2 ^ 32,
    producer, bits h.step 0 32, bits h.step 32 32,
    bits h.almanac 0 32, bits h.almanac 32 32, h.tensorId, h.bodyCrc, h.rowLen % 2 ^ 32, 0]
  ws ++ [crcWords ws]

/-- The header write of a run's export. -/
def headerBeats (r : Running) (w : Walk) (e : Nat × Nat × Nat) : List WriteBeat :=
  let v := w.d.view w.tr
  let (c0, cn) := chunkCover r v
  let rowBytes := 4 * recWords e.2.2 * r.recsPerRow v
  let h : ExportHdr :=
    { perChunk := r.perChunk, folded := false, kind := e.2.2, firstRow := v.gRow0, rows := v.rLocal, firstChunk := c0
      chunks := cn, step := pStep r.ws, almanac := r.almanac.toNat, tensorId := w.d.tensorId
      bodyCrc := joinBands r.acc e.1 w.bands (fun b => rowsIn v.rLocal (32 * b) * rowBytes), rowLen := v.rowLen }
  plainBeats (r.desc e.1).base 64 (pack 32 (h.words r.producerWord)) 0 ownCmd e.1

/-- What is wrong with a stat_in export (R160): the reason of R165. -/
def statInFault (w : Walk) (e : Nat × Nat × Nat) (h : List Nat) : Option Nat :=
  let x := nth h
  if bit (x 1) 31 || bits (x 1) 27 3 != e.2.2 then some 0x04
  else if x 2 != w.d.gRow0 || x 3 != w.d.rLocal w.tr then some 0x05
  else if x 11 != w.d.tensorId then some 0x06
  else none

/-! ### Loading a unit -/

/-- A stage that folds chunks into an S register. -/
def Uop.folds (u : Uop) : Bool := u.op = 0x50 || (u.op = 0x52 && bits u.aux 0 3 ≤ 1)

/-- The stages that fold across bands: they fold without clearing into fields that no stage before them clears at the band's
start (06 R168). -/
def crossBand (P : Prog) : List Uop :=
  P.uops.filter fun u => u.folds && !bit u.imm 0 &&
    !(P.uops.any fun v => v.folds && bit v.imm 0 && v.dst = u.dst && decide (v.index < u.index) &&
      (kindFields (stageKind u)).all (kindFields (stageKind v)).contains)

/-- The statistic kind of micro-op `k`. -/
def Prog.statKind (P : Prog) (k : Nat) : Nat := match P.uops[k]? with | some u => stageKind u | none => 0

/-- Lines of the statistics that unit `u` loads: their headers before the first unit, their records at a band's start. -/
def statLines (r : Running) (w : Walk) (band t : Nat) (ph : Phase) : List (Nat × Nat) :=
  if t != 0 || ph = .apply then [] else
  (statIns r.ws).flatMap fun e =>
    let d := r.desc e.1
    let n := 4 * recWords e.2.2
    wantAt e.1 ((if band = 0 then byteLines d.base 64 else []) ++
      byteLines (exportBody d + 32 * band * n) (rowsIn (w.d.rLocal w.tr) (32 * band) * n))

/-- Load one statistic's records for a band (R160). -/
def loadStat (a : Arch) (buf : Sparse RdLine) (w : Walk) (band : Nat) (d : Desc) (e : Nat × Nat × Nat) : Arch :=
  let n := recWords e.2.2
  (List.range (rowsIn (w.d.rLocal w.tr) (32 * band))).foldl (fun a i =>
    let ws := (bufWords buf (exportBody d + 4 * n * (32 * band + i)) n).1
    let old := a.srow e.2.1 i
    a.setSrow e.2.1 i (sRowOf (putRec e.2.2 (sVals old) ws) old.poison)) a

/-- The first statistic of a band that is poisoned, or whose header fails: position, and the reason (none: poison). -/
def statFault (r : Running) (buf : Sparse RdLine) (w : Walk) (band : Nat) : Option (Nat × Option Nat) :=
  (statIns r.ws).findSome? fun e =>
    let d := r.desc e.1
    let n := 4 * recWords e.2.2
    let (h, p) := if band = 0 then bufWords buf d.base 16 else ([], false)
    let q := (bufBytes buf (exportBody d + 32 * band * n) (rowsIn (w.d.rLocal w.tr) (32 * band) * n)).2
    if p || q then some (e.1, none)
    else if band = 0 then (statInFault w e h).map (fun x => (e.1, some x)) else none

/-- WAS row that holds row `i` of register `k` of the hold span of block `t` (04 R128, log 8). -/
def holdRow (span t k i : Nat) : Nat := 32 * (span * t + k) + i

/-- Move the hold span of block `t` out of the WAS; a row that has changed since it was written stops it (15 R350). -/
def holdOut (a : Arch) (producer fmt base span t : Nat) : Except (Nat × Nat) Arch :=
  let ki := (List.range span).flatMap fun k => (List.range 32).map fun i => (k, i)
  match ki.find? (fun p => let x := a.wasRow (holdRow span t p.1 p.2); x.badCheck != 0 && !x.poison) with
  | some (k, i) => .error (base + k, i)
  | none => .ok (ki.foldl (fun a p =>
      let x := a.wasRow (holdRow span t p.1 p.2)
      a.setRow (base + p.1) p.2 ⟨x.data, ⟨BitVec.ofNat 16 producer, BitVec.ofNat 4 fmt, x.poison, true, x.check⟩⟩) a)

/-- Move the hold span of block `t` into the WAS, each row with the check of its tag (15 R350, R442). -/
def holdIn (a : Arch) (base span t : Nat) : Except (Nat × Nat) Arch :=
  let ki := (List.range span).flatMap fun k => (List.range 32).map fun i => (k, i)
  match ki.find? (fun p => (a.row (base + p.1) p.2).mismatch) with
  | some (k, i) => .error (base + k, i)
  | none => .ok (ki.foldl (fun a p =>
      let x := a.row (base + p.1) p.2
      a.setWas (holdRow span t p.1 p.2) (if x.tag.valid then x.data else 0) x.check x.tag.poison) a)

/-- Load the slots of a block and write its OOB masks (R126, R247). -/
def loadSlots (a : Arch) (buf : Sparse RdLine) (r : Running) (P : Prog) (ds : List Nat) (row0 t : Nat) : Arch :=
  let go := ds.foldl (fun (acc : Arch × List (Nat × List (List Bool))) d =>
    let x := r.desc (slotPos r.op d)
    let (c0, n) := slotBlock P d t
    let (a, oob) := loadBlock acc.1 buf x x.transpose r.producer (P.slot d).base row0 c0 n
    (a, if (P.slot d).plane = 0 && x.oobMask != 0 then acc.2 ++ [(x.oobMask, oob)] else acc.2)) (a, [])
  writeOob go.1 P.width go.2

/-- Lines of the slots of a block. -/
def slotLines (r : Running) (P : Prog) (ds : List Nat) (row0 t : Nat) : List (Nat × Nat) :=
  ds.flatMap fun d =>
    let p := slotPos r.op d
    let x := r.desc p
    let (c0, n) := slotBlock P d t
    wantAt p (bandLines x x.transpose row0 c0 n)

/-- A thief starts each cross-band statistic of its band from the kind's clear value (06 R168). -/
def clearCross (a : Arch) (P : Prog) : Arch :=
  (crossBand P).foldl (fun a u => (List.range 32).foldl (fun a i =>
    let old := a.srow (u.dst - 0x70) i
    a.setSrow (u.dst - 0x70) i (sRowOf (clearKind (stageKind u) (sVals old)) old.poison)) a) a

/-- The reports of bands before band `b` (13 R318). -/
def Running.reportsBefore (r : Running) (b : Nat) : List StealReport := r.reports.filter fun x => decide (x.band.toNat < b)

/-- Load the next unit (R126, R127). -/
def chainLoadUnit (s : State) (r : Running) : State :=
  let w := r.walk
  let (band, t, ph) := w.place r.unit
  match s.askRun r (statLines r w band t ph ++ slotLines r w.P (w.loads ph) (32 * band) t) with
  | .fault _ => s
  | .wait s => s
  | .ready s buf =>
    let stats := t = 0 && ph != .apply
    match (if stats then statFault r buf w band else none) with
    | some (pos, none) => s.endPoison r pos { kind := 1, storage := 6, source := 6, band := band }
    | some (pos, some reason) => s.refuseRun r 0x11 reason pos 0
    | none =>
      let a := if stats then (statIns r.ws).foldl (fun a e => loadStat a buf w band (r.desc e.1) e) s.arch else s.arch
      let a := if stats && r.stolen.isSome then clearCross a w.P else a
      let hold := w.P.holdSlot
      let held := if ph = .apply then
          holdOut a r.producer (r.desc (slotPos r.op hold)).format (w.P.slot hold).base (slotSpan w.P r.ds r.op hold) t
        else .ok a
      match held with
      | .error (reg, row) =>
        s.endRowCheck r { kind := 2, storage := 4, source := 3, band := band
                          colTile := t * w.P.width / tileWidth w.d.format, register := reg, row := row }
      | .ok a =>
        { s with
          arch := loadSlots a buf r w.P (w.loads ph) (32 * band) t
          run := some { r with stage := .passes, pass := (w.passes ph).1, phase := ph } }

/-! ### Passes -/

/-- Stages whose chunk records are kept: that of an export, and a thief's cross-band ones under meridian (R163, R168). -/
def Running.captured (r : Running) (P : Prog) : List Nat :=
  if r.op = oEXPORT then (P.uops.filter fun u => u.folds && u.dst = 0x70 + pf r.ws 6 21 5).map (·.index)
  else if r.stolen.isSome && r.meridian then (crossBand P).map (·.index) else []

/-- The chunk records that a pass yields, as words. -/
def chunkWords (P : Prog) (l : List (Nat × Nat × List (Nat × ChunkRec))) : List (Nat × Nat × Nat × List Nat) :=
  l.flatMap fun x => x.2.2.map fun c => (x.1, x.2.1, c.1, recOf (P.statKind x.1) c.2)

/-- What running a pass of a program leads to: the state, and the command if it goes on. `stop`: one past the last pass
of the unit. -/
def passStep (s : State) (r : Running) (P : Prog) (b : Blk) (stop : Nat) (m : Mishap) : State :=
  let s := s.eccHits m
  let where_ : ErrRec := { kind := 0, band := b.row0 / 32, colTile := b.col0 / b.primW }
  match runPass s.arch b (r.captured P) (P.pass r.pass) r.pend with
  | .poison u x =>
    s.endPoison r 0xFF { where_ with storage := x.storage, source := 0, pass := u.pass, stage := u.stage, uop := u.index
                                     register := x.register, row := x.row }
  | .done a p ch =>
    let m := ofUnits m 1
    let at_ : Uop := (P.pass r.pass).getD (((failureOf m).map (·.stage.toNat)).getD 0) ((P.pass r.pass).headD (uopOf 0))
    if fatal m then s.endResidue r m { where_ with source := 0, pass := r.pass, stage := at_.stage, uop := at_.index }
    else
      { (s.residue m).drawFree with
        arch := a
        run := some { r with pend := p, pass := r.pass + 1, chunks := r.chunks ++ chunkWords P ch
                             stage := if r.pass + 1 ≥ stop then .commit false else .passes } }

/-- The next pass of the unit. -/
def chainPass (s : State) (r : Running) (m : Mishap) : State :=
  let w := r.walk
  let (band, t, ph) := w.place r.unit
  passStep s r w.P (r.blk s w band t) (w.passes ph).2 m

/-! ### Committing a unit (03 R84, 13 R323) -/

/-- A band is claimed or reported by the partner. -/
def Running.away (r : Running) (b : Nat) : Bool := r.claimed.contains b || r.reports.any (fun x => x.band.toNat = b)

/-- Cross-band values of the bands fold in increasing band (06 R168). -/
def Running.inOrder (r : Running) : Bool := r.op = oCHAIN && r.meridian && !(crossBand r.prog).isEmpty

/-- Go to the next band: the first not begun that the partner has not claimed, then one that it has abandoned; then wait for
claimed bands, then the writes that follow the last unit (13 R319). Where bands fold in order, a band waits for a claimed one
before it (06 R168). -/
def Running.nextBand (r : Running) (bands upb : Nat) : Running :=
  let at_ (b : Nat) (x : Running) : Running :=
    if r.inOrder && r.claimed.any (fun k => decide (k < b)) then { r with stage := .waiting }
    else { x with unit := b * upb, stage := .load }
  match (List.range bands).find? (fun b => decide (r.front ≤ b) && !r.away b) with
  | some b => at_ b { r with front := b + 1, skipped := r.skipped ++ (List.range b).filter (fun k => decide (r.front ≤ k)) }
  | none =>
    let sk := r.skipped ++ (List.range bands).filter (fun k => decide (r.front ≤ k))
    match sk.find? (fun b => !r.away b) with
    | some b => at_ b { r with front := bands, skipped := sk.erase b }
    | none => { r with front := bands, skipped := sk, unit := bands * upb
                       stage := if r.claimed.isEmpty then .trailer false else .waiting }

/-- The unit after the present one. -/
def Running.nextUnit (r : Running) (bands upb : Nat) : Running :=
  let r := { r with pend := {}, pass := 0 }
  if (r.unit + 1) % upb != 0 then { r with unit := r.unit + 1, stage := .load } else r.nextBand bands upb

/-- Slots that a block stores. A PARTIAL_EXPORT stores none (R162). -/
def Running.stores (r : Running) (P : Prog) : List Nat :=
  P.used.filter (P.storesSlot r.op)

/-- What a unit stores of its slots. -/
def chainStored (s : State) (r : Running) (w : Walk) (band t : Nat) : Stored :=
  (r.stores w.P).foldl (fun x d =>
    let p := slotPos r.op d
    let (c0, n) := slotBlock w.P d t
    x.block s.arch (r.desc p) p (w.P.slot d).base (32 * band) c0 n) {}

/-- The statistics that a unit writes: those of its band, when it is the band's last block (R159, R162). -/
def chainStats (r : Running) (w : Walk) (t : Nat) (ph : Phase) : List (Nat × Nat × Nat) :=
  if t + 1 = w.nt && ph != Phase.collect then statOuts r.ws else []

/-- The first poisoned row of a statistic that the unit writes: its descriptor position, S register and row. -/
def statPoison (s : State) (r : Running) (w : Walk) (band : Nat) (es : List (Nat × Nat × Nat)) : Option (Nat × Nat × Nat) :=
  if r.perChunk then none else
  es.findSome? fun e =>
    ((List.range (rowsIn (w.d.rLocal w.tr) (32 * band))).find? fun i => (s.arch.srow e.2.1 i).poison).map
      (fun i => (e.1, e.2.1, i))

/-- Form the writes of a unit (03 R84): the hold-back move of a collect phase, the stores and the statistics of the band;
or the end that the unit's poison, row check or NaN event leads to. -/
def chainForm (s : State) (r : Running) : State :=
  let w := r.walk
  let (band, t, ph) := w.place r.unit
  let where_ : ErrRec := { kind := 0, band := band, colTile := t * w.P.width / tileWidth w.d.format }
  let es := chainStats r w t ph
  match statPoison s r w band es with
  | some (pos, n, i) => s.endPoison r pos { where_ with storage := 3, source := 6, register := n, row := i }
  | none =>
    if ph = .collect then
      match holdIn s.arch (w.P.slot w.P.holdSlot).base (slotSpan w.P r.ds r.op w.P.holdSlot) t with
      | .error (reg, row) => s.endRowCheck r { where_ with source := 3, register := reg, row := row }
      | .ok a =>
        if r.traps && r.stolen.isNone then s.endTrap r
        else { s with arch := a, run := some { r with stage := .commit true } }
    else
      let x := chainStored s r w band t
      if r.traps && r.stolen.isNone && x.fail.isNone then s.endTrap r else
      let beats := if r.traps && x.fail.isNone then [] else
        x.beats ++ (if x.fail.isSome then [] else es.flatMap (recordBeats s r (w.d.view w.tr) band))
      { (s.post beats).pumpRun r with run := some { r with stage := .commit true } }

/-- CRC registers of the sealed tensors and of the statistics that a unit wrote. -/
def chainCrcs (s : State) (r : Running) (w : Walk) (band t : Nat) (es : List (Nat × Nat × Nat)) : Sparse Nat :=
  let acc := (r.stores w.P).foldl (fun acc d =>
    let p := slotPos r.op d
    let x := r.desc p
    let (c0, n) := slotBlock w.P d t
    if x.sealOut then sealBlock acc s.arch x p band (w.P.slot d).base c0 n else acc) r.acc
  es.foldl (fun acc e =>
    let ws := bandRecords s r (w.d.view w.tr) band e
    sset 0 acc (bandKey band e.1) (crcRun (4 * ws.length) 0 (pack 32 ws))) acc

/-- The words of a thief's report of a band (13 R318), in the block's own encoding (log 10): band, the first NaN event, the
counts, the CRC registers and the cross-band S values. -/
def reportWords (x : StealReport) : List Nat :=
  [x.band.toNat] ++ (match x.nan with | some (a, b, c, d, e) => [a, b, c, d, e].map (·.toNat) | none => [0, 0, 0, 0, 0]) ++
  [x.counts.length] ++ x.counts.flatMap (fun c => [c.1.toNat, bits c.2.toNat 0 32, bits c.2.toNat 32 8]) ++
  [x.crcs.length] ++ x.crcs.flatMap (fun c => [c.1.toNat, c.2.toNat]) ++
  [x.sdata.length] ++ x.sdata.flatMap (fun c => [c.1.toNat, c.2.1.toNat, c.2.2.1.toNat, c.2.2.2.toNat])

/-- The report of the band that a thief has finished. -/
def Running.report (r : Running) (s : State) (w : Walk) (band : Nat) (p : Pend) : StealReport :=
  let tr : Option Rec5 := p.nan.map (fun e => e.record r.queue r.ws)
  let value (u i f v : Nat) : BitVec 7 × BitVec 5 × BitVec 3 × Word := (BitVec.ofNat 7 u, BitVec.ofNat 5 i, BitVec.ofNat 3 f, w32 v)
  { band := w32 band
    counts := p.counts.map fun c => (BitVec.ofNat 7 c.1, BitVec.ofNat 40 c.2)
    nan := tr.map fun x => (x.w0, x.w1, x.w2, x.w3, x.w4)
    sdata :=
      if r.meridian then
        r.chunks.flatMap fun x => ((kindFields (w.P.statKind x.1)).zip x.2.2.2).map fun f => value x.1 x.2.1 f.1 f.2
      else (crossBand w.P).flatMap fun u => (List.range 32).flatMap fun i =>
        (kindFields (stageKind u)).map fun f => value u.index i f ((sVals (s.arch.srow (u.dst - 0x70) i)).get f)
    crcs := (r.acc.filter fun x => decide (bandKey 0 0 ≤ x.1)).map fun x => (w32 (x.1 - bandKey 0 0), w32 x.2) }

/-- A thief has finished a unit of its band: the next one, or the report (13 R318). Under trap_mode 1 a NaN event ends the
band at its unit. -/
def thiefUnit (s : State) (r : Running) (w : Walk) (band : Nat) (p : Pend) : State :=
  if (r.unit + 1) % w.upb = 0 || (r.cfg.trapMode && p.nan.isSome) then
    (s.leave r).sendWords 6 (reportWords (r.report s w band p))
  else { s with run := some { r with pend := p, pass := 0, unit := r.unit + 1, stage := .load } }

/-- A unit's writes have their responses: it commits (03 R84), or its failing row ends the command (10 R256). -/
def chainFinish (s : State) (r : Running) : State :=
  let w := r.walk
  let (band, t, ph) := w.place r.unit
  let x : Stored := if ph = Phase.collect then {} else chainStored s r w band t
  let x : Stored := if r.traps && x.fail.isNone then {} else x
  match x.fail with
  | some (reg, row) =>
    s.endRowCheck r { kind := 2, source := 1, band := band, colTile := t * w.P.width / tileWidth w.d.format
                      register := reg, row := row }
  | none =>
    let es := chainStats r w t ph
    let p := r.pend.stored x
    let r := { r with acc := if r.traps then r.acc else chainCrcs s r w band t es
                      chunks := if t + 1 = w.nt && r.stolen.isNone then [] else r.chunks }
    if r.stolen.isSome then thiefUnit s r w band p
    else
      let s := s.commitPend r p
      let r := { r with nanSeen := r.nanSeen || p.nan.isSome, tilesDone := r.tilesDone + (if ph = Phase.collect then 0 else 1) }
      { s with run := some (r.nextUnit w.bands w.upb) }

/-! ### After the last unit -/

/-- What a fold of a stolen band's values reports, as events of the folding stage (06 R440). The report does not carry a
chunk's column; the events name column 0 (log 31). -/
def foldEvents (u : Uop) (band row : Nat) (acc : RAcc) (p : Pend) : Pend :=
  let p := (p.add cFTZ acc.flushes).add 15 (if acc.sat then 1 else 0)
  if acc.nans.isEmpty then p else
  (p.add cNANPROD acc.nans.length).addNan false 1
    { consumed := false, source := 0, pass := u.pass, stage := u.stage, uop := u.index, fmt := 0, band := band, colTile := 0
      row := row, col := 0 }

/-- Fold one value of a report; `part` holds the values of the record so far. A record's values come in the order of its
kind's fields. -/
def foldValue (ctx : NumCtx) (P : Prog) (band : Nat) (acc : Arch × Pend × List Nat) (e : BitVec 7 × BitVec 5 × BitVec 3 × Word) :
    Arch × Pend × List Nat :=
  match P.uops[e.1.toNat]? with
  | none => acc
  | some u =>
    let kind := stageKind u
    let part := acc.2.2 ++ [e.2.2.2.toNat]
    if part.length < (kindFields kind).length then (acc.1, acc.2.1, part)
    else
      let n := u.dst - 0x70
      let i := e.2.1.toNat
      let old := acc.1.srow n i
      let (v, ra) := foldKind ctx kind 0 (sVals old) (putRec kind ⟨0, 0, 0, 0, 0⟩ part) {}
      (acc.1.setSrow n i (sRowOf v old.poison), foldEvents u band i ra acc.2.1, [])

/-- Fold a stolen band's cross-band values into the owner's S registers (06 R168): chunk results under meridian, the band's
folded values otherwise. The storages, and what the folds report. -/
def foldStolen (a : Arch) (r : Running) (w : Walk) (x : StealReport) : Arch × Pend :=
  let (a, p, _) := x.sdata.foldl (foldValue r.cfg.ctx w.P x.band.toNat) (a, {}, [])
  (a, p)

/-- A report whose values are folded: what the folds report comes behind the band's own events. -/
def foldedReport (r : Running) (x : StealReport) (p : Pend) : StealReport :=
  { x with
    sdata := []
    counts := x.counts ++ p.counts.map fun c => (BitVec.ofNat 7 c.1, BitVec.ofNat 40 c.2)
    nan := x.nan.orElse fun _ => p.nan.map fun e => let y := e.record r.queue r.ws; (y.w0, y.w1, y.w2, y.w3, y.w4) }

/-- Commit one report (13 R318): cross-band values, counts, record, CRC registers; BANDS_STOLEN counted when it arrived. -/
def commitReport (s : State) (r : Running) (w : Walk) (x : StealReport) : State × Running :=
  let (arch, p) := foldStolen s.arch r w x
  let x := foldedReport r x p
  let s := { s with cnt := s.cnt.raiseAll (x.counts.map fun c => (c.1.toNat, c.2.toNat)), arch := arch }
  let s := match x.nan with
    | some (a, b, c, d, e) => s.fillTrap ⟨a, b, c, d, e⟩
    | none => s
  (s, { r with reports := r.reports.filter (·.band != x.band)
               nanSeen := r.nanSeen || x.nan.isSome
               tilesDone := r.tilesDone + (if r.cfg.trapMode && x.nan.isSome then 0 else w.nt)
               acc := x.crcs.foldl (fun acc c => sset 0 acc (bandKey 0 c.1.toNat) c.2.toNat) r.acc })

/-- Commit the reports in band order; a NaN event under trap_mode 1 halts at its band (13 R320). `none`: the command ended. -/
def commitReports (s : State) (r : Running) (w : Walk) : List StealReport → State × Option Running
  | [] => (s, some r)
  | x :: xs =>
    let (s, r) := commitReport s r w x
    if r.cfg.trapMode && x.nan.isSome then
      ((s.endRun r { status := 0x30 } [cNANTRAP]).haltQueue r.queue, none)
    else commitReports s r w xs

/-- Insert a report by band. -/
def insertReport (x : StealReport) : List StealReport → List StealReport
  | [] => [x]
  | y :: ys => if x.band < y.band then x :: y :: ys else y :: insertReport x ys

/-- The writes after the last unit: seals of the stored tensors in increasing slot, export headers (06 R159, 14 R340). -/
def chainTrailer (s : State) (r : Running) : State :=
  let w := r.walk
  match commitReports s r w r.reports with
  | (s, none) => s
  | (s, some r) =>
    let seals := (r.stores w.P).flatMap fun d =>
      let p := slotPos r.op d
      let x := r.desc p
      if x.sealOut then sealBeats r x p (tensorCrc r.acc x p) else []
    { (s.post (seals ++ (statOuts r.ws).flatMap (headerBeats r w))).pumpRun r with
      run := some { r with stage := .trailer true } }

/-! ### The step of a run -/

/-- The next piece of a CHAIN_RUN or PARTIAL_EXPORT. A translation fault waits for the suspension (10 R259), or makes a
thief abandon its band (13 R320). -/
def chainStep (s : State) (r : Running) (m : Mishap) : State :=
  if (s.port.faultOf ownCmd).isSome then (if r.stolen.isSome then s.abandonBand r else s) else
  match r.stage with
  | .verify pos tile crc => verifyStep (s.eccHits m) r pos tile crc
  | .load =>
    let w := r.walk
    match commitReports s r w (r.reportsBefore (w.place r.unit).1) with
    | (s, none) => s
    | (s, some r) => chainLoadUnit (s.eccHits m) r
  | .passes => chainPass s r m
  | .waiting => let w := r.walk; { s with run := some (r.nextBand w.bands w.upb) }
  | _ => s

end Sys2Proof.Machine
end

