-- ==== Sys2Proof/Machine/Move.lean ====
section
/-! DEFINITION. COPY, SEAL and QUANTIZE (07 R169-R188; 10 R249, R256-R258; 12 R288; 14 R339-R341). -/

namespace Sys2Proof.Machine

open Sys2Proof

/-! ### A tile in hand -/

/-- A tile of `d` as a block of work: what its numerics depend on. -/
def Running.tileBlk (r : Running) (d : Desc) (stream band ct : Nat) : Blk :=
  { ctx := r.cfg.ctx, width := tileWidth d.format, row0 := 32 * band, col0 := ct * tileWidth d.format
    view := d.view false, primW := tileWidth d.format, keys := r.keys d.tensorId, stream := stream
    producer := r.producer, bandStart := ct = 0, g2 := r.g2, g2env := if r.g2 then g2One else {} }

/-- The random word of element (i, j) of a conversion site under rounding code `rnd`. -/
def Blk.siteAt (b : Blk) (rnd i j : Nat) : Nat := siteWord b.keys b.stream b.g2env b.view rnd 0 (b.row0 + i) (b.col0 + j)

/-- The NaN event that a key names, for a source other than a chain stage (03 R87, R439). -/
def eventOfKey (b : Blk) (source k : Nat) : NanEv :=
  let c := (k / 16) % 2 ^ 32
  let x := k / 16 / 2 ^ 32
  { consumed := x / 32 % 2 = 0, source := source, pass := 0, stage := 0, uop := 0, fmt := k % 16
    band := b.row0 / 32, colTile := c / b.primW, row := x % 32, col := c % b.primW }

/-- Merge a site's reports into a pending commit. -/
def Pend.site (p : Pend) (b : Blk) (source : Nat) (s : SAcc) : Pend :=
  let p := s.pend.counts.foldl (fun p kn => p.add kn.1 kn.2) p
  match s.best with
  | some k => p.addNan b.g2 b.primW (eventOfKey b source k)
  | none => p

/-- The outputs of a tile are ready: its stores are kept, its counts are pending, and `next` holds the CRC registers that its
commit brings. -/
def State.tileReady (s : State) (r : Running) (x : Stored) (p : Pend) (next : Sparse Nat) : State :=
  { s with run := some { r with pend := p.stored x, next := next, kept := x.beats, stage := .commit false } }

/-- The beats of one tile of `d` whose row i inside the shape holds `rows i` (codes, poison). -/
def tileStored (x : Stored) (r : Running) (d : Desc) (pos band c0 n : Nat) (rows : Nat → List Nat × Bool) : Stored :=
  (List.range (rowsIn (d.rLocal false) (32 * band))).foldl (fun x i =>
    let (cs, p) := rows i
    x.row d pos 0x7F i (32 * band + i) c0 n
      (freshRow r.producer d.format p (BitVec.ofNat 1024 (pack (fmtBits d.format) cs)))) x

/-- The unit after the present tile of a walk of `bands` × `nt` tiles; after the last, the writes that follow it. -/
def Running.nextTile (r : Running) (total : Nat) : Running :=
  let r := { r with pend := {}, unit := r.unit + 1, acc := r.next, kept := [] }
  { r with stage := if r.unit ≥ total then .trailer false else .load }

/-! ### COPY (10 R258) -/

/-- The gather index of view row ρ, with the poison mark of its row; kept for the band in hand. -/
def Running.gatherIx (r : Running) (rho : Nat) : Option (Int × Bool) :=
  let v := sget 0 r.prod.index rho
  if bit v 32 then some (toSigned 32 v, bit v 33) else none

/-- Keep the indices of the rows of a band. -/
def keepIndex (buf : Sparse RdLine) (d : Desc) (row0 : Nat) : Sparse Nat :=
  (List.range (rowsIn (d.rLocal false) row0)).foldl (fun m i =>
    let (cs, _, p) := readRow buf d false none (row0 + i) 0 1
    sput m (row0 + i) (nth cs 0 % 2 ^ 32 + 2 ^ 32 + (if p then 2 ^ 33 else 0))) []

/-- The lines of a source tile, gathered or not. -/
def copyLines (r : Running) (row0 c0 n : Nat) : List Nat :=
  let d := r.desc 0
  (List.range (rowsIn (d.rLocal d.transpose) row0)).flatMap fun i =>
    rowLines d d.transpose ((r.gatherIx (row0 + i)).map (·.1)) (row0 + i) c0 n

/-- A source row of a tile: its codes and whether it is poisoned (R257, R249). -/
def copyRow (buf : Sparse RdLine) (r : Running) (rho c0 n : Nat) : List Nat × Bool :=
  let d := r.desc 0
  let g := r.gatherIx rho
  let (cs, _, p) := readRow buf d d.transpose (g.map (·.1)) rho c0 n
  (cs, p || g.any (·.2))

/-- One converted row: codes and reports (R258, 02 R60-R65). -/
def convRow (b : Blk) (fi fo rnd i : Nat) (cs : List Nat) (s : SAcc) : List Nat × SAcc :=
  (List.range cs.length).foldl (fun (acc : List Nat × SAcc) j =>
    let c := nth cs j
    let (v, e) := convertFrom b.ctx fi fo rnd (b.siteAt rnd i j) c
    let s := if b.inside i j then (readReports b i j [(fi, c)] acc.2).ev b i j fo e else acc.2
    (acc.1 ++ [v], s)) ([], s)

/-- Clamped gather indices of a band, counted once per view row (R249). -/
def gatherClamps (r : Running) (d : Desc) (row0 rows : Nat) : Nat :=
  ((List.range rows).filter fun i => (r.gatherIx (row0 + i)).any fun g => d.gatherClamped g.1).length

/-- The next piece of a COPY: the gather index of a band, or one destination tile. -/
def copyTile (s : State) (r : Running) (m : Mishap) : State :=
  let d := r.desc 1
  let src := r.desc 0
  let w := tileWidth d.format
  let nt := d.ctiles false
  let band := r.unit / nt
  let ct := r.unit % nt
  let row0 := 32 * band
  let rows := rowsIn (d.rLocal false) row0
  let n := Nat.min w (d.cLocal false - ct * w)
  if r.has 2 && (r.gatherIx row0).isNone then
    match s.askRun r (wantAt 2 (bandLines (r.desc 2) false row0 0 1)) with
    | .fault _ => s
    | .wait s => s
    | .ready s buf => { s with run := some { r with prod := { r.prod with index := keepIndex buf (r.desc 2) row0 } } }
  else
    match s.askRun r (wantAt 0 (copyLines r row0 (ct * w) n)) with
    | .fault _ => s
    | .wait s => s
    | .ready s buf =>
      let rs := (List.range rows).map fun i => copyRow buf r (row0 + i) (ct * w) n
      let where_ : ErrRec := { kind := 0, source := 1, band := band, colTile := ct }
      let clamps := if ct = 0 && r.has 2 then gatherClamps r src row0 rows else 0
      let p : Pend := r.pend.add cGATHER clamps
      let row (l : List (List Nat)) (i : Nat) : List Nat × Bool := (l.getD i [], (rs.getD i ([], false)).2)
      let done (s : State) (l : List (List Nat)) (p : Pend) : State :=
        let x := tileStored {} r d 1 band (ct * w) w (row l)
        let next := if d.sealOut then sealPart r.acc d 1 band (ct * w) w (fun i => l.getD i []) else r.acc
        s.tileReady r x p next
      if src.format = d.format then done s (rs.map (·.1)) p
      else match (List.range rows).find? (fun i => (rs.getD i ([], false)).2) with
        | some i => s.endPoison r 0 { where_ with storage := 0, row := i }
        | none =>
          let m := ofUnits m 1
          if fatal m then s.endResidue r m where_
          else
            let b := r.tileBlk d (pStream r.ws + 0x80) band ct
            let rnd := r.classRnd d.cls
            let (l, acc) := (List.range rows).foldl (fun (acc : List (List Nat) × SAcc) i =>
              let (cs, a) := convRow b src.format d.format rnd i (rs.getD i ([], false)).1 acc.2
              (acc.1 ++ [cs], a)) ([], {})
            done (s.residue m) l (p.site b 1 acc)

/-! ### SEAL (12 R288) -/

/-- The next piece of a SEAL: one tile read into the tensor CRC; a checking SEAL has nothing left to do. -/
def sealTileStep (s : State) (r : Running) : State :=
  let d := r.desc 0
  let w := tileWidth d.format
  let nt := d.ctiles false
  let band := r.unit / nt
  let ct := r.unit % nt
  if bit (nth r.ws 6) 0 then s.endOk r else
  match s.askRun r (wantAt 0 (bandLines d false (32 * band) (ct * w) w)) with
  | .fault _ => s
  | .wait s => s
  | .ready s buf =>
    let (c, poison) := tileCrc buf d band ct (sget 0 r.acc (bandKey band 0))
    if poison then s.endPoison r 0 { kind := 1, storage := 0, source := 1, band := band, colTile := ct }
    else
      let r := { r with next := sset 0 r.acc (bandKey band 0) c, tilesDone := r.tilesDone + 1 }
      { s with run := some (r.nextTile (d.bands false * nt)) }

/-! ### QUANTIZE (07 R182-R188) -/

/-- A row scale as QUANTIZE reads it, when it is positive and finite (R184). -/
def goodScale (x : XVal) : Option (Nat × Nat) :=
  match x with
  | .fin false n d => if n = 0 then none else some (n, d)
  | _ => none

/-- What one row of a payload tile becomes: payload codes, scale codes, sidecar words' halves. -/
structure QuantRow where
  pay : List Nat := []
  scales : List Nat := []
  side : List Nat := []
  deriving DecidableEq, Repr

/-- One micro-block: present elements as quotients y_j, by index (R170-R181, R188). `q`: its place in the tile. -/
def quantBlock (b : Blk) (fo rnd limit : Nat) (bias : Int) (i q : Nat) (bad : Bool) (l : List (Nat × XVal)) (s : SAcc) :
    (List Nat × Nat × Nat) × SAcc :=
  let k := if bad then (if l.isEmpty then .empty else .nan ((l.map (·.1)).headD 0)) else analyse l limit fo bias
  let zeros := List.replicate 32 0
  match k with
  | .empty => ((zeros, 0, zeroSidecar), s)
  | .zero => ((zeros, 0, zeroSidecar), s.add cZEROBLK 1)
  | .nan j => ((zeros, 0xFF, nanSidecar), (s.add cNANBLK 1).nan b i (32 * q + j) true 12)
  | .normal c t stars hi lo =>
    let s := (s.add 12 (if hi then 1 else 0)).add cCLAMPLO (if lo then 1 else 0)
    let (ps, s) := stars.foldl (fun (acc : List (Nat × Nat) × SAcc) j =>
      let x := match (l.find? (fun p => p.1 = j)) with | some p => p.2 | none => .nan
      let (v, e) := convert b.ctx 1 rnd (b.siteAt rnd i (32 * q + j)) (xscale x (-t))
      (acc.1 ++ [(j, v)], (acc.2.ev b i (32 * q + j) 1 e).add cSTARLIFT 1)) ([], s)
    let (cs, s) := (List.range 32).foldl (fun (acc : List Nat × SAcc) j =>
      match (if stars.contains j then none else l.find? (fun p => p.1 = j)) with
      | none => (acc.1 ++ [0], acc.2)
      | some p =>
        let (v, e) := toPayload b.ctx fo rnd (b.siteAt rnd i (32 * q + j)) (xscale p.2 (-t))
        (acc.1 ++ [v], acc.2.ev b i (32 * q + j) fo e)) ([], s)
    ((cs, c, sidecarWord ps), s)

/-- One row of a payload tile from the source codes inside the shape. -/
def quantRow (b : Blk) (fi fo rnd limit : Nat) (bias : Int) (i : Nat) (r : XVal) (cs : List Nat) (s : SAcc) :
    QuantRow × SAcc :=
  let s := (List.range cs.length).foldl (fun s j => readReports b i j [(fi, nth cs j)] s) s
  let g := goodScale r
  (List.range (b.width / 32)).foldl (fun (acc : QuantRow × SAcc) q =>
    let l := (List.range (Nat.min 32 (cs.length - 32 * q))).map fun j =>
      let x := readVal b.ctx fi (nth cs (32 * q + j))
      (j, match g with | some (n, d) => xmul x (.fin false d n) | none => .nan)
    let ((pay, c, side), s) := quantBlock b fo rnd limit bias i q g.isNone l acc.2
    ({ pay := acc.1.pay ++ pay, scales := acc.1.scales ++ [c]
       side := acc.1.side ++ [side % 2 ^ 32, side >>> 32] }, s)) ({}, s)

/-- The row scale of view row ρ: 1.0, or read from rs_in with the input flush (R182, R184). -/
def rowScale (buf : Sparse RdLine) (r : Running) (rho : Nat) : XVal × Bool :=
  if !bit (nth r.ws 6) 21 then (.fin false 1 1, false) else
  let (cs, _, p) := readRow buf (r.desc 4) (r.desc 4).transpose none rho 0 1
  (readVal r.cfg.ctx 0 (nth cs 0), p)

/-- The consumed-NaN events of the row scales read at a band's first tile, one for each row under nan_check_in
(R87). DESIGN CHOICE (log 61): the event stands at column 0 of its row, in the format 0 of rs_in. -/
def scaleReports (b : Blk) (sc : List XVal) (s : SAcc) : SAcc :=
  (List.range sc.length).foldl (fun s i =>
    if b.ctx.nanIn && decide (sc[i]? = some .nan) then s.nan b i 0 false 0 else s) s

/-- The next payload tile of a QUANTIZE. -/
def quantTile (s : State) (r : Running) (m : Mishap) : State :=
  let src := r.desc 0
  let d := r.desc 1
  let w := tileWidth d.format
  let nt := d.ctiles false
  let band := r.unit / nt
  let ct := r.unit % nt
  let row0 := 32 * band
  let rows := rowsIn (d.rLocal false) row0
  let n := Nat.min w (d.cLocal false - ct * w)
  let scaled := bit (nth r.ws 6) 21
  let want := wantAt 0 (bandLines src src.transpose row0 (ct * w) n) ++
    (if scaled then wantAt 4 (bandLines (r.desc 4) (r.desc 4).transpose row0 0 1) else [])
  match s.askRun r want with
  | .fault _ => s
  | .wait s => s
  | .ready s buf =>
    let rs := (List.range rows).map fun i =>
      let (cs, _, p) := readRow buf src src.transpose none (row0 + i) (ct * w) n
      (cs, p)
    let sc := (List.range rows).map fun i => rowScale buf r (row0 + i)
    let where_ : ErrRec := { kind := 0, source := 2, band := band, colTile := ct }
    let poisoned := ((List.range rows).findSome? fun i => if (rs.getD i ([], false)).2 then some (0, i) else none).orElse fun _ =>
      (List.range rows).findSome? fun i => if (sc.getD i (.nan, false)).2 then some (4, i) else none
    match poisoned with
    | some (pos, i) => s.endPoison r pos { where_ with storage := 0, row := i }
    | none =>
      let m := ofUnits m 1
      if fatal m then s.endResidue r m where_ else
      let b := r.tileBlk d (pStream r.ws + 0xC0) band ct
      let bias := toSigned 8 (pf r.ws 6 22 8)
      let (qs, acc) := (List.range rows).foldl (fun (acc : List QuantRow × SAcc) i =>
        let (q, a) := quantRow b src.format d.format (r.classRnd d.cls) (pf r.ws 6 30 2) bias i
          (sc.getD i (.nan, false)).1 (rs.getD i ([], false)).1 acc.2
        (acc.1 ++ [q], a)) ([], if scaled && ct = 0 then scaleReports b (sc.map (·.1)) {} else {})
      let (outs, acc2) := if ct = 0 && r.has 5 then
          (List.range rows).foldl (fun (a : List (List Nat) × SAcc) i =>
            let (v, e) := convert b.ctx 0 0 0 (xscale (sc.getD i (.nan, false)).1 bias)
            (a.1 ++ [[v]], a.2.ev b i 0 0 e)) ([], {})
        else ([], {})
      let q (i : Nat) : QuantRow := qs.getD i {}
      let ns := cdiv n 32
      let x := tileStored {} r d 1 band (ct * w) w (fun i => ((q i).pay, false))
      let x := tileStored x r (r.desc 2) 2 band (ct * (w / 32)) (w / 32) (fun i => ((q i).scales.take ns, false))
      let x := if r.has 3 then
        tileStored x r (r.desc 3) 3 band (ct * (w / 16)) (w / 16) (fun i => ((q i).side.take (2 * ns), false)) else x
      let x := if ct = 0 && r.has 5 then
        tileStored x r (r.desc 5) 5 band 0 1 (fun i => (outs.getD i [], false)) else x
      let sealOn (acc : Sparse Nat) (pos c0 k : Nat) (codes : Nat → List Nat) : Sparse Nat :=
        if r.has pos && (r.desc pos).sealOut then sealPart acc (r.desc pos) pos band c0 k codes else acc
      let next := sealOn r.acc 1 (ct * w) w (fun i => (q i).pay.take n)
      let next := sealOn next 2 (ct * (w / 32)) (w / 32) (fun i => (q i).scales.take ns)
      let next := sealOn next 3 (ct * (w / 16)) (w / 16) (fun i => (q i).side.take (2 * ns))
      let next := if ct = 0 then sealOn next 5 0 32 (fun i => outs.getD i []) else next
      (s.residue m).tileReady r x ((r.pend.site b 2 acc).site b 2 acc2) next

/-! ### Commit and trailer of a tile -/

/-- Issue a tile's stores in full, unless its NaN event halts the command (03 R91). -/
def tileForm (s : State) (r : Running) : State :=
  if r.traps then s.dropOutbox.endTrap r
  else { (s.post r.kept).pumpRun r with run := some { r with stage := .commit true } }

/-- The writes have their responses: the tile commits. -/
def tileFinish (s : State) (r : Running) (total : Nat) : State :=
  { s.commitPend r r.pend with
    run := some ({ r with nanSeen := r.nanSeen || r.pend.nan.isSome, tilesDone := r.tilesDone + 1 }.nextTile total) }

/-- Tiles of the tensor that a COPY, SEAL or QUANTIZE walks. -/
def Running.tileTotal (r : Running) : Nat :=
  let d := r.desc (if r.op = oSEAL then 0 else 1)
  d.bands false * d.ctiles false

/-- The seals of the tensors at the given positions. -/
def sealTrailer (s : State) (r : Running) (ps : List Nat) : State :=
  let beats := ps.flatMap fun p =>
    if r.has p && (r.desc p).sealOut then sealBeats r (r.desc p) p (tensorCrc r.acc (r.desc p) p) else []
  { (s.post beats).pumpRun r with run := some { r with stage := .trailer true } }

/-- Positions that a COPY, SEAL or QUANTIZE stores or seals. -/
def storedPositions (op : Nat) : List Nat := if op = oCOPY then [1] else if op = oSEAL then [0] else [1, 2, 3, 5]

end Sys2Proof.Machine
end

