-- ==== Sys2Proof/Machine/Partial.lean ====
section
/-! DEFINITION. PARTIAL_MERGE (06 R163-R167). -/

namespace Sys2Proof.Machine

open Sys2Proof

/-! ### Inputs -/

/-- Number of inputs. -/
def Running.inputs (r : Running) : Nat := pf r.ws 6 0 7

/-- The header words of input `p`, kept from its reading (chunk list key 0, row p). -/
def Running.header (r : Running) (p : Nat) : List Nat :=
  match r.chunks.find? (fun x => x.1 = 0 && x.2.1 = p) with
  | some x => x.2.2.2
  | none => []

/-- The body CRC formed of input `p`. -/
def Running.bodyCrc (r : Running) (p : Nat) : Nat := sget 0xFFFFFFFF r.acc p

/-- Field access to a header. -/
def hKind (h : List Nat) : Nat := bits (nth h 1) 27 3
/-- Words of a record, as the header says. -/
def hRec (h : List Nat) : Nat := 2 ^ bits (nth h 1) 25 2
/-- Per-chunk form. -/
def hPer (h : List Nat) : Bool := bit (nth h 1) 31
/-- Records of a row. -/
def hPerRow (h : List Nat) : Nat := if hPer h then nth h 5 else 1
/-- Bytes of the body. -/
def hBody (h : List Nat) : Nat := 4 * hRec h * hPerRow h * nth h 3
/-- The producer as (package, instance) in order. -/
def hProducer (h : List Nat) : Nat := nth h 6 >>> 2
/-- Two headers cover a common chunk. -/
def hOverlap (h k : List Nat) : Bool :=
  decide (nth h 4 < nth k 4 + nth k 5) && decide (nth k 4 < nth h 4 + nth h 5)

/-- The first input, 1 to n, that fails a test. -/
def firstInput (n : Nat) (bad : Nat → Bool) : Option Nat := ((List.range n).map (· + 1)).find? bad

/-- Insert an input by its first chunk. -/
def insertBy (key : Nat → Nat) (x : Nat) : List Nat → List Nat
  | [] => [x]
  | y :: ys => if key x < key y then x :: y :: ys else y :: insertBy key x ys

/-- Inputs in increasing key. -/
def sortBy (key : Nat → Nat) (l : List Nat) : List Nat := l.foldl (fun acc x => insertBy key x acc) []

/-- The chunks of the inputs, in order, leave no gap from 0 to `n` − 1. -/
def covers (hs : List (List Nat)) (n : Nat) : Bool :=
  (hs.foldl (fun (acc : Nat × Bool) h => (acc.1 + nth h 5, acc.2 && decide (nth h 4 = acc.1))) (0, true)) = (n, true)

/-- The header checks that precede the reading of bodies (R165, 0x01 and 0x02): reason and position. -/
def headerFault (r : Running) : Option (Nat × Nat) :=
  let n := r.inputs
  ((firstInput n fun p => nth (r.header p) 0 != 0x50580031).map fun p => (0x01, p)).orElse fun _ =>
  (firstInput n fun p => nth (r.header p) 15 != crcWords ((r.header p).take 15)).map fun p => (0x02, p)

/-- The remaining checks, in order (R165): status, reason, position, value. -/
def mergeFault (r : Running) : Option (Nat × Nat × Nat × Nat) :=
  let n := r.inputs
  let h (p : Nat) : List Nat := r.header p
  let f (p k : Nat) : Nat := nth (h p) k
  let differs (k : Nat) (p : Nat) : Bool := f p k != f 1 k
  let bad (reason : Nat) (o : Option Nat) : Option (Nat × Nat × Nat × Nat) := o.map fun p => (0x11, reason, p, 0)
  let earlier (p : Nat) (t : Nat → Bool) : Bool := ((List.range (p - 1)).map (· + 1)).any t
  let hs := (sortBy (fun p => f p 4) ((List.range n).map (· + 1))).map h
  (bad 0x03 (firstInput n fun p => r.bodyCrc p ^^^ 0xFFFFFFFF != f p 12)).orElse fun _ =>
  (bad 0x04 (firstInput n fun p => hKind (h p) != hKind (h 1) || hPer (h p) != hPer (h 1) || hRec (h p) != hRec (h 1) ||
    decide (hKind (h p) > 5) || hRec (h p) != recWords (hKind (h p)))).orElse fun _ =>
  (bad 0x05 (firstInput n fun p => differs 2 p || differs 3 p || differs 13 p)).orElse fun _ =>
  (bad 0x06 (firstInput n (differs 11))).orElse fun _ =>
  (bad 0x07 (firstInput n fun p => earlier p fun k => hOverlap (h p) (h k))).orElse fun _ =>
  (bad 0x08 (if bit (nth r.ws 6) 31 && hPer (h 1) && !covers hs (cdiv (f 1 13) (chunkLen r.g2)) then some 0xFF
    else none)).orElse fun _ =>
  (bad 0x09 (if hPer (h 1) then none else firstInput n fun p => earlier p fun k => hProducer (h p) = hProducer (h k))).orElse fun _ =>
  ((firstInput n fun p => differs 9 p || differs 10 p).map fun p => (0x12, 0, p, f p 9 + f p 10 <<< 32)).orElse fun _ =>
  (firstInput n fun p => differs 7 p || differs 8 p).map fun p => (0x13, 0, p, f p 7 + f p 8 <<< 32)

/-- Read the header of input `r.pass`. -/
def mergeHeader (s : State) (r : Running) : State :=
  let p := r.pass
  let d := r.desc p
  match s.askRun r (wantAt p (byteLines d.base 64)) with
  | .fault _ => s
  | .wait s => s
  | .ready s buf =>
    let (h, poison) := bufWords buf d.base 16
    if poison then s.endPoison r p { kind := 1, storage := 6, source := 6 }
    else
      let r := { r with chunks := r.chunks ++ [(0, p, 0, h)] }
      if p < r.inputs then { s with run := some { r with pass := p + 1 } }
      else match headerFault r with
        | some (reason, q) => s.refuseRun r 0x11 reason q 0
        | none => { s with run := some { r with pass := 1, stage := .staging 1 } }

/-- Read the next 4,096 bytes of the body of input `r.pass`; `t` counts from 1. -/
def mergeBody (s : State) (r : Running) (t : Nat) : State :=
  let p := r.pass
  let d := r.desc p
  let len := hBody (r.header p)
  let off := 4096 * (t - 1)
  let next (s : State) (r : Running) : State :=
    if p < r.inputs then { s with run := some { r with pass := p + 1, stage := .staging 1 } }
    else match mergeFault r with
      | some (st, reason, q, v) => s.refuseRun r st reason q v
      | none => { s with run := some { r with pass := 0, stage := .load, unit := 0 } }
  if off ≥ len then next s r else
  let n := Nat.min 4096 (len - off)
  match s.askRun r (wantAt p (byteLines (exportBody d + off) n)) with
  | .fault _ => s
  | .wait s => s
  | .ready s buf =>
    let (x, poison) := bufBytes buf (exportBody d + off) n
    if poison then s.endPoison r p { kind := 1, storage := 6, source := 6 }
    else { s with run := some { r with acc := sput r.acc p (crcRun n (r.bodyCrc p) x), stage := .staging (t + 1) } }

/-! ### Merging a band (R166) -/

/-- The record of chunk or instance entry `k` of row `row` in input `p`. -/
def inputRec (buf : Sparse RdLine) (r : Running) (p row k : Nat) : List Nat :=
  let h := r.header p
  let n := 4 * hRec h
  (bufWords buf (exportBody (r.desc p) + n * (row * hPerRow h + k)) (hRec h)).1

/-- The output is of per-chunk form. -/
def Running.mergePer (r : Running) : Bool := hPer (r.header 1) && !bit (nth r.ws 6) 31

/-- One row of the merge: its output words, and what the folds flushed and saturated. -/
def mergeRowOut (buf : Sparse RdLine) (r : Running) (row : Nat) : List Nat × RAcc :=
  let h1 := r.header 1
  let kind := hKind h1
  let ps := (List.range r.inputs).map (· + 1)
  let order := sortBy (fun p => if hPer h1 then nth (r.header p) 4 else hProducer (r.header p)) ps
  let recs := order.flatMap fun p => (List.range (hPerRow (r.header p))).map fun k => inputRec buf r p row k
  if r.mergePer then (recs.flatten, {}) else
  let (v, acc) := recs.foldl (fun (a : SVals × RAcc) ws =>
    foldKind r.cfg.ctx kind 0 a.1 (putRec kind ⟨0, 0, 0, 0, 0⟩ ws) a.2) (clearKind kind ⟨0, 0, 0, 0, 0⟩, {})
  (recOf kind v, acc)

/-- Records of a row of the output. -/
def Running.outPerRow (r : Running) : Nat :=
  if r.mergePer then (((List.range r.inputs).map fun k => nth (r.header (k + 1)) 5).foldl (· + ·) 0) else 1

/-- Lines of the inputs' records for an output band. -/
def mergeLines (r : Running) (row0 rows : Nat) : List (Nat × Nat) :=
  (List.range r.inputs).flatMap fun k =>
    let p := k + 1
    let n := 4 * hRec (r.header p) * hPerRow (r.header p)
    if n * rows = 0 then [] else wantAt p (byteLines (exportBody (r.desc p) + n * row0) (n * rows))

/-- Merge the next output band of 32 rows. DESIGN CHOICE (log 62): a NaN that a fold forms here is no NaN event of
R87, since R440 gives an event to a reducing stage alone. -/
def mergeBand (s : State) (r : Running) : State :=
  let row0 := 32 * r.unit
  let rows := Nat.min 32 (nth (r.header 1) 3 - row0)
  let ask := mergeLines r row0 rows
  match s.askRun r ask with
  | .fault _ => s
  | .wait s => s
  | .ready s buf =>
    match ask.find? (fun w => (bufLine buf w.1).poison) with
    | some w => s.endPoison r w.2 { kind := 1, storage := 6, source := 6, band := r.unit }
    | none =>
      let (out, p) := (List.range rows).foldl (fun (a : List Nat × Pend) i =>
        let (ws, acc) := mergeRowOut buf r (row0 + i)
        (a.1 ++ ws, (a.2.add cFTZ acc.flushes).add 15 (if acc.sat then 1 else 0))) ([], {})
      let rowBytes := 4 * hRec (r.header 1) * r.outPerRow
      let beats := if out.isEmpty then [] else
        plainBeats (exportBody (r.desc 0) + row0 * rowBytes) (4 * out.length) (pack 32 out) 0 ownCmd 0
      s.tileReady r { beats := beats } p (sset 0 r.acc (bandKey r.unit 0) (crcRun (4 * out.length) 0 (pack 32 out)))

/-- Output bands of a merge. -/
def Running.mergeBands (r : Running) : Nat := cdiv (nth (r.header 1) 3) 32

/-- The next piece of a PARTIAL_MERGE: a header, a part of a body, or an output band. -/
def mergeStep (s : State) (r : Running) : State :=
  match r.stage with
  | .verify pos tile crc => verifyStep s r pos tile crc
  | .load =>
    if r.chunks.isEmpty then { s with run := some { r with pass := 1, stage := .staging 0 } }
    else if r.unit ≥ r.mergeBands then { s with run := some { r with stage := .trailer false } }
    else mergeBand s r
  | .staging t => if t = 0 then mergeHeader s r else mergeBody s r t
  | _ => s

/-- The header of the output (R166). DESIGN CHOICE (log 63): where the inputs leave a gap, which no header can
name, first_chunk is the lowest input's and chunk_count the sum of the counts. -/
def mergeTrailer (s : State) (r : Running) : State :=
  let h := r.header 1
  let rowBytes := 4 * hRec h * r.outPerRow
  let hs := (List.range r.inputs).map fun k => r.header (k + 1)
  let x : ExportHdr :=
    { perChunk := r.mergePer, folded := hPer h && !r.mergePer, kind := hKind h, firstRow := nth h 2, rows := nth h 3
      firstChunk := hs.foldl (fun a h => Nat.min a (nth h 4)) (nth h 4), chunks := (hs.map fun h => nth h 5).foldl (· + ·) 0
      step := nth h 7 + nth h 8 <<< 32, almanac := nth h 9 + nth h 10 <<< 32, tensorId := nth h 11
      bodyCrc := joinBands r.acc 0 r.mergeBands (fun b => Nat.min 32 (nth h 3 - 32 * b) * rowBytes), rowLen := nth h 13 }
  { (s.post (plainBeats (r.desc 0).base 64 (pack 32 (x.words r.producerWord)) 0 ownCmd 0)).pumpRun r with
    run := some { r with stage := .trailer true } }

end Sys2Proof.Machine
end

