-- ==== Sys2Proof/Machine/Staging.lean ====
section
/-! DEFINITION. The array token, and the staging and sending of a K segment: pinned registers, stars, panels, control words
and beats (01 R36-R39; 08 R193-R201, R211-R214; 17 R404, R405, R409). -/

namespace Sys2Proof.Machine

open Sys2Proof

/-! ### The array token -/

/-- The partner's command stands ahead of queue `q` (01 R38). -/
def Pair.partnerAhead (p : Pair) (q : BitVec 2) : Bool := p.partnerReq && decide (p.partnerQueue < q)

/-- The holder must hand the token over at this boundary (01 R38, 17 R409): twin A sees a partner of higher priority
waiting; twin B sees the release signal. -/
def State.handoverDue (s : State) (q : BitVec 2) : Bool :=
  s.pair.token && s.pair.mode = .split && !s.pair.detached &&
  (if s.isA then s.pair.partnerAhead q else s.pair.releaseSeen)

/-- Hand the token over at a K-segment boundary (01 R38). -/
def State.handOver (s : State) : State := { s with pair := { s.pair.lower s.isA with request := true } }

/-! ### Geometry of a segment -/

/-- One operand of a product: the positions of its tensor, planes and index, its mode, and the rows of its staged view. -/
structure Side where
  id : Nat
  pos : Nat
  sc : Nat
  sd : Nat
  ix : Nat
  tr : Bool
  gather : Bool
  total : Nat
  deriving DecidableEq, Repr

/-- Operand `k` of an array command: 0 a or q, 1 b or k, 2 v. V has no sidecar. -/
def Running.side (r : Running) (k : Nat) : Side :=
  let mode := pf r.ws 6 (30 - 2 * k) 2
  let pos := 4 * k
  { id := k, pos := pos, sc := pos + 1, sd := if k = 2 then 99 else pos + 2, ix := if k = 2 then 10 else pos + 3
    tr := mode = 1, gather := mode = 2, total := (r.desc pos).rLocal (mode = 1) }

/-- A K segment of a product over one array block (R193). `nb` bands of operand B are staged of the `nc` / 32 sent, and
rows of B at or beyond `bLimit` are staged as code 0 (09 R224). -/
structure Seg where
  mr : Nat
  nc : Nat
  nb : Nat
  aRow0 : Nat
  bRow0 : Nat
  bLimit : Nat
  k0 : Nat
  k1 : Nat
  l : Nat
  kseg : Nat
  base : Nat
  a : Side
  b : Side
  pre : Nat
  demote : Bool
  deriving DecidableEq, Repr

/-- Format of operand `x`. -/
def Running.fmtOf (r : Running) (x : Side) : Nat := (r.desc x.pos).format

/-- Bands of a segment's operand that are staged. -/
def Seg.bandsOf (g : Seg) (x : Side) : Nat := if x.id = 0 then g.mr / 32 else g.nb
/-- First row of a segment's operand. -/
def Seg.row0 (g : Seg) (x : Side) : Nat := if x.id = 0 then g.aRow0 else g.bRow0
/-- Rows of an operand at or beyond this one are staged as code 0. -/
def Seg.limit (g : Seg) (x : Side) : Nat := if x.id = 0 then x.total else g.bLimit

/-- Registers of one part of the staging area (R194): payload 0, scale plane 1, sidecar plane 2 of an operand. -/
def Seg.perBand (g : Seg) (r : Running) (x : Side) (kind : Nat) : Nat :=
  if kind = 0 then cdiv g.l (tileWidth (r.fmtOf x))
  else if kind = 1 then (if r.has x.sc then cdiv g.l 4096 else 0)
  else if r.has x.sd then cdiv g.l 512 else 0

/-- Number of registers of one part. -/
def Seg.count (g : Seg) (r : Running) (x : Side) (kind : Nat) : Nat := g.bandsOf x * g.perBand r x kind

/-- First register of one part: operands, scale planes, sidecar planes, each A before B, in the order of R194 (log 17). -/
def Seg.first (g : Seg) (r : Running) (x : Side) (kind : Nat) : Nat :=
  let n (k : Nat) : Nat := g.count r g.a k + g.count r g.b k
  g.base + ((List.range kind).map n).foldl (· + ·) 0 + (if x.id = 0 then 0 else g.count r g.a kind)

/-- The first landing register. -/
def Seg.landing (g : Seg) (r : Running) : Nat := g.first r g.a 3
/-- The first preload register. -/
def Seg.preReg (g : Seg) (r : Running) : Nat := g.landing r + 2
/-- Preload registers. -/
def Seg.preCount (g : Seg) : Nat :=
  if g.pre = 1 then g.nc / 32 else if g.pre = 2 then g.mr / 32 * (g.nc / 32) else 0
/-- A sidecar plane is named. -/
def Seg.starred (g : Seg) (r : Running) : Bool := r.has g.a.sd || r.has g.b.sd
/-- The first panel register. -/
def Seg.panelReg (g : Seg) (r : Running) : Nat := g.preReg r + g.preCount
/-- One past the registers of a segment. -/
def Seg.past (g : Seg) (r : Running) : Nat := g.panelReg r + (if g.starred r then g.mr / 32 + g.nb else 0)

/-! ### Staging a register (R197) -/

/-- What a staged register holds: part `kind` (3: preload) of the tensor at `pos`, view rows from `row0`, columns c0 to
c1 − 1; the rest is `fill`. -/
structure Item where
  reg : Nat
  kind : Nat
  side : Side
  pos : Nat
  row0 : Nat
  limit : Nat
  c0 : Nat
  c1 : Nat
  deriving DecidableEq, Repr

/-- Columns that an element tensor's unit of `w` takes: part kinds count K in elements, micro-blocks and half words. -/
def Seg.partItems (g : Seg) (r : Running) (x : Side) (kind : Nat) : List Item :=
  let pos := if kind = 0 then x.pos else if kind = 1 then x.sc else x.sd
  let w := if kind = 0 then tileWidth (r.fmtOf x) else if kind = 1 then 128 else 32
  let (lo, hi) :=
    if kind = 0 then (g.k0, g.k1)
    else if kind = 1 then (g.k0 / 32, cdiv g.k1 32)
    else (2 * (g.k0 / 32), 2 * cdiv g.k1 32)
  let per := g.perBand r x kind
  (List.range (g.bandsOf x)).flatMap fun u => (List.range (Nat.min per (cdiv (hi - lo) w))).map fun t =>
    { reg := g.first r x kind + u * per + t, kind := kind, side := x, pos := pos, row0 := g.row0 x + 32 * u
      limit := g.limit x, c0 := lo + t * w, c1 := Nat.min hi (lo + (t + 1) * w) }

/-- The preload registers, for segment 0 (R200). -/
def Seg.preItems (g : Seg) (r : Running) : List Item :=
  if g.kseg != 0 || g.pre = 0 then [] else
  let nv := g.nc / 32
  (List.range g.preCount).map fun k =>
    let u := if g.pre = 1 then 0 else k / nv
    let v := if g.pre = 1 then k else k % nv
    { reg := g.preReg r + k, kind := 3, side := g.a, pos := 8, row0 := if g.pre = 1 then 0 else g.aRow0 + 32 * u
      limit := 0, c0 := g.bRow0 + 32 * v, c1 := g.bRow0 + 32 * v + 32 }

/-- Everything that a segment stages, in order. -/
def Seg.items (g : Seg) (r : Running) : List Item :=
  g.partItems r g.a 0 ++ g.partItems r g.b 0 ++
  (if r.has g.a.sc then g.partItems r g.a 1 else []) ++ (if r.has g.b.sc then g.partItems r g.b 1 else []) ++
  (if r.has g.a.sd then g.partItems r g.a 2 else []) ++ (if r.has g.b.sd then g.partItems r g.b 2 else []) ++
  g.preItems r

/-- The key of a gather index. -/
def ixKey (side rho : Nat) : Nat := side * 2 ^ 40 + rho

/-- The gather index of row ρ of an operand, with the poison mark of its row. -/
def Running.sideIx (r : Running) (x : Side) (rho : Nat) : Option (Int × Bool) :=
  if !x.gather then none else
  let v := sget 0 r.prod.index (ixKey x.id rho)
  some (toSigned 32 v, bit v 33)

/-- Lines of a staged register. -/
def Item.lines (it : Item) (r : Running) : List (Nat × Nat) :=
  let d := r.desc it.pos
  wantAt it.pos (
    if it.kind = 3 then
      let c := Nat.min it.c0 (d.cLocal false - 1)
      (List.range 32).flatMap fun i => rowLines d false none (Nat.min (it.row0 + i) (d.rLocal false - 1)) c 32
    else
      let tr := it.kind = 0 && it.side.tr
      (List.range (Nat.min 32 (it.limit - it.row0))).flatMap fun i =>
        rowLines d tr ((r.sideIx it.side (it.row0 + i)).map (·.1)) (it.row0 + i) it.c0 (it.c1 - it.c0))

/-- One row of a staged register: codes inside the segment, and code 0, exponent 0 or an empty sidecar elsewhere (R197). -/
def Item.row (it : Item) (r : Running) (buf : Sparse RdLine) (i : Nat) : TileRow :=
  let d := r.desc it.pos
  if it.kind = 3 then (loadRow buf d false none r.producer (it.row0 + i) it.c0 32).1
  else
    let w := tileWidth d.format
    let fill := List.replicate w (if it.kind = 1 then 127 else 0)
    let rho := it.row0 + i
    if rho ≥ it.limit then freshRow r.producer d.format false (BitVec.ofNat 1024 (pack (fmtBits d.format) fill))
    else
      let g := r.sideIx it.side rho
      let (cs, _, p) := readRow buf d (it.kind = 0 && it.side.tr) (g.map (·.1)) rho it.c0 (it.c1 - it.c0)
      freshRow r.producer d.format (p || g.any (·.2)) (BitVec.ofNat 1024 (pack (fmtBits d.format) ((cs ++ fill).take w)))

/-- Write a staged register. -/
def Item.load (it : Item) (r : Running) (buf : Sparse RdLine) (a : Arch) : Arch :=
  (List.range 32).foldl (fun a i => a.setRow it.reg i (it.row r buf i)) a

/-! ### Gather indices (10 R249) -/

/-- Rows of an operand that a block stages. -/
def Seg.rowsOf (g : Seg) (x : Side) : List Nat :=
  (List.range (Nat.min (32 * g.bandsOf x) (g.limit x - g.row0 x))).map (· + g.row0 x)

/-- Lines of the gather indices of a block. -/
def Seg.indexLines (g : Seg) (r : Running) (xs : List Side) : List (Nat × Nat) :=
  (xs.filter (·.gather)).flatMap fun x => (g.rowsOf x).flatMap fun rho =>
    wantAt x.ix (rowLines (r.desc x.ix) false none rho 0 1)

/-- Keep the gather indices of a block. -/
def Seg.keepIndex (g : Seg) (r : Running) (xs : List Side) (buf : Sparse RdLine) : Sparse Nat :=
  (xs.filter (·.gather)).foldl (fun m x => (g.rowsOf x).foldl (fun m rho =>
    let (cs, _, p) := readRow buf (r.desc x.ix) false none rho 0 1
    sput m (ixKey x.id rho) (nth cs 0 % 2 ^ 32 + 2 ^ 32 + (if p then 2 ^ 33 else 0))) m) []

/-- A key of `counted`: what is counted, for which operand's band, in which segment. -/
def countKey (what side band k : Nat) : Nat := ((what * 4 + side) * 2 ^ 32 + band) * 2 ^ 20 + k

/-- Count the clamped gather indices of the bands that have not been counted in this command (R197, 03 R438). -/
def Seg.countClamps (g : Seg) (xs : List Side) (r : Running) : Running :=
  (xs.filter (·.gather)).foldl (fun r x => (List.range (g.bandsOf x)).foldl (fun r u =>
    let row0 := g.row0 x + 32 * u
    let key := countKey 0 x.id (row0 / 32) 0
    if r.prod.counted.contains key then r else
    let n := ((List.range (Nat.min 32 (g.limit x - row0))).filter fun i =>
      (r.sideIx x (row0 + i)).any fun v => (r.desc x.pos).gatherClamped v.1).length
    { r with pend := r.pend.add cGATHER n, prod := { r.prod with counted := key :: r.prod.counted } }) r) r

/-! ### Stars (R211-R214) -/

/-- The staged registers of band `u`, part `kind`, tile `t`. -/
def Seg.reg (g : Seg) (r : Running) (x : Side) (kind u t : Nat) : Nat := g.first r x kind + u * g.perBand r x kind + t

/-- The payload code staged for row i of band u at K index k. -/
def Seg.payAt (g : Seg) (r : Running) (a : Arch) (x : Side) (u i k : Nat) : Nat :=
  let f := r.fmtOf x
  let j := k - g.k0
  nth (unpack (fmtBits f) (tileWidth f) (a.row (g.reg r x 0 u (j / tileWidth f)) i).bytes) (j % tileWidth f)

/-- The scale code staged for row i of band u and micro-block q of the whole K; 127 without a plane. -/
def Seg.scaleAt (g : Seg) (r : Running) (a : Arch) (x : Side) (u i q : Nat) : Nat :=
  if !r.has x.sc then 127 else
  let j := q - g.k0 / 32
  bits (a.row (g.reg r x 1 u (j / 128)) i).bytes (8 * (j % 128)) 8

/-- The sidecar word staged for row i of band u and micro-block q. -/
def Seg.sideAt (g : Seg) (r : Running) (a : Arch) (x : Side) (u i q : Nat) : Nat :=
  if !r.has x.sd then 0 else
  let j := q - g.k0 / 32
  bits (a.row (g.reg r x 2 u (j / 16)) i).bytes (64 * (j % 16)) 64

/-- Micro-block q lies in the segment. -/
def Seg.holdsBlock (g : Seg) (q : Nat) : Bool := decide (g.k0 / 32 ≤ q) && decide (q < cdiv g.k1 32)

/-- Micro-blocks of K window `w` (1,024 indices). -/
def windowBlocks (kTotal w : Nat) : List Nat := (List.range (Nat.min 32 (cdiv kTotal 32 - 32 * w))).map (· + 32 * w)

/-- K windows that a segment touches. -/
def Seg.windows (g : Seg) : List Nat := (List.range (cdiv g.k1 1024 - g.k0 / 1024)).map (· + g.k0 / 1024)

/-- Local K of a product. -/
def Running.kTotal (r : Running) (x : Side) : Nat := (r.desc x.pos).cLocal x.tr

/-- Operands that carry stars. -/
def Seg.starSides (g : Seg) (r : Running) : List Side := [g.a, g.b].filter fun x => r.has x.sd

/-- Rows of a band that lie inside an operand. -/
def Seg.bandRows (g : Seg) (x : Side) (u : Nat) : Nat := Nat.min 32 (g.limit x - (g.row0 x + 32 * u))

/-- Planes outside the segment that the selection in its windows reads: positions and lines. -/
def Seg.extraLines (g : Seg) (r : Running) : List (Nat × Nat) :=
  (g.starSides r).flatMap fun x => g.windows.flatMap fun w =>
    ((windowBlocks (r.kTotal x) w).filter fun q => !g.holdsBlock q).flatMap fun q =>
      (g.rowsOf x).flatMap fun rho =>
        let ix := (r.sideIx x rho).map (·.1)
        wantAt x.sd (rowLines (r.desc x.sd) false ix rho (2 * q) 2) ++
        (if r.has x.sc then wantAt x.sc (rowLines (r.desc x.sc) false ix rho q 1) else [])

/-- A sidecar word with its scale code for row i of band u, micro-block q, staged or read beside the segment; and whether a
line it came from was poisoned. -/
def Seg.starWord (g : Seg) (r : Running) (a : Arch) (buf : Sparse RdLine) (x : Side) (u i q : Nat) :
    (Nat × Nat) × Bool :=
  if g.holdsBlock q then ((g.sideAt r a x u i q, g.scaleAt r a x u i q), false)
  else
    let rho := g.row0 x + 32 * u + i
    let ix := (r.sideIx x rho).map (·.1)
    let (ws, _, p) := readRow buf (r.desc x.sd) false ix rho (2 * q) 2
    let (cs, _, p') := if r.has x.sc then readRow buf (r.desc x.sc) false ix rho q 1 else ([127], [], false)
    ((nth ws 0 + nth ws 1 <<< 32, nth cs 0), p || p')

/-- The stars of a micro-block (07 R178), as K indices with their BF16 codes. -/
def starsOf (kTotal q : Nat) (wc : Nat × Nat) : List (Nat × Nat) :=
  match (readSidecar wc.1 wc.2 (Nat.min 32 (kTotal - 32 * q))).1 with
  | .stars l => l.map fun s => (32 * q + s.1, s.2)
  | _ => []

/-- Insert by decreasing count, ties to the lower K index. -/
def insertRank (x : Nat × Nat) : List (Nat × Nat) → List (Nat × Nat)
  | [] => [x]
  | y :: ys => if y.2 < x.2 then x :: y :: ys else y :: insertRank x ys

/-- The positions kept of a panel group (R211): `ps` lists the K index of every star of the group. -/
def keptOf (ps : List Nat) : List Nat :=
  let ks := sortBy id (dedup ps)
  if ks.length ≤ 32 then ks
  else
    let ranked := (ks.map fun k => (k, (ps.filter (· = k)).length)).foldl (fun acc x => insertRank x acc) []
    sortBy id ((ranked.take 32).map (·.1))

/-- The positions that band u of an operand keeps in window w. -/
def Seg.kept (g : Seg) (r : Running) (a : Arch) (buf : Sparse RdLine) (x : Side) (u w : Nat) : List Nat :=
  if g.demote || !r.has x.sd then [] else
  keptOf ((List.range (g.bandRows x u)).flatMap fun i => (windowBlocks (r.kTotal x) w).flatMap fun q =>
    (starsOf (r.kTotal x) q (g.starWord r a buf x u i q).1).map (·.1))

/-- The selection of a segment: operand, band, window, kept positions. -/
def Seg.selection (g : Seg) (r : Running) (a : Arch) (buf : Sparse RdLine) : List (Nat × Nat × Nat × List Nat) :=
  (g.starSides r).flatMap fun x => (List.range (g.bandsOf x)).flatMap fun u =>
    g.windows.map fun w => (x.id, u, w, g.kept r a buf x u w)

/-- The kept positions of a selection. -/
def keptIn (sel : List (Nat × Nat × Nat × List Nat)) (x : Side) (u w : Nat) : List Nat :=
  match sel.find? (fun e => e.1 = x.id && e.2.1 = u && e.2.2.1 = w) with
  | some e => e.2.2.2
  | none => []

/-- Replace element `j` of a tile row held in format `f`, as a new row. -/
def TileRow.put (t : TileRow) (producer f j v : Nat) : TileRow :=
  freshRow producer f t.tag.poison (BitVec.ofNat 1024 (putBits t.bytes (j * fmtBits f) (fmtBits f) v))

/-- Rewrite the staged payload code of row i of band u at K index k. -/
def Seg.setPay (g : Seg) (r : Running) (x : Side) (u i : Nat) (a : Arch) (kc : Nat × Nat) : Arch :=
  let w := tileWidth (r.fmtOf x)
  let j := kc.1 - g.k0
  let reg := g.reg r x 0 u (j / w)
  a.setRow reg i ((a.row reg i).put r.producer (r.fmtOf x) (j % w) kc.2)

/-- The NaN event of a demoted star (02 R62): a conversion of the Tile Mover, on the operand's own tile. DESIGN CHOICE (log 55). -/
def Seg.demoteNan (g : Seg) (r : Running) (x : Side) (u i k : Nat) : NanEv :=
  let rho := g.row0 x + 32 * u + i
  let w := tileWidth (r.fmtOf x)
  { consumed := false, source := 1, pass := 0, stage := 0, uop := 0, fmt := r.fmtOf x, band := rho / 32, colTile := k / w
    row := rho % 32, col := k % w }

/-- What demoting one star counts (07 R189). -/
def Seg.demoteEv (g : Seg) (r : Running) (x : Side) (u i : Nat) (p : Pend) (k : Nat) (e : Ev) : Pend :=
  let p := p.add cSTARDEM 1
  let p := p.add (r.fmtOf x) (if e.sat then 1 else 0)
  let p := p.add cNANDROP (if e.nanDrop then 1 else 0)
  let p := p.add cFTZ (if e.flush then 1 else 0)
  if e.nanProd then (p.add cNANPROD 1).addNan r.g2 (tileWidth (r.fmtOf x)) (g.demoteNan r x u i k) else p

/-- Make the staged copy of one micro-block what the array is to receive (R199, R214; 07 R178, R189): stars that are not kept
are demoted into the payload, the payload code at a kept star is ignored, and a zero block holds zero payload under code 0. -/
def Seg.demoteBlock (g : Seg) (r : Running) (x : Side) (kept : List Nat) (u i q : Nat) (acc : Arch × Pend) : Arch × Pend :=
  let (a, p) := acc
  let f := r.fmtOf x
  let len := Nat.min 32 (r.kTotal x - 32 * q)
  match (readSidecar (g.sideAt r a x u i q) (g.scaleAt r a x u i q) len).1 with
  | .nan => acc
  | .zero =>
    let a := (List.range len).foldl (fun a k => g.setPay r x u i a (32 * q + k, 0)) a
    let j := q - g.k0 / 32
    let reg := g.reg r x 1 u (j / 128)
    (if r.has x.sc then a.setRow reg i ((a.row reg i).put r.producer 12 (j % 128) 0) else a, p)
  | .stars l =>
    if l.isEmpty then acc else
    let (a, p) := l.foldl (fun (acc : Arch × Pend) s =>
      let k := 32 * q + s.1
      if kept.contains k then (g.setPay r x u i acc.1 (k, 0), acc.2)
      else
        let (c, e) := demoteStar r.cfg.ctx f s.2
        (g.setPay r x u i acc.1 (k, c), g.demoteEv r x u i acc.2 k e)) (a, p)
    let left := sidecarWord (l.filter fun s => kept.contains (32 * q + s.1))
    let j := q - g.k0 / 32
    let reg := g.reg r x 2 u (j / 16)
    let t := ((a.row reg i).put r.producer 15 (2 * (j % 16)) (left % 2 ^ 32)).put r.producer 15 (2 * (j % 16) + 1) (left >>> 32)
    (a.setRow reg i t, p)

/-- Malformed sidecar words of one row and micro-block. -/
def Seg.malformed (g : Seg) (r : Running) (a : Arch) (x : Side) (u i q : Nat) : Nat :=
  if (readSidecar (g.sideAt r a x u i q) (g.scaleAt r a x u i q) (Nat.min 32 (r.kTotal x - 32 * q))).2 then 1 else 0

/-- Counts of one site, its first NaN event among them, behind what is pending. -/
def Pend.join (p q : Pend) (g2 : Bool) (w : Nat) : Pend :=
  let p := q.counts.foldl (fun p kn => p.add kn.1 kn.2) p
  match q.nan with
  | some e => p.addNan g2 w e
  | none => p

/-- Demote what the selection removes, and count each star and each malformed word once per product (R214, 07 R178). -/
def Seg.demoteAll (g : Seg) (sel : List (Nat × Nat × Nat × List Nat)) (ar : Arch × Running) : Arch × Running :=
  let r := ar.2
  (g.starSides r).foldl (fun ar x => (List.range (g.bandsOf x)).foldl (fun ar u =>
    let key := countKey 1 x.id (g.row0 x / 32 + u) g.kseg
    let qs := (List.range (cdiv g.k1 32 - g.k0 / 32)).map (· + g.k0 / 32)
    let iq := (List.range (g.bandRows x u)).flatMap fun i => qs.map fun q => (i, q)
    let mal := (iq.map fun p => g.malformed r ar.1 x u p.1 p.2).foldl (· + ·) 0
    let (a, p) := iq.foldl (fun acc p => g.demoteBlock r x (keptIn sel x u (p.2 / 32)) u p.1 p.2 acc) (ar.1, {})
    if ar.2.prod.counted.contains key then (a, ar.2) else
    (a, { ar.2 with
      pend := (ar.2.pend.join p r.g2 (tileWidth (r.fmtOf x))).add cSIDEMAL mal
      prod := { ar.2.prod with counted := key :: ar.2.prod.counted } })) ar) ar

/-- The value of row i of band u at K index k without its row scale: its star where `stars` and the star is kept, else its
payload, or 0 at a kept star when `stars` is false (R212). -/
def Seg.panelValue (g : Seg) (r : Running) (a : Arch) (x : Side) (kept : List Nat) (u i k : Nat) (stars : Bool) : XVal :=
  if i ≥ g.bandRows x u then .fin false 0 1 else
  let q := k / 32
  let c := g.scaleAt r a x u i q
  let word := g.sideAt r a x u i q
  match (readSidecar word c (Nat.min 32 (r.kTotal x - 32 * q))).1 with
  | .nan => .nan
  | .zero => .fin false 0 1
  | .stars l =>
    let v := match (if kept.contains k then starAt l (k % 32) else none) with
      | some s => if stars then readVal r.cfg.ctx 1 s else .fin false 0 1
      | none => readVal r.cfg.ctx (r.fmtOf x) (g.payAt r a x u i k)
    xscale v ((c : Int) - 127)

/-- The star alone: +0 where row i keeps none at k. -/
def Seg.panelStar (g : Seg) (r : Running) (a : Arch) (x : Side) (kept : List Nat) (u i k : Nat) : XVal :=
  if i ≥ g.bandRows x u || !kept.contains k then .fin false 0 1 else
  let q := k / 32
  let c := g.scaleAt r a x u i q
  match (starsOf (r.kTotal x) q (g.sideAt r a x u i q, c)).find? (fun s => s.1 = k) with
  | some s => xscale (readVal r.cfg.ctx 1 s.2) ((c : Int) - 127)
  | none => .fin false 0 1

/-- The panel columns of a window: K index, and whether it is a column of the A panel (R212). -/
def Seg.panelCols (g : Seg) (sel : List (Nat × Nat × Nat × List Nat)) (w : Nat) : List (Nat × Bool) :=
  let cols (x : Side) : List Nat :=
    sortBy id (dedup (((List.range (g.bandsOf x)).flatMap fun u => keptIn sel x u w).filter fun k =>
      decide (g.k0 ≤ k) && decide (k < g.k1)))
  (cols g.a).map (fun k => (k, true)) ++ (cols g.b).map (fun k => (k, false))

/-- One panel register of an operand's band: up to 64 columns in BF16, and the conversions that saturated and that flushed. -/
def Seg.panelRow (g : Seg) (r : Running) (a : Arch) (sel : List (Nat × Nat × Nat × List Nat)) (x : Side) (u i : Nat)
    (cols : List (Nat × Bool)) : List Nat × Nat × Nat :=
  cols.foldl (fun (acc : List Nat × Nat × Nat) kc =>
    let kept := keptIn sel x u (kc.1 / 1024)
    let own := (x.id = 0) == kc.2
    let v := if own then g.panelStar r a x kept u i kc.1 else g.panelValue r a x kept u i kc.1 (x.id != 0)
    let (c, e) := convert r.cfg.ctx 1 0 0 v
    (acc.1 ++ [c], acc.2.1 + (if e.sat then 1 else 0), acc.2.2 + (if e.flush then 1 else 0))) ([], 0, 0)

/-! ### Sending (R199-R201, R404) -/

/-- Drive a transfer on the array port; twin B of LOCKSTEP drives none (R220). -/
def State.driveMxa (s : State) (r : Running) (w : Wire) : State := if r.mirror then s else s.drive w

/-- Beat β of tile register `reg`. -/
def regBeat (a : Arch) (reg b : Nat) : BitVec 4096 :=
  BitVec.ofNat 4096 (pack 1024 ((List.range 4).map fun i => (a.row reg (4 * b + i)).bytes))

/-- The eight beats of a register. -/
def regBeats (a : Arch) (reg : Nat) : List (BitVec 4096) := (List.range 8).map (regBeat a reg)

/-- A scale entry (R199). -/
def scaleEntry (nan : Bool) (c : Nat) : Nat :=
  (if nan then 2 ^ 15 else 0) + (if c = 255 then 0 else ofSigned 10 ((c : Int) - 127))

/-- The scale beats of one main step of an operand: `rows` rows sent, of which the staged bands hold the first. -/
def Seg.scaleBeats (g : Seg) (r : Running) (a : Arch) (x : Side) (rows step : Nat) : List (BitVec 4096) :=
  let w := tileWidth (r.fmtOf x)
  let per := w / 32
  let es := (List.range rows).flatMap fun n => (List.range per).map fun k =>
    let q := g.k0 / 32 + step * per + k
    if n / 32 ≥ g.bandsOf x || q ≥ cdiv g.k1 32 then 0
    else
      let c := g.scaleAt r a x (n / 32) (n % 32) q
      scaleEntry (c = 255 || bit (g.sideAt r a x (n / 32) (n % 32) q) 49) c
  (List.range (cdiv es.length 256)).map fun k => BitVec.ofNat 4096 (pack 16 ((es.drop (256 * k)).take 256))

/-- The beats of an operand's main steps, each with its kind (R199). -/
def Seg.mainBeats (g : Seg) (r : Running) (a : Arch) (x : Side) (bands : Nat) : List (BitVec 4096 × Nat) :=
  (List.range (cdiv (g.k1 - g.k0) (tileWidth (r.fmtOf x)))).flatMap fun t =>
    (if r.has x.sc then (g.scaleBeats r a x (32 * bands) t).map (fun b => (b, 1)) else []) ++
    (List.range bands).flatMap fun u =>
      (if u < g.bandsOf x then regBeats a (g.reg r x 0 u t) else List.replicate 8 0).map fun b => (b, 0)

/-- One value of the preload as it is sent: zero outside the output, shifted in a replay (R200). -/
def preValue (fmt sh : Nat) (inside : Bool) (c : Nat) : Nat :=
  if !inside then 0 else if fmt = 15 then ofSigned 32 (toSigned 32 c / 2 ^ sh) else c

/-- The PRE beats of segment 0: sub-tiles in increasing u, then v (R404). -/
def Seg.preBeats (g : Seg) (r : Running) (a : Arch) (sh : Nat) : List (BitVec 4096) :=
  let nv := g.nc / 32
  (List.range (g.mr / 32 * nv)).flatMap fun k =>
    let u := k / nv
    let v := k % nv
    let reg := g.preReg r + (if g.pre = 1 then v else k)
    (List.range 8).map fun b => BitVec.ofNat 4096 (pack 1024 ((List.range 4).map fun i =>
      let row := 4 * b + i
      let cs := unpack 32 32 (a.row reg row).bytes
      pack 32 ((List.range 32).map fun j => preValue (r.desc 8).format sh
        (decide (g.aRow0 + 32 * u + row < g.a.total) && decide (g.bRow0 + 32 * v + j < g.b.total)) (nth cs j))))

/-- The shift of a shift code (R209). -/
def shiftOf : Nat → Nat
  | 0 => 0
  | 1 => 4
  | 2 => 8
  | _ => 16

/-- The SEG_BEGIN word of a segment under a shift code (R201). -/
def Seg.beginWord (g : Seg) (r : Running) (code : Nat) : BitVec 64 :=
  ctlWord 1 code (code = 3) (g.kseg = 0 && g.pre != 0) (r.has g.a.sc) (r.has g.b.sc) (r.fmtOf g.a) (r.fmtOf g.b) g.kseg
    (cdiv (g.k1 - g.k0) 32)

/-- Load the panel registers with a group of up to 64 columns. -/
def Seg.loadPanels (g : Seg) (sel : List (Nat × Nat × Nat × List Nat)) (cols : List (Nat × Bool)) (ar : Arch × Running) :
    Arch × Running :=
  let src := ar.1
  [g.a, g.b].foldl (fun ar x => (List.range (g.bandsOf x)).foldl (fun ar u => (List.range 32).foldl (fun ar i =>
    let (cs, sats, fl) := g.panelRow ar.2 src sel x u i cols
    let reg := g.panelReg ar.2 + (if x.id = 0 then 0 else g.mr / 32) + u
    (ar.1.setRow reg i (freshRow ar.2.producer 1 false (BitVec.ofNat 1024 (pack 16 cs))),
     { ar.2 with pend := (ar.2.pend.add 1 sats).add cFTZ fl })) ar) ar) ar

/-- Send the panel columns of a window (R213). -/
def Seg.sendWindow (g : Seg) (sel : List (Nat × Nat × Nat × List Nat)) (sr : State × Running) (w : Nat) : State × Running :=
  let cols := g.panelCols sel w
  if cols.isEmpty then sr else
  let s := sr.1.driveMxa sr.2 (.ctl (ctlWord 2 0 false false false false 1 1 g.kseg cols.length))
  (List.range (cdiv cols.length 64)).foldl (fun (sr : State × Running) k =>
    let (a, r) := g.loadPanels sel ((cols.drop (64 * k)).take 64) (sr.1.arch, sr.2)
    let s := { sr.1 with arch := a }
    let bands (first staged n : Nat) : List (BitVec 4096) := (List.range n).flatMap fun u =>
      if u < staged then regBeats a (first + u) else List.replicate 8 0
    let s := (bands (g.panelReg r) (g.mr / 32) (g.mr / 32)).foldl (fun s b => s.driveMxa r (.opa b 2)) s
    let s := (bands (g.panelReg r + g.mr / 32) g.nb (g.nc / 32)).foldl (fun s b => s.driveMxa r (.opb b 2)) s
    (s, r)) (s, sr.2)

/-- Send the panel columns of every window of the segment; their conversions count once for the array block, whatever a
resumption sends again (R212, R219; 03 R84). -/
def Seg.sendPanels (g : Seg) (sel : List (Nat × Nat × Nat × List Nat)) (s : State) (r : Running) : State × Running :=
  if !g.starred r then (s, r) else
  let key := countKey 2 0 (r.unit <<< 12 + r.link.keyBlock) g.kseg
  let (s, r') := g.windows.foldl (g.sendWindow sel) (s, r)
  (s, if r.prod.counted.contains key then { r' with pend := r.pend }
    else { r' with prod := { r'.prod with counted := key :: r'.prod.counted } })

/-- The first poisoned row among the staged registers: the item and the row. -/
def Seg.poisoned (g : Seg) (r : Running) (a : Arch) : Option (Item × Nat) :=
  (g.items r).findSome? fun it => ((List.range 32).find? fun i => (a.row it.reg i).tag.poison).map fun i => (it, i)

/-- The first staged row whose check fails (15 R350): register and row. -/
def Seg.badRow (g : Seg) (r : Running) (a : Arch) : Option (Nat × Nat) :=
  (g.items r).findSome? fun it => ((List.range 32).find? fun i => (a.row it.reg i).mismatch).map fun i => (it.reg, i)

/-- The first plane row read beside the segment that is poisoned. -/
def Seg.extraPoison (g : Seg) (r : Running) (buf : Sparse RdLine) : Option Nat :=
  ((g.extraLines r).find? fun w => (bufLine buf w.1).poison).map (·.2)

/-- The beats of an opened segment: preload, operands, star panels, and the end word (R195, R199-R201, R213, R219). `r` has the segment open. -/
def Seg.transmit (g : Seg) (s : State) (r : Running) (sel : List (Nat × Nat × Nat × List Nat)) : State :=
  let ar := g.demoteAll sel (s.arch, r)
  let a := ar.1
  let r := ar.2
  let s := { s with arch := a }
  let s := if g.kseg = 0 && g.pre != 0 then
    (g.preBeats r a (shiftOf r.prod.shift)).foldl (fun s b => s.driveMxa r (.pre b)) s else s
  let s := (g.mainBeats r a g.a (g.mr / 32)).foldl (fun s b => s.driveMxa r (.opa b.1 (BitVec.ofNat 2 b.2))) s
  let s := (g.mainBeats r a g.b (g.nc / 32)).foldl (fun s b => s.driveMxa r (.opb b.1 (BitVec.ofNat 2 b.2))) s
  let sr := g.sendPanels sel s r
  { sr.1.driveMxa sr.2 (.ctl (ctlWord 3 0 false false false false 0 0 g.kseg 0)) with
    run := some { sr.2 with stage := .draining } }

/-- Open a segment and send all of it, from SEG_BEGIN to SEG_DRAIN (R195, R199-R201, R213), with the poison, row-check and
star rules of R198, R219 and 15 R350. -/
def Seg.open (g : Seg) (s : State) (r : Running) : State :=
  match s.askRun r (if r.prod.shift = 0 then g.extraLines r else []) with
  | .fault _ => s
  | .wait s => s
  | .ready s buf =>
    let code := r.prod.shift
    let opened := { r with prod := { r.prod with segOpen := true, seen := 0, landed := [] } }
    let s := s.driveMxa r (.ctl (g.beginWord r code))
    let where_ : ErrRec := { kind := 1, source := 4, band := g.aRow0 / 32, colTile := g.bRow0 / 32 }
    match g.poisoned r s.arch with
    | some (it, i) => s.endPoison opened it.pos { where_ with register := it.reg, row := i }
    | none =>
    match g.extraPoison r buf with
    | some pos => s.endPoison opened pos where_
    | none =>
    match g.badRow r s.arch with
    | some (reg, i) => s.endRowCheck opened { where_ with register := reg, row := i }
    | none =>
      g.transmit s opened (g.selection r s.arch buf)

/-- Stage item `k` of a segment, or open it when everything is staged. -/
def Seg.stage (g : Seg) (s : State) (r : Running) (k : Nat) : State :=
  match (g.items r)[k]? with
  | none => g.open s r
  | some it =>
    match s.askRun r (it.lines r) with
    | .fault _ => s
    | .wait s => s
    | .ready s buf =>
      { s with arch := it.load r buf s.arch, run := some { r with stage := .staging (k + 1) } }

end Sys2Proof.Machine
end

