-- ==== Sys2Proof/Machine/Product.lean ====
section
/-! DEFINITION. PRODUCT_RUN: drains and spills, overflow replay, the finish, the epilogue and the commit of an array block
(08 R195, R202-R219). -/

namespace Sys2Proof.Machine

open Sys2Proof

/-! ### The array blocks of a PRODUCT_RUN -/

/-- M and N of a PRODUCT_RUN. -/
def Running.prodShape (r : Running) : Nat × Nat := ((r.side 0).total, (r.side 1).total)

/-- Array blocks of a row of blocks. -/
def Running.blocksAcross (r : Running) (g : Geom) : Nat := cdiv r.prodShape.2 g.nc

/-- Array blocks of the product. -/
def Running.blocksTotal (r : Running) (g : Geom) : Nat := cdiv r.prodShape.1 g.mr * r.blocksAcross g

/-- The first row and column of the array block in hand (R195). -/
def Running.blockAt (r : Running) (g : Geom) : Nat × Nat :=
  (g.mr * (r.unit / r.blocksAcross g), g.nc * (r.unit % r.blocksAcross g))

/-- The segment length used. -/
def Running.segL (r : Running) (g : Geom) : Nat := if r.op = oLINK then linkL g r.ws r.ds else productL g r.ws r.ds

/-- The segment in hand of a PRODUCT_RUN. -/
def Running.prodSeg (r : Running) (g : Geom) : Seg :=
  let l := r.segL g
  let a := r.side 0
  let b := r.side 1
  let (row0, col0) := r.blockAt g
  { mr := g.mr, nc := g.nc, nb := g.nc / 32, aRow0 := row0, bRow0 := col0, bLimit := b.total, k0 := r.prod.kseg * l
    k1 := Nat.min ((r.prod.kseg + 1) * l) (r.kTotal a), l := l, kseg := r.prod.kseg, base := (stagingArea r.ws).1
    a := a, b := b, pre := pf r.ws 6 26 2, demote := bit (nth r.ws 6) 18 }

/-- Segments of a block. -/
def Running.segments (r : Running) (g : Geom) : Nat := cdiv (r.kTotal (r.side 0)) (r.segL g)

/-- The product is of the integer class. -/
def Running.isIntClass (r : Running) : Bool := intClassFmt (r.desc 0).format

/-- Format of finished values (R208). -/
def Running.finFmt (r : Running) : Nat := if r.isIntClass && bit (nth r.ws 6) 19 then 15 else 0

/-! ### Checking a drained beat (R203) -/

/-- The header of a drained beat (R202). -/
structure DrnHdr where
  band : Nat
  colTile : Nat
  kseg : Nat
  beat : Nat
  shift : Nat
  ovf : Bool
  unf : Bool
  sovf : Bool
  format : Nat
  deriving DecidableEq, Repr

/-- Fields of a DRN header. -/
def drnHdr (h : BitVec 64) : DrnHdr :=
  let x := h.toNat
  ⟨bits x 44 20, bits x 30 14, bits x 18 12, bits x 15 3, bits x 13 2, bit x 12, bit x 11, bit x 10, bits x 6 4⟩

/-- What a drain is expected to carry: the block's first band and column tile, its sub-tiles, segment, shift and format. -/
structure Drain where
  band0 : Nat
  col0 : Nat
  nu : Nat
  nv : Nat
  kseg : Nat
  shift : Nat
  fmt : Nat
  deriving DecidableEq, Repr

/-- The sub-tile that a header names, if it is of the block. -/
def Drain.subOf (d : Drain) (h : DrnHdr) : Option Nat :=
  let us := (List.range d.nu).filter fun u => (d.band0 + u) % 2 ^ 20 = h.band
  let vs := (List.range d.nv).filter fun v => (d.col0 + v) % 2 ^ 14 = h.colTile
  match us, vs with
  | u :: _, v :: _ => some (u * d.nv + v)
  | _, _ => none

/-- The sub-tile of an acceptable beat; none on a protocol error (R203). -/
def Drain.accept (d : Drain) (seen : Nat) (h : DrnHdr) : Option Nat :=
  if h.kseg != d.kseg % 4096 || h.shift != d.shift || h.format != d.fmt || (d.fmt = 0 && h.ovf) then none
  else match d.subOf h with
    | some t => if bit seen (8 * t + h.beat) then none else some t
    | none => none

/-- Every beat of the drain has arrived. -/
def Drain.complete (d : Drain) (seen : Nat) : Bool := seen = 2 ^ (8 * d.nu * d.nv) - 1

/-- Commit what is pending of a spilled sub-tile or a score block (R205, 09 R232). A thief keeps its counts, and its first NaN
event, for its report (13 R318); the first pass of exact mode commits nothing (09 R233). -/
def State.settle (s : State) (r : Running) : State × Running :=
  if r.op = oLINK && !r.link.pass2 then (s, { r with pend := {} })
  else if r.stolen.isSome then
    (s, { r with pend := { r.pend with nan := none }
                 link := { r.link with firstNan := r.link.firstNan.orElse fun _ => r.pend.nan } })
  else (s.commitPend r r.pend, { r with nanSeen := r.nanSeen || r.pend.nan.isSome, pend := {} })

/-- A protocol error sends ABANDON, whether a segment is open or not, and ends the command (R203). What was spilled before has
committed (R205). -/
def State.protocolError (s : State) (r : Running) : State :=
  let x := s.endRun { r with prod := { r.prod with segOpen := true } } { status := 0x33 } [cMXAPROT]
  if r.stolen.isSome then x else x.raiseErr 7

/-! ### Wide tiles of the WAS (01, log 8) -/

/-- The WAS row that holds columns 16h to 16h + 15 of row i of wide tile `t`. -/
def wideRow (t i h : Nat) : Nat := 64 * t + 2 * i + h

/-- Word (i, j) of wide tile `t`. -/
def Arch.wide (a : Arch) (t i j : Nat) : Nat := bits (a.wasRow (wideRow t i (j / 16))).data.toNat (64 * (j % 16)) 64

/-- A row of wide tile `t` is poisoned. -/
def Arch.widePoison (a : Arch) (t i : Nat) : Bool :=
  (a.wasRow (wideRow t i 0)).poison || (a.wasRow (wideRow t i 1)).poison

/-- Write row i of wide tile `t`. -/
def Arch.setWide (a : Arch) (t i : Nat) (ws : List Nat) : Arch :=
  (a.setWasFresh (wideRow t i 0) (BitVec.ofNat 1024 (pack 64 (ws.take 16))) false).setWasFresh (wideRow t i 1)
    (BitVec.ofNat 1024 (pack 64 (ws.drop 16))) false

/-! ### Landing and spilling (R202, R205-R207) -/

/-- The value at row i, column j of the eight beats of a sub-tile. -/
def drnVal (bs : List DrnBeat) (i j : Nat) : Nat :=
  match bs[i / 4]? with
  | some b => bits b.data.toNat (1024 * (i % 4) + 32 * j) 32
  | none => 0

/-- Write a sub-tile into a landing register. -/
def landTile (a : Arch) (reg producer fmt : Nat) (bs : List DrnBeat) : Arch :=
  (List.range 32).foldl (fun a i => a.setRow reg i
    (freshRow producer fmt false (BitVec.ofNat 1024 (pack 32 ((List.range 32).map (drnVal bs i)))))) a

/-- The NaN event of a WAS path element (R205, 03 R439): local row ρ and column c of the product's output. -/
def drainNan (fmt rho c : Nat) : NanEv :=
  { consumed := false, source := 3, pass := 0, stage := 0, uop := 0, fmt := fmt, band := rho / 32, colTile := c / 32
    row := rho % 32, col := c % 32 }

/-- The counts of an accepted sub-tile's beats (R204, R209). -/
def Pend.beats (p : Pend) (bs : List DrnBeat) : Pend :=
  let n (f : DrnBeat → Bool) : Nat := (bs.filter f).length
  ((p.add cSCALEUNF (n (·.unf))).add cSCALEOVF (n (·.sovf))).add cACCSAT (n (·.ovf))

/-- The drain events of a sub-tile: its NaN elements inside the output (R205), and the marks that they leave for the finish. -/
def drainEvents (g2 : Bool) (rows cols row0 col0 sub : Nat) (bs : List DrnBeat) (pm : Pend × Sparse Nat) : Pend × Sparse Nat :=
  (List.range 32).foldl (fun pm i => (List.range 32).foldl (fun (pm : Pend × Sparse Nat) j =>
    if isNanCode 0 (drnVal bs i j) then
      let key := 32 * sub + i
      let m := sset 0 pm.2 key (sget 0 pm.2 key ||| 1 <<< j)
      if row0 + i < rows && col0 + j < cols then
        ((pm.1.add cNANPROD 1).addNan g2 32 (drainNan 0 (row0 + i) (col0 + j)), m)
      else (pm.1, m)
    else pm) pm) pm

/-- One row of a float spill: written for segment 0, added and rounded to binary64 after it (R206). -/
def spillFloatRow (a : Arch) (t i : Nat) (first : Bool) (bs : List DrnBeat) : List Nat :=
  (List.range 32).map fun j =>
    let d := decode 0 (drnVal bs i j)
    if first then r64 d else r64 (xadd 0 (decode 13 (a.wide t i j)) d)

/-- One row of an integer spill and the sums that saturated at each column (R207). -/
def spillIntRow (a : Arch) (t i : Nat) (first : Bool) (sh : Nat) (bs : List DrnBeat) : List (Nat × Bool) :=
  (List.range 32).map fun j =>
    let d : Int := toSigned 32 (drnVal bs i j) * 2 ^ sh
    let x : Int := if first then d else toSigned 64 (a.wide t i j) + d
    let hi : Int := 2 ^ 63 - 1
    if x > hi then (ofSigned 64 hi, true) else if x < -(2 ^ 63) then (ofSigned 64 (-(2 ^ 63)), true) else (ofSigned 64 x, false)

/-- Spill sub-tile `t` into its wide tile, and count. -/
def spillTile (g : Seg) (r : Running) (a : Arch) (t wide : Nat) (bs : List DrnBeat) : Arch × Pend × Sparse Nat :=
  let nv := g.nc / 32
  let row0 := g.aRow0 + 32 * (t / nv)
  let col0 := g.bRow0 + 32 * (t % nv)
  let first := g.kseg = 0
  let p := r.pend.beats bs
  if r.isIntClass then
    let (a, n) := (List.range 32).foldl (fun (acc : Arch × Nat) i =>
      let row := spillIntRow a wide i first (shiftOf r.prod.shift) bs
      let sat := ((List.range 32).filter fun j => (row.getD j (0, false)).2 && decide (row0 + i < g.a.total) &&
        decide (col0 + j < g.bLimit)).length
      (acc.1.setWide wide i (row.map (·.1)), acc.2 + sat)) (a, 0)
    (a, p.add 14 n, r.prod.drainNan)
  else
    let a := (List.range 32).foldl (fun acc i => acc.setWide wide i (spillFloatRow a wide i first bs)) a
    let (p, m) := drainEvents r.g2 g.a.total g.bLimit row0 col0 wide bs (p, r.prod.drainNan)
    (a, p, m)

/-- The first poisoned row of a wide tile. -/
def Arch.wideBad (a : Arch) (t : Nat) : Option Nat := (List.range 32).find? fun i => a.widePoison t i

/-- The beats of sub-tile `t`, when all eight have landed. -/
def ProdState.whole (p : ProdState) (t : Nat) : Option (List DrnBeat) :=
  let bs := (List.range 8).filterMap fun b => (p.landed.find? fun x => x.1 = 8 * t + b).map (·.2)
  if bs.length = 8 then some bs else none

/-- Take a beat into the landing state. -/
def ProdState.land (p : ProdState) (t : Nat) (h : DrnHdr) (data : BitVec 4096) : ProdState :=
  { p with landed := sput p.landed (8 * t + h.beat) ⟨data, h.ovf, h.unf, h.sovf⟩, seen := p.seen ||| 1 <<< (8 * t + h.beat) }

/-- Forget the landed beats of a sub-tile. -/
def ProdState.clearTile (p : ProdState) (t : Nat) : ProdState :=
  { p with landed := p.landed.filter fun x => x.1 / 8 != t }

/-- Sub-tile `t` is spilled by `f`: what its segment's staging counted commits (03 R438), then its own drain events (R205). -/
def State.spillTo (s : State) (r : Running) (m : Mishap) (t : Nat) (f : Running → Arch → Arch × Pend × Sparse Nat) : State × Running :=
  let (s, r) := s.settle r
  let (a, p, nans) := f r s.arch
  ({ s.residue m with arch := a }).settle
    { r with pend := p, prod := { r.prod with drainNan := nans, resolved := r.prod.resolved ||| 1 <<< t } }

/-- What a complete sub-tile becomes: it lands in a landing register and is spilled, unless a main accumulator overflowed
in it and a further shift code is left (R209). `none`: the command ended. -/
def Seg.spill (g : Seg) (s : State) (r : Running) (t wide : Nat) (bs : List DrnBeat) (m : Mishap) : State × Option Running :=
  let nv := g.nc / 32
  let where_ : ErrRec := { kind := 0, storage := 4, source := 3, band := g.aRow0 / 32 + t / nv, colTile := g.bRow0 / 32 + t % nv }
  let r := { r with prod := r.prod.clearTile t }
  let reg := g.landing r + r.prod.landings % 2
  let s := { s with arch := landTile s.arch reg r.producer (if r.isIntClass then 15 else 0) bs }
  let r := { r with prod := { r.prod with landings := r.prod.landings + 1 } }
  if r.prod.shift < 3 && bs.any (·.ovf) then (s, some r)
  else if g.kseg != 0 && (s.arch.wideBad wide).isSome then (s.endPoison r 0xFF where_, none)
  else
    let m := ofUnits m 1
    if fatal m then (s.endResidue r m where_, none)
    else
      let (s, r) := s.spillTo r m t fun r a => spillTile g r a t wide bs
      (s, some r)

/-- A NaN event that has committed, or is about to, halts the command (03 R91). -/
def Running.halts (r : Running) : Bool := r.cfg.trapMode && (r.pend.nan.isSome || r.nanSeen)

/-- The drain is complete. A NaN event of a sub-tile halts the command now, and the block stores nothing (R205; log 31). Else
the segment is resent with the next shift code (R209), or is closed and `next` goes on. -/
def Seg.drained (g : Seg) (s : State) (r : Running) (tiles : Nat) (next : Running → Running) : State :=
  if r.halts && r.stolen.isNone then s.endTrap { r with prod := { r.prod with segOpen := false } } else
  if r.prod.resolved != 2 ^ tiles - 1 then
    { s.count cMXAREPLAY with
      run := some { r with prod := { r.prod with shift := r.prod.shift + 1 }, stage := .staging (g.items r).length } }
  else
    { s with run := some (next { r with prod := { r.prod with segOpen := false, shift := 0, resolved := 0 } }) }

/-- The drain expected of a segment. -/
def Seg.drain (g : Seg) (r : Running) : Drain :=
  ⟨g.aRow0 / 32, g.bRow0 / 32, g.mr / 32, g.nc / 32, g.kseg, r.prod.shift, if r.isIntClass then 15 else 0⟩

/-- After a segment of a PRODUCT_RUN: the next one, or the finish. -/
def Running.afterSegment (r : Running) (g : Geom) : Running :=
  if r.prod.kseg + 1 < r.segments g then { r with prod := { r.prod with kseg := r.prod.kseg + 1 }, stage := .token }
  else { r with stage := .finishing 0 }

/-- A drained beat of a PRODUCT_RUN. -/
def productDrain (s : State) (r : Running) (h : DrnHdr) (data : BitVec 4096) (m : Mishap) : State :=
  let geo := geomOf s.straps.mxaGeom
  let g := r.prodSeg geo
  let d := g.drain r
  match d.accept r.prod.seen h with
  | none => s.protocolError r
  | some t =>
    let r := { r with prod := r.prod.land t h data }
    let tiles := d.nu * d.nv
    let done (s : State) (r : Running) : State :=
      if d.complete r.prod.seen then g.drained s r tiles (·.afterSegment geo) else { s with run := some r }
    if bit r.prod.resolved t then done s { r with prod := r.prod.clearTile t }
    else match r.prod.whole t with
      | none => { s with run := some r }
      | some bs =>
        match g.spill s r t t bs m with
        | (s, some r) => done s r
        | (s, none) => s

/-! ### The finish (R208) -/

/-- An element's WAS value finished under code 0. -/
def finElem (ctx : NumCtx) (isI : Bool) (fin w : Nat) : Nat × Ev :=
  if isI then convert ctx fin 0 0 (ofInt (toSigned 64 w)) else convert ctx 0 0 0 (decode 13 w)

/-- Element (i, j) of sub-tile `t` had a NaN drain. -/
def ProdState.nanAt (p : ProdState) (t i j : Nat) : Bool := bit (sget 0 p.drainNan (32 * t + i)) j

/-- An event without the NaN that a drain has accounted for (R208). -/
def Ev.quiet (e : Ev) (drained : Bool) : Ev := { e with nanProd := e.nanProd && !drained }

/-- A sub-tile's place: a block 32 columns wide of a view of `rows` × `cols`. -/
def Running.subBlk (r : Running) (rows cols row0 col0 : Nat) (d : Desc) : Blk :=
  { ctx := r.cfg.ctx, width := 32, row0 := row0, col0 := col0, view := ⟨rows, cols, d.gRow0, d.gCol0, d.rowLength false⟩
    primW := 32, keys := r.keys d.tensorId, stream := pStream r.ws + 0x88, producer := r.producer, bandStart := false
    g2 := r.g2, g2env := if r.g2 then g2One else {} }

/-- The finished codes of sub-tile `t`, and what the finish reports inside the output. -/
def finTile (a : Arch) (r : Running) (b : Blk) (t : Nat) (acc : SAcc) : List (List Nat) × SAcc :=
  (List.range 32).foldl (fun (o : List (List Nat) × SAcc) i =>
    let (row, s) := (List.range 32).foldl (fun (o : List Nat × SAcc) j =>
      let (c, e) := finElem b.ctx r.isIntClass r.finFmt (a.wide t i j)
      (o.1 ++ [c], if b.inside i j then o.2.ev b i j r.finFmt (Ev.quiet e (r.prod.nanAt t i j)) else o.2)) ([], o.2)
    (o.1 ++ [row], s)) ([], acc)

/-- The conversion of a finished sub-tile into `fo` under `rnd` (R208); `drained` marks NaN that a drain has accounted for. -/
def outTile (b : Blk) (fi fo rnd : Nat) (drained : Nat → Nat → Bool) (rows : List (List Nat)) (acc : SAcc) :
    List (List Nat) × SAcc :=
  if fi = fo then (rows, acc) else
  (List.range 32).foldl (fun (o : List (List Nat) × SAcc) i =>
    let cs := rows.getD i []
    let (row, s) := (List.range 32).foldl (fun (o : List Nat × SAcc) j =>
      let c := nth cs j
      let (v, e) := convertFrom b.ctx fi fo rnd (b.siteAt rnd i j) c
      let s := if b.inside i j then
          (if drained i j then o.2 else readReports b i j [(fi, c)] o.2).ev b i j fo (Ev.quiet e (drained i j))
        else o.2
      (o.1 ++ [v], s)) ([], o.2)
    (o.1 ++ [row], s)) ([], acc)

/-- Sub-tiles of the block in hand that hold part of the output, in the order of R242. -/
def Seg.liveTiles (g : Seg) : List Nat :=
  (List.range (g.mr / 32 * (g.nc / 32))).filter fun t =>
    decide (g.aRow0 + 32 * (t / (g.nc / 32)) < g.a.total) && decide (g.bRow0 + 32 * (t % (g.nc / 32)) < g.b.total)

/-- The first live sub-tile with a poisoned WAS row that the finish reads. -/
def Seg.finishPoison (g : Seg) (a : Arch) (ts : List Nat) : Option (Nat × Nat) :=
  ts.findSome? fun t => ((List.range (Nat.min 32 (g.a.total - (g.aRow0 + 32 * (t / (g.nc / 32)))))).find? fun i =>
    a.widePoison t i).map fun i => (t, i)

/-- Rows of codes by sub-tile. -/
def tileRows (l : List (Nat × List (List Nat))) (t i : Nat) : List Nat :=
  match l.find? (fun x => x.1 = t) with
  | some x => x.2.getD i []
  | none => List.replicate 32 0

/-- Store converted sub-tiles to a tensor: columns col0 to col0 + nc − 1 of the bands of the block (10 R242). -/
def storeTiles (r : Running) (d : Desc) (pos : Nat) (g : Seg) (rows : List (Nat × List (List Nat))) : Stored :=
  let w := tileWidth d.format
  let nv := g.nc / 32
  let n := Nat.min w g.nc
  (List.range (Nat.min (g.mr / 32) (cdiv (g.a.total - g.aRow0) 32))).foldl (fun x u =>
    (List.range (cdiv (Nat.min g.nc (d.cLocal false - g.bRow0)) n)).foldl (fun x k =>
      tileStored x r d pos (g.aRow0 / 32 + u) (g.bRow0 + k * n) n fun i =>
        (((List.range (n / 32)).flatMap fun c => tileRows rows (u * nv + k * (n / 32) + c) i), false)) x) {}

/-- Fold the stored codes of a block into the tensor CRC of `d`. -/
def sealTiles (acc : Sparse Nat) (d : Desc) (pos : Nat) (g : Seg) (rows : List (Nat × List (List Nat))) : Sparse Nat :=
  let w := tileWidth d.format
  let nv := g.nc / 32
  let n := Nat.min w g.nc
  (List.range (Nat.min (g.mr / 32) (cdiv (g.a.total - g.aRow0) 32))).foldl (fun acc u =>
    let inside := Nat.min g.nc (d.cLocal false - g.bRow0)
    (List.range (cdiv inside n)).foldl (fun acc k =>
      sealPart acc d pos (g.aRow0 / 32 + u) (g.bRow0 + k * n) n fun i =>
        ((List.range (n / 32)).flatMap fun c => tileRows rows (u * nv + k * (n / 32) + c) i).take (inside - k * n)) acc) acc

/-- Finish a block without an epilogue: finish and convert every sub-tile, and make its stores ready (R208). -/
def finishBlock (s : State) (r : Running) (g : Seg) (m : Mishap) : State :=
  let d := r.desc 9
  let ts := g.liveTiles
  let nv := g.nc / 32
  let where_ (t : Nat) : ErrRec := { kind := 0, storage := 4, source := 3, band := g.aRow0 / 32 + t / nv, colTile := g.bRow0 / 32 + t % nv }
  match g.finishPoison s.arch ts with
  | some (t, i) => s.endPoison r 0xFF { where_ t with row := i }
  | none =>
    let m := ofUnits m ts.length
    if fatal m then s.endResidue r m (where_ (ts.getD (failedUnit m) 0)) else
    let (rows, p) := ts.foldl (fun (acc : List (Nat × List (List Nat)) × Pend) t =>
      let b := r.subBlk g.a.total g.b.total (g.aRow0 + 32 * (t / nv)) (g.bRow0 + 32 * (t % nv)) d
      let (fin, f1) := finTile s.arch r b t {}
      let (out, f2) := outTile b r.finFmt d.format (r.classRnd d.cls) (r.prod.nanAt t) fin {}
      (acc.1 ++ [(t, out)], (acc.2.site b 3 f1).site b 3 f2)) ([], {})
    let next := if d.sealOut then sealTiles r.acc d 9 g rows else r.acc
    (s.residue m).tileReady r (storeTiles r d 9 g rows) p next

/-! ### The epilogue (R215-R217) -/

/-- A view that no descriptor gives: row-major, `m` × `n`, format 0. DESIGN CHOICE (log 16): its row and column origins
are 0, so that the element index of a score program's stochastic stages (03 R75) counts from the first query. -/
def plainDesc (m n tensor : Nat) : Desc :=
  { descOf [] with rowDims := 1, tensorId := tensor, dims := [⟨n, n, 0, 1, 1⟩, ⟨m, m, 0, 0, 1⟩, ⟨0, 0, 0, 0, 0⟩, ⟨0, 0, 0, 0, 0⟩] }

/-- The walk of an epilogue or a score program over an output of m × n. -/
def Running.arrayWalk (r : Running) (m n : Nat) : Walk :=
  let P := r.prog
  let k := (P.primary r.op).getD 0
  let d := if (innerSlots r.op).contains k then plainDesc m n (Config.freeTensorId r.op) else r.desc (slotPos r.op k)
  ⟨P, d, d.transpose, false⟩

/-- Program blocks of an array block: across and down. -/
def Seg.epiShape (g : Seg) (w : Nat) : Nat × Nat :=
  (cdiv (Nat.min g.nc (g.b.total - g.bRow0)) w, Nat.min (g.mr / 32) (cdiv (g.a.total - g.aRow0) 32))

/-- Band and column block of program block `e` of an array block. -/
def Seg.epiPlace (g : Seg) (w e : Nat) : Nat × Nat :=
  let (nw, _) := g.epiShape w
  (g.aRow0 / 32 + e / nw, g.bRow0 / w + e % nw)

/-- Program blocks of an array block. -/
def Seg.epiCount (g : Seg) (w : Nat) : Nat := (g.epiShape w).1 * (g.epiShape w).2

/-- Fill a span from finished sub-tiles: `fill k i` gives the codes of register k, row i. -/
def fillSpan (a : Arch) (producer fmt base n : Nat) (fill : Nat → Nat → List Nat) : Arch :=
  (List.range n).foldl (fun a k => (List.range 32).foldl (fun a i =>
    a.setRow (base + k) i (freshRow producer fmt false (BitVec.ofNat 1024 (pack 32 (fill k i))))) a) a

/-- Slot 0 of an epilogue as a load of the finished tensor gives it (R217): element (i, c) of the block at row `row0` and
column `col0`, clamped into the shape (10 R246). -/
def Seg.slotElem (g : Seg) (rows : List (Nat × List (List Nat))) (ts : List Nat) (row0 col0 i c : Nat) : Nat :=
  let i := Nat.min i (g.a.total - 1 - row0)
  let c := Nat.min c (g.b.total - 1 - col0)
  nth (tileRows rows (ts.getD (c / 32) 0) i) (c % 32)

/-- The sub-tiles under program block `e`. -/
def Seg.epiTiles (g : Seg) (w e : Nat) : List Nat :=
  let (band, t) := g.epiPlace w e
  (List.range (w / 32)).map fun c => (band - g.aRow0 / 32) * (g.nc / 32) + (t * w - g.bRow0) / 32 + c

/-- Load program block `e`: slot 0 from the finished values of its sub-tiles, the other slots from memory. -/
def loadEpi (s : State) (r : Running) (g : Seg) (w : Walk) (e : Nat) (m : Mishap) : State :=
  let P := w.P
  let (band, t) := g.epiPlace P.width e
  let slots := (w.loads .single).filter fun d => !(innerSlots r.op).contains d
  match s.askRun r (slotLines r P slots (32 * band) t) with
  | .fault _ => s
  | .wait s => s
  | .ready s buf =>
    let ts := g.epiTiles P.width e
    let where_ : ErrRec := { kind := 0, storage := 4, source := 3, band := band, colTile := t * P.width / 32 }
    let at_ (t : Nat) : ErrRec := { where_ with colTile := g.bRow0 / 32 + t % (g.nc / 32) }
    match g.finishPoison s.arch ts with
    | some (t, i) => s.endPoison r 0xFF { at_ t with row := i }
    | none =>
      let m := ofUnits m ts.length
      if fatal m then s.endResidue r m (at_ (ts.getD (failedUnit m) 0)) else
      let (rows, p) := ts.foldl (fun (acc : List (Nat × List (List Nat)) × Pend) t =>
        let b := r.subBlk g.a.total g.b.total (32 * band) (g.bRow0 + 32 * (t % (g.nc / 32))) (descOf [])
        let (fin, f) := finTile s.arch r b t {}
        (acc.1 ++ [(t, fin)], acc.2.site b 3 f)) ([], r.pend)
      let a := fillSpan s.arch r.producer r.finFmt (P.slot 0).base (P.width / 32) fun k i =>
        (List.range 32).map fun j => g.slotElem rows ts (32 * band) (t * P.width) i (32 * k + j)
      { s.residue m with
        arch := loadSlots a buf r P slots (32 * band) t
        run := some { r with pend := p, pass := 0, stage := .passes, prod := { r.prod with epi := e } } }

/-! ### Commit of a block -/

/-- A block has committed: the next one, or the writes after the last. -/
def Running.nextBlock (r : Running) (total : Nat) : Running :=
  let r := { r with unit := r.unit + 1, tilesDone := r.tilesDone + 1, pend := {}, pass := 0, acc := r.next
                    prod := { counted := r.prod.counted } }
  { r with stage := if r.unit ≥ total then .trailer false else .load }

/-- Issue the stores of a block or of an epilogue block, or end on its NaN event or failing row (R205, 03 R91). -/
def productForm (s : State) (r : Running) : State :=
  if (pProg r.ws).isNone then tileForm s r
  else
    let g := r.prodSeg (geomOf s.straps.mxaGeom)
    let w := r.arrayWalk g.a.total g.b.total
    let (band, t) := g.epiPlace w.P.width r.prod.epi
    let x := chainStored s r w band t
    if r.traps && x.fail.isNone then s.endTrap r
    else { (s.post x.beats).pumpRun r with run := some { r with stage := .commit true } }

/-- The stores have their responses: the block or the epilogue block commits. -/
def productFinish (s : State) (r : Running) : State :=
  let geo := geomOf s.straps.mxaGeom
  let total := r.blocksTotal geo
  if (pProg r.ws).isNone then
    { s.commitPend r r.pend with run := some ({ r with nanSeen := r.nanSeen || r.pend.nan.isSome }.nextBlock total) }
  else
    let g := r.prodSeg geo
    let w := r.arrayWalk g.a.total g.b.total
    let (band, t) := g.epiPlace w.P.width r.prod.epi
    let x := chainStored s r w band t
    match x.fail with
    | some (reg, row) =>
      s.endRowCheck r { kind := 2, source := 1, band := band, colTile := t * w.P.width / tileWidth w.d.format
                        register := reg, row := row }
    | none =>
      let p := r.pend.stored x
      let acc := chainCrcs s r w band t []
      let r := { r with nanSeen := r.nanSeen || p.nan.isSome, pend := {}, pass := 0, acc := acc, next := acc }
      { s.commitPend r p with
        run := some (if r.prod.epi + 1 < g.epiCount w.P.width then { r with stage := .finishing (r.prod.epi + 1) }
          else r.nextBlock total) }

/-- The seals of a product's output or of its epilogue's stored slots. -/
def productTrailer (s : State) (r : Running) : State :=
  if (pProg r.ws).isNone then sealTrailer s r [9]
  else sealTrailer s r ((r.stores r.prog).map (slotPos r.op))

/-- The reply of a finished product names the segment length used (R193, 12 R293). -/
def endProduct (s : State) (r : Running) : State :=
  s.endRun r { status := 0x00, index := 0xFF, value := r.segL (geomOf s.straps.mxaGeom) } []

/-! ### The step of a PRODUCT_RUN -/

/-- Begin a block: its gather indices (10 R249). -/
def productLoad (s : State) (r : Running) (g : Seg) : State :=
  match s.askRun r (g.indexLines r [g.a, g.b]) with
  | .fault _ => s
  | .wait s => s
  | .ready s buf =>
    let r := g.countClamps [g.a, g.b] { r with prod := { r.prod with index := g.keepIndex r [g.a, g.b] buf } }
    { s with run := some { r with stage := .token } }

/-- The owner of a stolen query block stands at a query-block boundary (13 R317). -/
def Running.queryBoundary (r : Running) : Bool :=
  r.op = oLINK && !r.claimed.isEmpty && r.prod.kseg = 0 && r.link.keyBlock = 0 && r.link.phase = 0 &&
  r.link.pass2 != bit (nth r.ws 6) 5

/-- The token must be given up at the boundary at which a command stands (01 R38), or to its thief (13 R317). -/
def State.yieldDue (s : State) (r : Running) : Bool :=
  r.stage = .token && (s.handoverDue r.queue ||
    (s.pair.token && s.pair.mode = .split && !s.pair.detached && s.pair.partnerReq && r.queryBoundary))

/-- Take the array token, or wait for it, or for a hand-over that is due (R218). A mirrored command needs none (13 R310). -/
def tokenStep (s : State) (r : Running) : State :=
  if r.mirror then { s with run := some { r with stage := .staging 0 } }
  else if s.yieldDue r then s
  else
    let s := s.takeToken
    if s.pair.token then { s with run := some { r with stage := .staging 0 } } else s

/-- The next piece of a PRODUCT_RUN. -/
def productStep (s : State) (r : Running) (m : Mishap) : State :=
  if (s.port.faultOf ownCmd).isSome then s else
  let s := if r.stage = .passes then s else s.eccHits m
  let g := r.prodSeg (geomOf s.straps.mxaGeom)
  match r.stage with
  | .verify pos tile crc => verifyStep s r pos tile crc
  | .load => productLoad s r g
  | .token => tokenStep s r
  | .staging k => g.stage s r k
  | .finishing e =>
    if (pProg r.ws).isNone then finishBlock s r g m else loadEpi s r g (r.arrayWalk g.a.total g.b.total) e m
  | .passes =>
    let w := r.arrayWalk g.a.total g.b.total
    let (band, t) := g.epiPlace w.P.width r.prod.epi
    passStep s r w.P (r.blk s w band t) w.P.passes m
  | _ => s

end Sys2Proof.Machine
end

