-- ==== Sys2Proof/Machine/Link.lean ====
section
/-! DEFINITION. LINK_RUN: query and key blocks, the score program, the link step, the second product and its corrections,
finish and log-sum-exp (09 R221-R237). -/

namespace Sys2Proof.Machine

open Sys2Proof

/-! ### Geometry -/

/-- The first product's segment for the key block in hand (R224): the array's Nc is sent, Bk of it staged. -/
def Running.linkSeg (r : Running) (g : Geom) : Seg :=
  let l := r.segL g
  let bk := linkBk r.ws
  let a := r.side 0
  let b := r.side 1
  { mr := g.mr, nc := g.nc, nb := bk / 32, aRow0 := g.mr * r.unit, bRow0 := r.link.keyBlock * bk
    bLimit := Nat.min b.total ((r.link.keyBlock + 1) * bk), k0 := r.prod.kseg * l
    k1 := Nat.min ((r.prod.kseg + 1) * l) (r.kTotal a), l := l, kseg := r.prod.kseg, base := (stagingArea r.ws).1
    a := a, b := b, pre := 0, demote := bit (nth r.ws 6) 4 }

/-- The score block as an array block of Bk columns. -/
def Running.scoreSeg (r : Running) (g : Geom) : Seg :=
  let x := r.linkSeg g
  { x with nc := linkBk r.ws, b := { x.b with total := x.bLimit } }

/-- Rows of v as one operand, for its gather indices. -/
def Running.vSeg (r : Running) (g : Geom) : Seg :=
  let v := r.side 2
  { r.linkSeg g with nb := cdiv v.total 32, bRow0 := 0, bLimit := v.total, b := v }

/-- Query blocks of the run. -/
def Running.queryBlocks (r : Running) (g : Geom) : Nat := cdiv (r.side 0).total g.mr
/-- Nk. -/
def Running.nk (r : Running) : Nat := (r.side 1).total
/-- Dv. -/
def Running.dv (r : Running) : Nat := (r.side 2).total
/-- Key blocks of a query block. -/
def Running.keyBlocks (r : Running) : Nat := cdiv r.nk (linkBk r.ws)
/-- exact is 1. -/
def Running.exactMode (r : Running) : Bool := bit (nth r.ws 6) 5
/-- Column blocks of the output. -/
def Running.colBlocks (r : Running) (g : Geom) : Nat := cdiv r.dv g.nc
/-- Format of the staged probability tile. -/
def Running.pFmt (r : Running) : Nat := pf r.ws 6 9 4

/-- The first probability register, after the first product's registers (R224, log 17). -/
def Running.probReg (r : Running) (g : Geom) : Nat := (r.linkSeg g).past r
/-- Probability registers of a band. -/
def Running.perProb (r : Running) : Nat := cdiv (linkBk r.ws) (tileWidth r.pFmt)
/-- The first register of v. -/
def Running.vReg (r : Running) (g : Geom) : Nat := r.probReg g + g.mr / 32 * r.perProb
/-- Registers of a band of v. -/
def Running.perV (r : Running) : Nat := cdiv (linkBk r.ws) (tileWidth (r.desc 8).format)
/-- The register of v_scales. -/
def Running.vScaleReg (r : Running) (g : Geom) : Nat := r.vReg g + g.nc / 32 * r.perV
/-- The first logit register. -/
def Running.logitReg (r : Running) (g : Geom) : Nat := r.vScaleReg g + (if r.has 9 then 1 else 0)

/-- The wide tile of output sub-tile (u, c) of the query block; the first tiles hold the score block (R222, log 8). -/
def Running.outWide (r : Running) (g : Geom) (u c : Nat) : Nat := g.mr / 32 * (linkBk r.ws / 32) + u * cdiv r.dv 32 + c

/-! ### Presence (R223, R225) -/

/-- The causal rule makes logit (ρ, c) absent; i is the logical row index in out. -/
def Running.causalOut (r : Running) (rho c : Nat) : Bool :=
  bit (nth r.ws 6) 15 && decide ((c : Int) > ((r.desc 11).gRow0 + rho : Nat) + toSigned 32 (nth r.ws 7))

/-- The key blocks that a run skips, as the Dygen 2 stream sees them: no site reaches their elements (R223, 14 R345). -/
def Running.keySkip (r : Running) (g : Geom) : Option KeySkip :=
  if bit (nth r.ws 6) 15 then
    some ⟨g.mr, linkBk r.ws, (r.side 0).total, (r.desc 11).gRow0 + toSigned 32 (nth r.ws 7)⟩
  else none

/-- Key block `h` is skipped for the query block in hand (R223). -/
def Running.skips (r : Running) (g : Geom) (h : Nat) : Bool :=
  let last := Nat.min ((r.unit + 1) * g.mr) (r.side 0).total - 1
  r.causalOut last (h * linkBk r.ws)

/-- The next key block that is not skipped. -/
def Running.nextKey (r : Running) (g : Geom) : Option Nat :=
  (List.range r.keyBlocks).find? fun h => decide (r.link.keyBlock ≤ h) && !r.skips g h

/-- The logit of row `n` of the query block at key column `j` of the key block is present. -/
def Running.presentAt (r : Running) (g : Geom) (n j : Nat) : Bool :=
  let rho := g.mr * r.unit + n
  let c := r.link.keyBlock * linkBk r.ws + j
  decide (rho < (r.side 0).total) && decide (c < r.nk) && !r.causalOut rho c &&
  (pf r.ws 6 16 4 = 0 || bit (sget 0 r.link.present n) j)

/-! ### The running statistics (R226) -/

/-- S register and row of row `n` of the query block. -/
def Running.statOf (r : Running) (n : Nat) : Nat × Nat := (pf r.ws 10 27 5 + n / 32, n % 32)

/-- Write the running maximum and sum of a row; the other fields are unchanged. -/
def Running.setStat (r : Running) (a : Arch) (n m l : Nat) : Arch :=
  let (k, i) := r.statOf n
  a.setSrow k i { a.srow k i with max := w32 m, sum := w32 l }

/-- The logit codes of row `n`, from the logit registers. -/
def Running.logitsOf (r : Running) (g : Geom) (a : Arch) (n : Nat) : List Nat :=
  let nb := linkBk r.ws / 32
  (List.range nb).flatMap fun k => unpack 32 32 (a.row (r.logitReg g + n / 32 * nb + k) (n % 32)).bytes

/-- What the link step makes of one row. -/
structure LinkRow where
  m : Nat
  l : Nat
  p : List Nat
  f : Nat
  nan : Bool
  /-- Differences, factors, probabilities and sums that were flushed (03 R83). -/
  flushes : Nat := 0
  deriving DecidableEq, Repr

/-- FP32 codes of 0, 1, −∞ and the canonical NaN. -/
def f32One : Nat := 0x3F800000
/-- −∞. -/
def f32NegInf : Nat := 0xFF800000
/-- Canonical NaN. -/
def f32Nan : Nat := 0x7FC00000

/-- exp2(round_f32(x − y)), or 1 where they are equal (R226). -/
def linkExp (ctx : NumCtx) (x y : XVal) (acc : RAcc) : Nat × RAcc :=
  if xeq x y then (f32One, acc) else
    let (d, acc) := redAdd ctx.ftz x (xneg y) 0 acc
    let (f, acc) := redExp ctx.ftz d acc
    (f32Code f, acc)

/-- The Meridian sum of a row's probabilities from `start` (06 R150, rred kind 0). `col0`: the first key. -/
def probSum (ctx : NumCtx) (g2 : Bool) (col0 start : Nat) (ps : List (Option Nat)) (acc : RAcc) : Nat × RAcc :=
  let n := chunkLen g2
  let chunks := (List.range (ps.length / n)).map fun k => Chunk.mk ((col0 + n * k) / n)
    ((List.range n).map fun j => (ps.getD (n * k + j) none).map fun p => (sVal ctx p, n * k + j))
  let (s, _, acc) := foldRow ctx 0 false (rredChunk ctx 0 (chunkLevels g2) false (fun _ => 0)) chunks ⟨0, start, 0, 0, 0⟩ acc
  (s.sum, acc)

/-- link_step of R226 on one row: logits, presence, the running maximum and sum; `exact`: the second pass of R233, with the
final maximum in m. -/
def linkRow (ctx : NumCtx) (g2 exact : Bool) (col0 : Nat) (as : List Nat) (pres : List Bool) (m l : Nat) : LinkRow :=
  let mOld := sVal ctx m
  let mb := (as.zip pres).foldl (fun b x => if x.2 then larger b (sVal ctx x.1) else b) (.inf true)
  if xIsNan mb || xIsNan mOld then ⟨f32Nan, f32Nan, as.map fun _ => 0, f32One, true, 0⟩
  else
    let mNew := if exact then mOld else larger mOld mb
    let p (x : Nat × Bool) (acc : RAcc) : Nat × RAcc :=
      let a := sVal ctx x.1
      if !x.2 || decide (a = .inf true) then (0, acc) else linkExp ctx a mNew acc
    let (ps, acc) := (as.zip pres).foldl (fun (o : List Nat × RAcc) x =>
      let (c, acc) := p x o.2
      (o.1 ++ [c], acc)) ([], {})
    let leaves := (ps.zip pres).map fun x => if x.2 then some x.1 else none
    if exact then
      let (l', acc) := probSum ctx g2 col0 l leaves acc
      ⟨m, l', ps, f32One, false, acc.flushes⟩
    else
      let (sb, acc) := probSum ctx g2 col0 0x80000000 leaves acc
      let (f, acc) := linkExp ctx mOld mNew acc
      let (l', acc) := if f = 0 then (sb, acc) else
        let (x, acc) := redRound ctx.ftz 0 false (xadd 0 (xmul (sVal ctx l) (sVal ctx f)) (sVal ctx sb)) acc
        (f32Code x, acc)
      ⟨f32Code mNew, l', ps, f, false, acc.flushes⟩

/-! ### The score program (R224, R225) -/

/-- Copy the logits of score block `e` from slot 1's span into the logit registers, and note which of them absent_mask leaves
present. -/
def keepLogits (s : State) (r : Running) (g : Geom) (e : Nat) : State × Running :=
  let P := r.prog
  let sg := r.scoreSeg g
  let (band, t) := sg.epiPlace P.width e
  let u := band - sg.aRow0 / 32
  let j0 := t * P.width - sg.bRow0
  let nb := linkBk r.ws / 32
  let mk := pf r.ws 6 16 4
  let a := (List.range (P.width / 32)).foldl (fun a k => (List.range 32).foldl (fun a i =>
    a.setRow (r.logitReg g + u * nb + j0 / 32 + k) i (a.row ((P.slot 1).base + k) i)) a) s.arch
  let present := if mk = 0 then r.link.present else
    (List.range 32).foldl (fun m i =>
      let key := 32 * u + i
      let bs := packBools (maskCols s.arch P.width mk i)
      sset 0 m key (sget 0 m key ||| bs <<< j0)) r.link.present
  ({ s with arch := a }, { r with link := { r.link with present := present } })

/-- Slots of the score program that are stored to memory: in the pass that counts only (R233). -/
def Running.scoreStores (r : Running) (P : Prog) : List Nat :=
  if r.link.pass2 then P.used.filter fun d => decide ((P.slot d).dir ≥ 2) && d != 1 else []

/-- What a block of the score program stores. -/
def scoreStored (s : State) (r : Running) (w : Walk) (band t : Nat) : Stored :=
  (r.scoreStores w.P).foldl (fun x d =>
    let p := slotPos r.op d
    let (c0, n) := slotBlock w.P d t
    x.block s.arch (r.desc p) p (w.P.slot d).base (32 * band) c0 n) {}

/-- CRC registers after a block of the score program has been stored, formed in `next`: the score block's commit brings them,
so that a block run again after a suspension is folded once (14 R340, R331). -/
def scoreCrcs (s : State) (r : Running) (w : Walk) (band t : Nat) : Sparse Nat :=
  (r.scoreStores w.P).foldl (fun acc d =>
    let p := slotPos r.op d
    let x := r.desc p
    let (c0, n) := slotBlock w.P d t
    if x.sealOut then sealBlock acc s.arch x p band (w.P.slot d).base c0 n else acc) r.next

/-- The walk of the score program. -/
def Running.scoreWalk (r : Running) : Walk := r.arrayWalk (r.side 0).total r.nk

/-- The Dygen 2 stream of the score program: it runs over the key blocks that are not skipped. -/
def Running.scoreEnv (r : Running) (g : Geom) (a : Arch) : G2Env :=
  let P := r.scoreWalk.P
  { P.g2env a (r.oobMasks P) with skip := r.keySkip g }

/-- The block of the score program at (band, t). -/
def Running.scoreBlk (r : Running) (s : State) (g : Geom) (band t : Nat) : Blk :=
  { r.blk s r.scoreWalk band t with g2env := if r.g2 then r.scoreEnv g s.arch else {} }

/-- The poisoned mask row that a block of the score program leaves to the link step. -/
def absentPoison (s : State) (r : Running) : Option Nat :=
  let mk := pf r.ws 6 16 4
  if mk = 0 then none else (List.range 32).find? fun i => (s.arch.maskRow mk i).poison

/-- Form the writes of a block of the score program, keep its logits. -/
def scoreForm (s : State) (r : Running) (g : Geom) : State :=
  let w := r.scoreWalk
  let (band, t) := (r.scoreSeg g).epiPlace w.P.width r.prod.epi
  match absentPoison s r with
  | some i => s.endPoison r 0xFF { kind := 0, storage := 2, source := 3, band := band, register := pf r.ws 6 16 4, row := i }
  | none =>
    let x := scoreStored s r w band t
    if r.link.pass2 && r.traps && r.stolen.isNone && x.fail.isNone then s.endTrap r
    else
      let (s, r) := keepLogits s r g r.prod.epi
      { (s.post x.beats).pumpRun r with run := some { r with stage := .commit true } }

/-- The writes of a block of the score program have their responses; its counts wait for the probability tile (R232). -/
def scoreFinish (s : State) (r : Running) (g : Geom) : State :=
  let w := r.scoreWalk
  let (band, t) := (r.scoreSeg g).epiPlace w.P.width r.prod.epi
  let x := scoreStored s r w band t
  match x.fail with
  | some (reg, row) =>
    s.endRowCheck r { kind := 2, source := 1, band := band, colTile := t * w.P.width / 32, register := reg, row := row }
  | none =>
    let p := if r.link.pass2 then r.pend.stored x else {}
    { s with run := some { r with pend := p, next := scoreCrcs s r w band t, pass := 0, stage := .finishing (r.prod.epi + 1) } }

/-! ### The link step and the probability tile (R226, R227) -/

/-- The first poisoned row of the running statistics. -/
def Running.statPoisoned (r : Running) (g : Geom) (a : Arch) : Option (Nat × Nat) :=
  ((List.range g.mr).find? fun n => let (k, i) := r.statOf n; (a.srow k i).poison).map r.statOf

/-- The Dygen 2 stream of the probability conversion: every p of a key block that is not skipped is converted, absent
ones too (R226, R227; log 11). -/
def Running.probEnv (r : Running) (g : Geom) : G2Env := { g2One with skip := r.keySkip g }

/-- The first poisoned logit row that the link step reads (15 R359): its band of the query block, its 32 keys and its row. -/
def Running.logitPoisoned (r : Running) (g : Geom) (a : Arch) : Option (Nat × Nat × Nat) :=
  let nb := linkBk r.ws / 32
  let rows := Nat.min g.mr ((r.side 0).total - g.mr * r.unit)
  let n := Nat.min nb (cdiv (r.nk - r.link.keyBlock * linkBk r.ws) 32)
  ((List.range rows).filter fun i => !bit r.link.nanRows i).findSome? fun i =>
    ((List.range n).find? fun k => (a.row (r.logitReg g + i / 32 * nb + k) (i % 32)).tag.poison).map fun k => (i / 32, k, i % 32)

/-- One probability converted to p_fmt, with its event (R227). -/
def Running.probCode (r : Running) (g : Geom) (n j p : Nat) : Nat × Ev :=
  let rho := g.mr * r.unit + n
  let c := r.link.keyBlock * linkBk r.ws + j
  let rnd := fallbackRnd r.fallback (pf r.ws 6 6 3)
  let env : G2Env := if r.g2 then r.probEnv g else {}
  let view : ViewIx := ⟨(r.side 0).total, r.nk, (r.desc 11).gRow0, 0, r.nk⟩
  convert r.cfg.ctx r.pFmt rnd (siteWord (r.keys (nth r.ws 8)) (pStream r.ws + 0xD0) env view rnd 0 rho c) (readVal r.cfg.ctx 0 p)

/-- Stage the probability tile of row `n`: its codes in the probability registers, and what the conversions report. -/
def stageProb (r : Running) (g : Geom) (a : Arch) (n : Nat) (ps : List Nat) (p : Pend) : Arch × Pend :=
  let w := tileWidth r.pFmt
  let inside := decide (g.mr * r.unit + n < (r.side 0).total)
  let (cs, p) := (List.range ps.length).foldl (fun (acc : List Nat × Pend) j =>
    let (c, e) := r.probCode g n j (nth ps j)
    let pd := if inside && decide (r.link.keyBlock * linkBk r.ws + j < r.nk) then
      (acc.2.add r.pFmt (if e.sat then 1 else 0)).add cFTZ (if e.flush then 1 else 0) else acc.2
    (acc.1 ++ [c], pd)) ([], p)
  ((List.range r.perProb).foldl (fun a t => a.setRow (r.probReg g + n / 32 * r.perProb + t) (n % 32)
    (freshRow r.producer r.pFmt false (BitVec.ofNat 1024 (pack (fmtBits r.pFmt) ((cs.drop (t * w)).take w))))) a, p)

/-- The link step of one row in pass 2 or the single pass: statistics, factor, NaN mark, probability registers. -/
def linkStepRow (r0 : Running) (g : Geom) (src : Arch) (ar : Arch × Running) (n : Nat) : Arch × Running :=
  let (a, r) := ar
  let bk := linkBk r0.ws
  let (k, i) := r0.statOf n
  let sr := src.srow k i
  let pres := (List.range bk).map (r0.presentAt g n)
  let x := if bit r0.link.nanRows n then ⟨f32Nan, f32Nan, List.replicate bk 0, f32One, true, 0⟩
    else linkRow r0.cfg.ctx r0.g2 r0.exactMode (r0.link.keyBlock * bk) (r0.logitsOf g src n) pres sr.max.toNat sr.sum.toNat
  let (a, p) := stageProb r0 g (r0.setStat a n x.m x.l) n x.p
    (r.pend.add cFTZ (if g.mr * r0.unit + n < (r0.side 0).total then x.flushes else 0))
  (a, { r with pend := p
               link := { r.link with factors := r.link.factors ++ [x.f]
                                     nanRows := if x.nan then r.link.nanRows ||| 1 <<< n else r.link.nanRows } })

/-- Pass 1 of exact mode: fold the maximum of the present logits (R233). -/
def linkMaxRow (r0 : Running) (g : Geom) (src : Arch) (ar : Arch × Running) (n : Nat) : Arch × Running :=
  let (a, r) := ar
  let bk := linkBk r0.ws
  let (k, i) := r0.statOf n
  let sr := src.srow k i
  let pres := (List.range bk).map (r0.presentAt g n)
  let m := ((r0.logitsOf g src n).zip pres).foldl (fun b x => if x.2 then larger b (sVal r0.cfg.ctx x.1) else b)
    (sVal r0.cfg.ctx sr.max.toNat)
  (r0.setStat a n (f32Code m) (if xIsNan m then f32Nan else sr.sum.toNat),
   { r with link := { r.link with nanRows := if xIsNan m then r.link.nanRows ||| 1 <<< n else r.link.nanRows } })

/-- End a thief's query block with its report (13 R318). -/
def State.reportBlock (s : State) (r : Running) : State :=
  let p := { r.pend with nan := r.link.firstNan.orElse fun _ => r.pend.nan }
  (s.leave r).sendWords 6 (reportWords (r.report s r.scoreWalk (r.stolen.getD 0) p))

/-- A thief's NaN event under trap_mode 1 ends its query block. -/
def Running.thiefTraps (r : Running) : Bool :=
  r.stolen.isSome && r.cfg.trapMode && (r.pend.nan.isSome || r.link.firstNan.isSome)

/-- Go to the next key block. Of the NaN marks, those of the output's wide tiles stay: the score tiles hold other elements
then (08 R208). -/
def Running.nextKeyBlock (r : Running) (g : Geom) : Running :=
  let first := r.outWide g 0 0
  { r with stage := .load
           prod := { counted := r.prod.counted, drainNan := r.prod.drainNan.filter fun m => decide (first ≤ m.1 / 32)
                     landings := r.prod.landings }
           link := { r.link with keyBlock := r.link.keyBlock + 1, phase := 0, corrected := 0, present := [] } }

/-- The score block is complete: the link step, and the commit of the score program's and the conversion's counts (R232). -/
def linkStep (s : State) (r : Running) (g : Geom) : State :=
  match r.statPoisoned g s.arch with
  | some (k, i) => s.endPoison r 0xFF { kind := 0, storage := 3, source := 3, band := g.mr / 32 * r.unit, register := k, row := i }
  | none =>
  match r.logitPoisoned g s.arch with
  | some (u, k, i) =>
    s.endPoison r 0xFF { kind := 0, storage := 0, source := 3, band := g.mr / 32 * r.unit + u
                         colTile := r.link.keyBlock * (linkBk r.ws / 32) + k
                         register := r.logitReg g + u * (linkBk r.ws / 32) + k, row := i }
  | none =>
    if !r.link.pass2 then
      let (a, r) := (List.range g.mr).foldl (linkMaxRow r g s.arch) (s.arch, { r with pend := {} })
      { s with arch := a, run := some (r.nextKeyBlock g) }
    else
      let (a, r) := (List.range g.mr).foldl (linkStepRow r g s.arch) (s.arch, { r with link := { r.link with factors := [] } })
      let s := { s with arch := a }
      let r := { r with acc := r.next }
      if r.traps && r.stolen.isNone then s.endTrap r
      else if r.thiefTraps then s.reportBlock r
      else
        let (s, r) := s.settle r
        { s with run := some { r with stage := .staging 0, prod := { r.prod with resolved := 0 }
                                      link := { r.link with phase := 2, corrected := 0 } } }

/-! ### The second product (R228) -/

/-- The output column block in hand: the first not corrected. -/
def Running.colBlock (r : Running) (g : Geom) : Nat :=
  ((List.range (r.colBlocks g)).find? fun c => !bit r.link.corrected c).getD 0

/-- The items of v for the column block in hand: bands of Dv, tiles of the key block. -/
def Running.vItems (r : Running) (g : Geom) : List Item :=
  let w := tileWidth (r.desc 8).format
  let k0 := r.link.keyBlock * linkBk r.ws
  let k1 := Nat.min (k0 + linkBk r.ws) r.nk
  let v := r.side 2
  (List.range (g.nc / 32)).flatMap fun u => (List.range r.perV).map fun t =>
    { reg := r.vReg g + u * r.perV + t, kind := 0, side := v, pos := 8, row0 := r.colBlock g * g.nc + 32 * u
      limit := v.total, c0 := k0 + t * w, c1 := Nat.max (k0 + t * w) (Nat.min k1 (k0 + (t + 1) * w)) }

/-- The scale codes of band `u` of v for the key block, with poison: columns of the v_scales register. -/
def Running.vScaleItems (r : Running) (g : Geom) : List Item :=
  if !r.has 9 then [] else
  let q0 := r.link.keyBlock * linkBk r.ws / 32
  let q1 := Nat.min (q0 + linkBk r.ws / 32) (cdiv r.nk 32)
  let v := r.side 2
  (List.range (g.nc / 32)).map fun u =>
    { reg := r.vScaleReg g, kind := 1, side := v, pos := 9, row0 := r.colBlock g * g.nc + 32 * u, limit := v.total
      c0 := q0, c1 := q1 }

/-- Load the v_scales register: band u's codes in columns u × Bk / 32 and on. -/
def loadVScales (r : Running) (g : Geom) (buf : Sparse RdLine) (a : Arch) : Arch :=
  let n := linkBk r.ws / 32
  let its := r.vScaleItems g
  (List.range 32).foldl (fun a i =>
    let rows := its.map fun it => it.row r buf i
    a.setRow (r.vScaleReg g) i (freshRow r.producer 12 (rows.any (·.tag.poison))
      (BitVec.ofNat 1024 (pack 8 (rows.flatMap fun t => (unpack 8 128 t.bytes).take n))))) a

/-- The scale code of row `n` of the column block, micro-block k of the key block. -/
def Running.vScaleAt (r : Running) (g : Geom) (a : Arch) (n k : Nat) : Nat :=
  bits (a.row (r.vScaleReg g) (n % 32)).bytes (8 * (n / 32 * (linkBk r.ws / 32) + k)) 8

/-- OPB of the second product: scale and payload beats of each main step (08 R199). -/
def vBeats (r : Running) (g : Geom) (a : Arch) : List (BitVec 4096 × Nat) :=
  let w := tileWidth (r.desc 8).format
  let k0 := r.link.keyBlock * linkBk r.ws / 32
  (List.range r.perV).flatMap fun t =>
    let per := w / 32
    let es := (List.range g.nc).flatMap fun n => (List.range per).map fun k =>
      let q := t * per + k
      if q ≥ linkBk r.ws / 32 || k0 + q ≥ cdiv r.nk 32 then 0
      else let c := r.vScaleAt g a n q; scaleEntry (c = 255) c
    (if r.has 9 then (List.range (cdiv es.length 256)).map fun k => (BitVec.ofNat 4096 (pack 16 ((es.drop (256 * k)).take 256)), 1)
      else []) ++
    ((List.range (g.nc / 32)).flatMap fun u => regBeats a (r.vReg g + u * r.perV + t)).map fun b => (b, 0)

/-- OPA of the second product: the probability tile. -/
def probBeats (r : Running) (g : Geom) (a : Arch) : List (BitVec 4096) :=
  (List.range r.perProb).flatMap fun t => (List.range (g.mr / 32)).flatMap fun u =>
    regBeats a (r.probReg g + u * r.perProb + t)

/-- Registers that the second product sends, with the descriptor position of what they hold. -/
def Running.sentRegs (r : Running) (g : Geom) : List (Nat × Nat) :=
  (List.range (g.mr / 32 * r.perProb)).map (fun k => (r.probReg g + k, 0xFF)) ++
  (List.range (g.nc / 32 * r.perV)).map (fun k => (r.vReg g + k, 8)) ++
  (if r.has 9 then [(r.vScaleReg g, 9)] else [])

/-- Open the second product's segment for a column block and send all of it (R228). -/
def linkOpen (s : State) (r : Running) (g : Geom) : State :=
  let h := r.link.keyBlock
  let opened := { r with prod := { r.prod with segOpen := true, kseg := h, shift := 0, seen := 0, landed := [] } }
  let s := s.driveMxa r (.ctl (ctlWord 1 0 false false false (r.has 9) r.pFmt (r.desc 8).format h (linkBk r.ws / 32)))
  let where_ : ErrRec := { kind := 1, source := 4, band := g.mr / 32 * r.unit, colTile := r.colBlock g * (g.nc / 32) }
  let bad (f : TileRow → Bool) : Option ((Nat × Nat) × Nat) :=
    (r.sentRegs g).findSome? fun x => ((List.range 32).find? fun i => f (s.arch.row x.1 i)).map fun i => (x, i)
  match bad (·.tag.poison) with
  | some (x, i) => s.endPoison opened x.2 { where_ with register := x.1, row := i }
  | none =>
  match bad TileRow.mismatch with
  | some (x, i) => s.endRowCheck opened { where_ with register := x.1, row := i }
  | none =>
    let s := (probBeats r g s.arch).foldl (fun s b => s.driveMxa r (.opa b 0)) s
    let s := (vBeats r g s.arch).foldl (fun s b => s.driveMxa r (.opb b.1 (BitVec.ofNat 2 b.2))) s
    { s.driveMxa r (.ctl (ctlWord 3 0 false false false false 0 0 h 0)) with run := some { opened with stage := .draining } }

/-- Stage item `k` of v, then its scales, then open the segment. -/
def stageV (s : State) (r : Running) (g : Geom) (k : Nat) : State :=
  let its := r.vItems g
  match its[k]? with
  | some it =>
    match s.askRun r (it.lines r) with
    | .fault _ => s
    | .wait s => s
    | .ready s buf => { s with arch := it.load r buf s.arch, run := some { r with stage := .staging (k + 1) } }
  | none =>
    if k = its.length && r.has 9 then
      match s.askRun r ((r.vScaleItems g).flatMap (·.lines r)) with
      | .fault _ => s
      | .wait s => s
      | .ready s buf => { s with arch := loadVScales r g buf s.arch, run := some { r with stage := .staging (k + 1) } }
    else if s.pair.token || r.mirror then linkOpen s r g else s.takeToken

/-- The corrected value of WAS element (i, j) of wide tile `t` under drained value d (R228, R233). -/
def correctElem (first exact : Bool) (f w d : Nat) : Nat :=
  let x := decode 0 d
  if first then r64 x
  else if exact then r64 (xadd 0 (decode 13 w) x)
  else match decode 0 f with
    | .fin _ 0 _ => r64 x
    | y => r64 (xadd 0 (xmul (decode 13 w) y) x)

/-- Correct one output sub-tile: every row but NaN rows, with the drain events of the elements it uses (R205, R231). -/
def correctTile (r : Running) (g : Geom) (a : Arch) (u c wide : Nat) (bs : List DrnBeat) : Arch × Pend × Sparse Nat :=
  let live (i : Nat) : Bool := !bit r.link.nanRows (32 * u + i)
  let a := (List.range 32).foldl (fun acc i =>
    if live i then
      acc.setWide wide i ((List.range 32).map fun j =>
        correctElem (!r.link.started) r.exactMode (nth r.link.factors (32 * u + i)) (a.wide wide i j) (drnVal bs i j))
    else acc) a
  let (p, m) := (List.range 32).foldl (fun pm i =>
    if !live i then pm else
    (List.range 32).foldl (fun (pm : Pend × Sparse Nat) j =>
      let rho := g.mr * r.unit + 32 * u + i
      if isNanCode 0 (drnVal bs i j) && decide (rho < (r.side 0).total) && decide (32 * c + j < r.dv) then
        let key := 32 * wide + i
        ((pm.1.add cNANPROD 1).addNan r.g2 32 (drainNan 0 rho (32 * c + j)), sset 0 pm.2 key (sget 0 pm.2 key ||| 1 <<< j))
      else pm) pm) (r.pend.beats bs, r.prod.drainNan)
  (a, p, m)

/-- The drain of the second product's column block is complete: the next column block, or the next key block. -/
def linkCorrected (s : State) (r : Running) (g : Geom) : State :=
  let r := { r with prod := { r.prod with segOpen := false, resolved := 0, kseg := 0 } }
  if r.halts && r.stolen.isNone then s.endTrap r
  else if r.thiefTraps then s.reportBlock r
  else
    let r := { r with link := { r.link with corrected := r.link.corrected ||| 1 <<< r.colBlock g } }
    if r.link.corrected = 2 ^ r.colBlocks g - 1 then
      { s with run := some { r.nextKeyBlock g with link := { (r.nextKeyBlock g).link with started := true } } }
    else { s with run := some { r with stage := .staging 0 } }

/-- After a sub-tile of the second product's drain: the rows are corrected once the last has come. -/
def linkDrained (s : State) (r : Running) (g : Geom) (d : Drain) : State :=
  if d.complete r.prod.seen then linkCorrected s r g else { s with run := some r }

/-- A drained beat of the second product. -/
def linkDrain2 (s : State) (r : Running) (g : Geom) (h : DrnHdr) (data : BitVec 4096) (m : Mishap) : State :=
  let nv := g.nc / 32
  let d : Drain := ⟨g.mr / 32 * r.unit, r.colBlock g * nv, g.mr / 32, nv, r.link.keyBlock, 0, 0⟩
  match d.accept r.prod.seen h with
  | none => s.protocolError r
  | some t =>
    let r := { r with prod := r.prod.land t h data }
    let c := d.col0 + t % nv
    match r.prod.whole t with
    | none => { s with run := some r }
    | some bs =>
      let r := { r with prod := r.prod.clearTile t }
      if decide (c ≥ cdiv r.dv 32) || bit r.prod.resolved t then linkDrained s r g d else
      let reg := (r.linkSeg g).landing r + r.prod.landings % 2
      let s := { s with arch := landTile s.arch reg r.producer 0 bs }
      let r := { r with prod := { r.prod with landings := r.prod.landings + 1 } }
      let wide := r.outWide g (t / nv) c
      let where_ : ErrRec := { kind := 0, storage := 4, source := 3, band := d.band0 + t / nv, colTile := c }
      if r.link.started && (s.arch.wideBad wide).isSome then s.endPoison r 0xFF where_
      else
        let m := ofUnits m 1
        if fatal m then s.endResidue r m where_
        else
          let (s, r) := s.spillTo r m t fun r a => correctTile r g a (t / nv) c wide bs
          linkDrained s r g d

/-- After a segment of the first product: the next one, or the score program. -/
def Running.afterScores (r : Running) (g : Geom) : Running :=
  if r.prod.kseg + 1 < r.segments g then { r with prod := { r.prod with kseg := r.prod.kseg + 1 }, stage := .token }
  else { r with stage := .finishing 0, next := r.acc, link := { r.link with phase := 1, present := [] } }

/-- In pass 1 of exact mode nothing is counted (R233). -/
def Running.mute (r r0 : Running) : Running :=
  if r0.link.pass2 then r else { r with pend := {}, prod := { r.prod with counted := r0.prod.counted } }

/-- A drained beat of the first product. -/
def linkDrain1 (s : State) (r : Running) (g : Geom) (h : DrnHdr) (data : BitVec 4096) (m : Mishap) : State :=
  let sg := r.linkSeg g
  let d := sg.drain r
  let nv := g.nc / 32
  let nb := linkBk r.ws / 32
  match d.accept r.prod.seen h with
  | none => s.protocolError r
  | some t =>
    let r := { r with prod := r.prod.land t h data }
    let done (s : State) (r : Running) : State :=
      if !d.complete r.prod.seen then { s with run := some (r.mute r) }
      else if (r.mute r).thiefTraps then s.reportBlock (r.mute r)
      else sg.drained s (r.mute r) (d.nu * nv) (·.afterScores g)
    let beyond := decide (t % nv ≥ nb)
    if bit r.prod.resolved t && !beyond then done s { r with prod := r.prod.clearTile t }
    else match r.prod.whole t with
      | none => { s with run := some r }
      | some bs =>
        if beyond then
          let p := r.prod.clearTile t
          done s { r with prod := { p with resolved := p.resolved ||| 1 <<< t } }
        else
          match sg.spill s r t (t / nv * nb + t % nv) bs m with
          | (s, some r) => done s r
          | (s, none) => s

/-! ### Finish and log-sum-exp (R229-R231) -/

/-- One row finished: FP32 codes of out, of lse, and whether it is fully masked. -/
structure FinRow where
  out : List Nat
  lse : Nat
  masked : Bool
  deriving DecidableEq, Repr

/-- Finish row `n` of the query block: F, the division by the row sum, and lse, with their events by output column. -/
def finishRow (r : Running) (g : Geom) (a : Arch) (n : Nat) (acc : SAcc) : FinRow × SAcc :=
  let ctx := r.cfg.ctx
  let (k, i) := r.statOf n
  let sr := a.srow k i
  let nc := cdiv r.dv 32
  let b (c : Nat) : Blk := r.subBlk (r.side 0).total r.dv (g.mr * r.unit + 32 * (n / 32)) (32 * c) (r.desc 11)
  let cols := List.range (32 * nc)
  let at_ (c : Nat) (f : Blk → Nat → SAcc → SAcc) (s : SAcc) : SAcc :=
    let bl := b (c / 32)
    if bl.inside i (c % 32) then f bl (c % 32) s else s
  let lseEv (e : Ev) (s : SAcc) : SAcc := if r.has 12 then at_ 0 (fun bl j s => s.ev bl i j 0 e) s else s
  if bit r.link.nanRows n then
    let s := cols.foldl (fun s c => at_ c (fun bl j s => s.nan bl i j true 0) s) acc
    (⟨cols.map fun _ => f32Nan, f32Nan, false⟩, lseEv { nanProd := true } s)
  else if sr.max.toNat = f32NegInf then (⟨cols.map fun _ => 0, f32NegInf, true⟩, acc)
  else
    let l := sVal ctx sr.sum.toNat
    let rcp := decode 0 (rcpF32 l)
    let (out, s) := cols.foldl (fun (o : List Nat × SAcc) c =>
      let wide := r.outWide g (n / 32) (c / 32)
      let (fc, e1) := finElem ctx false 0 (a.wide wide i (c % 32))
      let (v, e2) := convert ctx 0 0 0 (xmul (decode 0 fc) rcp)
      let drained := r.prod.nanAt wide i (c % 32)
      let e2 := Ev.quiet e2 (isNanCode 0 fc)
      (o.1 ++ [v], at_ c (fun bl j s => (s.ev bl i j 0 (Ev.quiet e1 drained)).ev bl i j 0 e2) o.2)) ([], acc)
    let (lse, e) := convert ctx 0 0 0 (xadd 0 (sVal ctx sr.max.toNat) (decode 0 (log2F32 l)))
    (⟨out, lse, false⟩, lseEv e s)

/-- The first poisoned WAS row that the finish of a query block reads. -/
def Running.finPoison (r : Running) (g : Geom) (a : Arch) : Option (Nat × Nat × Nat) :=
  let rows := Nat.min g.mr ((r.side 0).total - g.mr * r.unit)
  (List.range rows).findSome? fun n => ((List.range (cdiv r.dv 32)).find? fun c =>
    r.link.started && a.widePoison (r.outWide g (n / 32) c) (n % 32)).map fun c => (n / 32, c, n % 32)

/-- Finish the query block: its outputs, lse and MASKED_ROWS (R229-R232). -/
def linkFinishBlock (s : State) (r : Running) (g : Geom) (m : Mishap) : State :=
  let a := r.side 0
  let row0 := g.mr * r.unit
  let rows := Nat.min g.mr (a.total - row0)
  let where_ : ErrRec := { kind := 0, storage := 4, source := 3, band := row0 / 32 }
  match r.finPoison g s.arch with
  | some (u, c, i) => s.endPoison r 0xFF { where_ with band := row0 / 32 + u, colTile := c, row := i }
  | none =>
  match r.statPoisoned g s.arch with
  | some (k, i) => s.endPoison r 0xFF { where_ with storage := 3, register := k, row := i }
  | none =>
    let nt := cdiv r.dv 32
    let m := ofUnits m (cdiv rows 32 * nt)
    let bad := failedUnit m
    if fatal m then s.endResidue r m { where_ with band := row0 / 32 + bad / nt, colTile := bad % nt } else
    let d := r.desc 11
    let (fs, p) := (List.range (cdiv rows 32)).foldl (fun (acc : List FinRow × Pend) u =>
      let (fs, f) := (List.range (Nat.min 32 (rows - 32 * u))).foldl (fun (o : List FinRow × SAcc) i =>
        let (x, s) := finishRow r g s.arch (32 * u + i) o.2
        (o.1 ++ [x], s)) ([], {})
      (acc.1 ++ fs, acc.2.site (r.subBlk a.total r.dv (row0 + 32 * u) 0 d) 3 f)) ([], r.pend)
    let p := p.add cMASKROW (fs.filter (·.masked)).length
    let row (n : Nat) : FinRow := fs.getD n ⟨[], 0, false⟩
    let (outs, p) := (List.range (cdiv rows 32)).foldl (fun (acc : List (Nat × List (List Nat)) × Pend) u =>
      (List.range nt).foldl (fun (acc : List (Nat × List (List Nat)) × Pend) c =>
        let b := r.subBlk a.total r.dv (row0 + 32 * u) (32 * c) d
        let rs := (List.range 32).map fun i => ((row (32 * u + i)).out.drop (32 * c)).take 32
        let (o, f) := outTile b 0 d.format (r.classRnd d.cls)
          (fun i j => bit r.link.nanRows (32 * u + i) || r.prod.nanAt (r.outWide g u c) i j) rs {}
        (acc.1 ++ [(u * nt + c, o)], acc.2.site b 3 f)) acc) ([], p)
    let og : Seg := { r.linkSeg g with nc := 32 * nt, bRow0 := 0, b := r.side 2 }
    let x := storeTiles r d 11 og outs
    let x := if r.has 12 then (List.range (cdiv rows 32)).foldl (fun x u =>
        tileStored x r (r.desc 12) 12 (row0 / 32 + u) 0 1 fun i => ([(row (32 * u + i)).lse], false)) x else x
    let next := if d.sealOut then sealTiles r.acc d 11 og outs else r.acc
    let next := if r.has 12 && (r.desc 12).sealOut then (List.range (cdiv rows 32)).foldl (fun acc u =>
        sealPart acc (r.desc 12) 12 (row0 / 32 + u) 0 32 fun i => [(row (32 * u + i)).lse]) next else next
    (s.residue m).tileReady { r with link := { r.link with phase := 3 } } x p next

/-! ### Query blocks -/

/-- Begin the query block's statistics, or the second pass's sums: m where `max` is given, and l. -/
def Running.initStats (r : Running) (g : Geom) (a : Arch) (max : Option Nat) (l : Nat) : Arch :=
  (List.range g.mr).foldl (fun a n =>
    let (k, i) := r.statOf n
    let old := a.srow k i
    r.setStat a n (max.getD old.max.toNat) (if max.isNone && bit r.link.nanRows n then f32Nan else l)) a

/-- Begin a query block or go to its next key block: the indices it gathers by, the second pass, or the finish. -/
def linkLoad (s : State) (r : Running) (g : Geom) : State :=
  if !r.link.begun then
    { s with arch := r.initStats g s.arch (some f32NegInf) 0
             run := some { r with link := { begun := true, pass2 := !r.exactMode } } }
  else match r.nextKey g with
  | none =>
    if !r.link.pass2 then
      { s with arch := r.initStats g s.arch none 0x80000000
               run := some { r with link := { r.link with pass2 := true, keyBlock := 0 } } }
    else { s with run := some { r with stage := .finishing 0, link := { r.link with phase := 3 } } }
  | some h =>
    let r := { r with link := { r.link with keyBlock := h } }
    let g1 := r.linkSeg g
    let gv := r.vSeg g
    match s.askRun r (g1.indexLines r [g1.a, g1.b] ++ gv.indexLines r [gv.b]) with
    | .fault _ => s
    | .wait s => s
    | .ready s buf =>
      let ix := (gv.keepIndex r [gv.b] buf).foldl (fun m kv => sput m kv.1 kv.2) (g1.keepIndex r [g1.a, g1.b] buf)
      let r1 := { r with prod := { r.prod with index := ix } }
      let r1 := if r.link.pass2 then gv.countClamps [gv.b] (g1.countClamps [g1.a, g1.b] r1) else r1
      { s with run := some { r1 with stage := .token } }

/-- A query block has committed: the next (13 R319), or the writes after the last. -/
def Running.nextQuery (r : Running) (total : Nat) : Running :=
  { r with tilesDone := r.tilesDone + 1, pend := {}, pass := 0, acc := r.next, link := {}
           prod := { counted := r.prod.counted } }.nextBand total 1

/-- The query block's writes have their responses: it commits, or a thief reports it. -/
def linkFinish (s : State) (r : Running) (g : Geom) : State :=
  if r.stolen.isSome then s.reportBlock { r with acc := r.next }
  else
    { s.commitPend r r.pend with
      run := some ({ r with nanSeen := r.nanSeen || r.pend.nan.isSome }.nextQuery (r.queryBlocks g)) }

/-- Form the writes of a score block or of a query block. -/
def linkForm (s : State) (r : Running) : State :=
  let g := geomOf s.straps.mxaGeom
  if r.link.phase = 1 then scoreForm s r g
  else if r.stolen.isSome then
    (if r.traps then s.dropOutbox.reportBlock r else { s.pumpRun r with run := some { r with stage := .commit true } })
  else tileForm s r

/-- The writes that `linkForm` formed have their responses. -/
def linkCommit (s : State) (r : Running) : State :=
  let g := geomOf s.straps.mxaGeom
  if r.link.phase = 1 then scoreFinish s r g else linkFinish s r g

/-- The walk of the query blocks, each one unit, for the reports of stolen ones. -/
def Running.outWalk (r : Running) : Walk :=
  let w := r.scoreWalk
  { w with P := { w.P with width := Nat.max 1 (w.d.cLocal w.tr) } }

/-- After the last query block: the reports of stolen ones in order, then the seals (13 R318, 14 R340). -/
def linkTrailer (s : State) (r : Running) : State :=
  let w := r.scoreWalk
  match commitReports s r r.outWalk r.reports with
  | (s, none) => s
  | (s, some r) =>
    sealTrailer s r ([11, 12] ++ ((w.P.used.filter fun d => decide ((w.P.slot d).dir ≥ 2) && d != 1).map (slotPos r.op)))

/-! ### The step of a LINK_RUN -/

/-- A drained beat of a LINK_RUN. -/
def linkDrain (s : State) (r : Running) (h : DrnHdr) (data : BitVec 4096) (m : Mishap) : State :=
  let g := geomOf s.straps.mxaGeom
  if r.link.phase = 2 then linkDrain2 s r g h data m else linkDrain1 s r g h data m

/-- Staging of the first product; in pass 1 nothing it counts is kept. -/
def linkStage1 (s : State) (r : Running) (g : Geom) (k : Nat) : State :=
  let t := (r.linkSeg g).stage s r k
  { t with run := t.run.map fun x => x.mute r }

/-- The next piece of a LINK_RUN. An owner that has only stolen query blocks left yields the token to its thief (13 R317). -/
def linkStepRun (s : State) (r : Running) (m : Mishap) : State :=
  if (s.port.faultOf ownCmd).isSome then (if r.stolen.isSome then s.abandonBand r else s) else
  let s := if r.stage = .passes then s else s.eccHits m
  let g := geomOf s.straps.mxaGeom
  match r.stage with
  | .verify pos tile crc => verifyStep s r pos tile crc
  | .load =>
    if r.link.begun then linkLoad s r g else
    match commitReports s r r.outWalk (r.reportsBefore r.unit) with
    | (s, none) => s
    | (s, some r) => linkLoad s r g
  | .token => tokenStep s r
  | .staging k => if r.link.phase = 2 then stageV s r g k else linkStage1 s r g k
  | .finishing e =>
    if r.link.phase = 3 then linkFinishBlock s r g m
    else
      let sg := r.scoreSeg g
      let w := r.scoreWalk
      if e < sg.epiCount w.P.width then loadEpi s r sg w e m else linkStep s r g
  | .passes =>
    let w := r.scoreWalk
    let (band, t) := (r.scoreSeg g).epiPlace w.P.width r.prod.epi
    passStep s r w.P (r.scoreBlk s g band t) w.P.passes m
  | .waiting =>
    let s := if s.pair.partnerReq && s.pair.mode = .split then s.releaseToken else s
    { s with run := some (r.nextBand (r.queryBlocks g) 1) }
  | _ => s

end Sys2Proof.Machine
end

