-- ==== Sys2Proof/Machine/Context.lean ====
section
/-! DEFINITION. Context images, suspension and resumption (13 R321-R333; 14 R346; 15 R329, R350, R443; 16 R390). -/

namespace Sys2Proof.Machine

open Sys2Proof

/-! ### The lines of an image (13 R328, 15 R443) -/

/-- A line of context state: meta 0 and the check of its bytes (17 R399). -/
def imgLine (data : Nat) (poison : Bool) : RdLine :=
  let d : Line := BitVec.ofNat 1024 data
  ⟨d, rowCheck d, 0, poison⟩

/-- Line `k` of the masks: four mask rows. -/
def Arch.maskLine (a : Arch) (k : Nat) : RdLine :=
  let rs := (List.range 4).map fun j => a.maskRow ((4 * k + j) / 32) ((4 * k + j) % 32)
  imgLine (pack 256 (rs.map (·.bits.toNat))) (rs.any (·.poison))

/-- Line `k` of the S registers: 32 words, five to a row. -/
def Arch.sLine (a : Arch) (k : Nat) : RdLine :=
  let ws := (List.range 32).map (· + 32 * k)
  let row (w : Nat) : SRow := a.srow (w / 160) (w % 160 / 5)
  imgLine (pack 32 (ws.map fun w => (sVals (row w)).get (w % 5))) (ws.any fun w => (row w).poison)

/-- Line `k` of the WAS: a line of context state, whatever check the row carries (17 R399). -/
def Arch.wasLine (a : Arch) (k : Nat) : RdLine :=
  let x := a.wasRow k
  ⟨x.data, rowCheck x.data, 0, x.poison⟩

/-- Line `k` of the chain store: two granules. -/
def Arch.chainLine (a : Arch) (k : Nat) : RdLine :=
  imgLine (pack 512 [(a.granule (2 * k)).toNat, (a.granule (2 * k + 1)).toNat])
    (a.progs.any fun e => e.poison && (e.holds (2 * k) || e.holds (2 * k + 1)))

/-- Row `i` of tile register `n` as it leaves (R329, 15 R350, R351): a mismatched row is poisoned. -/
def Arch.tileLine (a : Arch) (n i : Nat) : RdLine :=
  let t := a.row n i
  ⟨BitVec.ofNat 1024 t.bytes, t.check, rowMeta t, t.tag.poison || t.mismatch⟩

/-- Everything of an image but its state block and its descriptors. -/
def Arch.imageBody (a : Arch) (explicit : Bool) : List RdLine :=
  (List.range 128).map a.maskLine ++ (List.range 160).map a.sLine ++ (List.range 4096).map a.wasLine ++
  (if explicit then (List.range 128).map a.chainLine else []) ++
  a.dirtyRegs.flatMap fun n => (List.range 32).map (a.tileLine n)

/-- Dirty rows whose check fails as they are saved (15 R350). -/
def Arch.saveMismatches (a : Arch) : Nat :=
  (a.dirtyRegs.flatMap fun n => (List.range 32).filter fun i => (a.row n i).mismatch).length

/-! ### The state block (R329) -/

/-- Code of a phase. -/
def Phase.code : Phase → Nat
  | .single => 0
  | .collect => 1
  | .apply => 2

/-- Bit k of the result: row k of register n is valid. -/
def Arch.rowValid (a : Arch) (n : Nat) : Nat := packBools ((List.range 32).map fun i => (a.row n i).tag.valid)

/-- The words that every image carries, words 0 to 4 given. -/
def Arch.imageWord (a : Arch) (w1 w2 w3 w4 k : Nat) : Nat :=
  if k = 0 then 0x43580031 else if k = 1 then w1 else if k = 2 then w2 else if k = 3 then w3 else if k = 4 then w4
  else if 16 ≤ k && k < 19 then bits a.dirty.toNat (32 * (k - 16)) 32
  else if 48 ≤ k && k < 144 then a.rowValid (k - 48)
  else 0

/-- The code-6 sites of a command, the view and tensor whose elements they draw for, and the first element of its unit in
hand (14 R345). A command without such sites keeps the start states of its output tensor (03 R81, log 18). -/
def Running.g2Sites (r : Running) (a : Arch) (g : Geom) : Option (G2Env × ViewIx × Nat × Nat × Nat) :=
  let op := r.op
  let conv (d : Desc) (row0 col0 : Nat) : Option (G2Env × ViewIx × Nat × Nat × Nat) :=
    some (if r.classRnd d.cls = 6 then g2One else {}, d.view false, d.tensorId, row0, col0)
  if !r.g2 then none
  else if op = oCHAIN || op = oEXPORT then
    let w := r.walk
    let (band, t, _) := w.place r.unit
    some (w.P.g2env a (r.oobMasks w.P), w.d.view w.tr, w.d.tensorId, 32 * band, t * w.P.width)
  else if op = oCOPY || op = oQUANT then
    let d := r.desc 1
    let nt := d.ctiles false
    conv d (32 * (r.unit / nt)) (r.unit % nt * tileWidth d.format)
  else if op = oPRODUCT then
    let sg := r.prodSeg g
    if (pProg r.ws).isNone then conv (r.desc 9) sg.aRow0 sg.bRow0
    else
      let w := r.arrayWalk sg.a.total sg.b.total
      some (w.P.g2env a (r.oobMasks w.P), w.d.view w.tr, w.d.tensorId, sg.aRow0, sg.bRow0)
  else if op = oLINK then
    let col0 := r.link.keyBlock * linkBk r.ws
    if pf r.ws 6 6 3 = 6 then
      some (r.probEnv g, ⟨(r.side 0).total, r.nk, (r.desc 11).gRow0, 0, r.nk⟩, nth r.ws 8, g.mr * r.unit, col0)
    else if r.prog.usesRnd 6 then
      let w := r.scoreWalk
      some (r.scoreEnv g a, w.d.view w.tr, w.d.tensorId, g.mr * r.unit, col0)
    else conv (r.desc 11) (g.mr * r.unit) 0
  else none

/-- State of Dygen 2 lane `l` at the start of the unit in hand (14 R345, R346; log 18). -/
def Running.g2Lane (r : Running) (a : Arch) (g : Geom) (l : Nat) : Nat :=
  match r.g2Sites a g with
  | none => 0
  | some (env, v, tensor, row0, col0) =>
    if env.open_ then Config.freeG2Word 0 (256 * r.unit + l) % 2 ^ 32
    else
      let rho := row0 + (l / 16 + 16 - (v.gRow0 + row0) % 16) % 16
      let c := col0 + (l % 16 + 16 - (v.gCol0 + col0) % 16) % 16
      g2LaneSkip (g2Drawn env v rho c) (g2LaneStart (r.keys tensor) l)

/-- The words of the suspended command. -/
def Running.stateWord (r : Running) (s : State) (k : Nat) : Nat :=
  let p := r.prod
  let l := r.link
  let two (n j : Nat) : Nat := bits n (32 * j) 32
  if k = 5 then Nat.min r.tilesDone 0xFFFFFFFF
  else if k = 6 || k = 7 then two r.unit (k - 6)
  else if k = 8 then (r.pass % 16) <<< 28 + r.phase.code <<< 26
  else if k = 9 then (p.kseg % 4096) <<< 20 + (p.shift % 4) <<< 18 + (if p.segOpen then 1 <<< 17 else 0)
  else if k = 10 || k = 11 then two p.resolved (k - 10)
  else if k = 12 then
    (if r.op = oLINK then (if l.pass2 then 1 <<< 31 else 0) + (Nat.min 2 l.phase) <<< 29 + (l.keyBlock % 4096) <<< 17 else 0)
  else if k = 13 || k = 14 then two l.corrected (k - 13)
  else if k = 15 then (if r.image.isEmpty then 0 else (progOf (nats r.image)).crc)
  else if 32 ≤ k && k < 48 then nth r.ws (k - 32)
  else if 144 ≤ k && k < 400 then (r.cfg.read r.almanac (0x1000 + 4 * (k - 144))).toNat
  else if 400 ≤ k && k < 656 then nth l.factors (k - 400)
  else if 688 ≤ k && k < 944 then r.g2Lane s.arch (geomOf s.straps.mxaGeom) (k - 688)
  else if 944 ≤ k && k < 1011 then Nat.min 0xFFFFFFFF (sget 0 r.pend.counts (k - 944))
  else if 1011 ≤ k && k < 1016 then
    match r.pend.nan with
    | none => 0
    | some e =>
      let x := e.record r.queue r.ws
      nth (nats [x.w0, x.w1, x.w2, x.w3, x.w4]) (k - 1011)
  else s.arch.imageWord
    (r.queue.toNat <<< 28 + r.why <<< 20 + r.op <<< 8 + s.arch.dirtyRegs.length) (pTag r.ws) r.descs.length
    (s.arch.imageBytes false r.descs.length) k

/-- A state block: its words and their CRC. -/
def stateBlock (word : Nat → Nat) : List Nat :=
  let ws := (List.range 1023).map word
  ws ++ [crcWords ws]

/-- The lines of a state block. -/
def blockLines (ws : List Nat) : List RdLine :=
  (List.range 32).map fun k => imgLine (pack 32 ((ws.drop (32 * k)).take 32)) false

/-- A suspension image. -/
def Running.imageLines (r : Running) (s : State) : List RdLine :=
  blockLines (stateBlock (r.stateWord s)) ++ s.arch.imageBody false ++ r.ds.map fun d => imgLine (pack 32 d) false

/-- The chain table entry of identifier `id`. -/
def Arch.chainEntry (a : Arch) (id : Nat) : Nat :=
  match a.prog? id with
  | some e => 1 <<< 31 + e.first.toNat <<< 8 + e.count.toNat
  | none => 0

/-- A word of an explicit image's state block. -/
def Arch.explicitWord (a : Arch) (k : Nat) : Nat :=
  if 656 ≤ k && k < 688 then a.chainEntry (k - 656)
  else a.imageWord (1 <<< 30 + a.dirtyRegs.length) 0 0 (a.imageBytes true 0) k

/-- An explicit image (R333). -/
def Arch.explicitImage (a : Arch) : List RdLine := blockLines (stateBlock a.explicitWord) ++ a.imageBody true

/-- The writes of an image at a base address, context class. -/
def imageBeats (base : Nat) (ls : List RdLine) : List WriteBeat :=
  (List.range ls.length).map fun k =>
    let l := ls.getD k ⟨0, 0, 0, false⟩
    ⟨base / 128 + k, l.data, BitVec.allOnes 128, l.check, l.info, l.poison, 1, 0xFF, ownCmd⟩

/-- Count the rows of a save whose check fails (15 R350). -/
def State.countMismatches (s : State) (n : Nat) : State := if n = 0 then s else (s.countBy cROWCHECK n).raiseErr 3

/-- Save-area address of a queue (R324). -/
def Queue.ctxBase (x : Queue) : Nat := x.ctxHi.toNat <<< 32 + x.ctxLo.toNat <<< 12

/-! ### Suspension points (R321-R323, 09 R236) -/

/-- Restart what `st` begins, with nothing pending. -/
def Running.restart (r : Running) (st : Stage) : Running := { r with after := st, pend := {}, pass := 0 }

/-- Where a CHAIN_RUN or PARTIAL_EXPORT can stop. `hard`: a translation fault has struck (10 R259). -/
def Running.chainPoint (r : Running) (hard : Bool) : Option Running :=
  let w := r.walk
  match r.stage with
  | .verify .. => some (r.restart (firstStage r.ws r.ds r.prog?))
  | .load => some (r.restart .load)
  | .passes => some (if r.pass = (w.passes (w.place r.unit).2.2).1 then r.restart .load else { r with after := .passes })
  | .commit _ => if hard then some { r with after := .commit false } else none
  | .trailer _ => if hard then some { r with after := .trailer false } else none
  | .waiting => some { r with after := .waiting }
  | _ => none

/-- Where a QUANTIZE, COPY or SEAL can stop. -/
def Running.tilePoint (r : Running) (hard : Bool) : Option Running :=
  match r.stage with
  | .verify .. => some (r.restart (firstStage r.ws r.ds r.prog?))
  | .load => some (r.restart .load)
  | .commit _ => if hard then some { r with after := .commit false } else none
  | .trailer _ => if hard then some { r with after := .trailer false } else none
  | _ => none

/-- Where a PARTIAL_MERGE can stop: between output bands; a fault on its headers or bodies restarts their reading. -/
def Running.mergePoint (r : Running) (hard : Bool) : Option Running :=
  match r.stage with
  | .staging _ => if hard then some { r.restart .load with chunks := [], acc := [], unit := 0 } else none
  | _ => r.tilePoint hard

/-- A segment that was open is abandoned: what it had landed is forgotten, what it had resolved stays (08 R219). -/
def Running.replay (r : Running) (st : Stage) : Running :=
  { r with after := st, pass := 0, prod := { r.prod with landed := [], seen := 0 } }

/-- Where a PRODUCT_RUN can stop. -/
def Running.productPoint (r : Running) (hard : Bool) : Option Running :=
  match r.stage with
  | .token | .staging _ | .draining => some (r.replay .token)
  | .finishing e => some { r with after := .finishing e }
  | .commit _ => if hard then some { r with after := .commit false } else none
  | .passes => none
  | _ => r.tilePoint hard

/-- Where a LINK_RUN can stop: everywhere but while a finished query block is stored (09 R236). -/
def Running.linkPoint (r : Running) (hard : Bool) : Option Running :=
  let score := { r.restart (.finishing 0) with next := r.acc, link := { r.link with present := [] } }
  match r.stage with
  | .token => some (r.replay .token)
  | .staging _ | .draining => some (r.replay (if r.link.phase = 2 then .staging 0 else .token))
  | .finishing _ => some (if r.link.phase = 1 then score else r.restart (.finishing 0))
  | .passes => some score
  | .commit _ => if r.link.phase = 1 then some score else if hard then some { r with after := .commit false } else none
  | .waiting => some { r with after := .waiting }
  | _ => r.tilePoint hard

/-- The suspension point at which the executing command stands. Commands not listed in R321 have none. -/
def Running.point (r : Running) (hard : Bool) : Option Running :=
  let op := r.op
  if op = oCHAIN || op = oEXPORT then r.chainPoint hard
  else if op = oPRODUCT then r.productPoint hard
  else if op = oLINK then r.linkPoint hard
  else if op = oQUANT || op = oCOPY || op = oSEAL then r.tilePoint hard
  else if op = oMERGE then r.mergePoint hard
  else none

/-- A queue that pre-empts queue `q` is ready (12 R302). -/
def State.outranked (s : State) (q : BitVec 2) : Bool :=
  allQueues.any fun k => decide (k < q) && (s.queue k).preemptLower && s.queueReady k

/-- Why the executing command must suspend: the status of its interim reply. A fault wins at its tile (10 R260). -/
def State.suspendWhy (s : State) (r : Running) : Option Nat :=
  if (s.port.faultOf ownCmd).isSome then some 0x20
  else if s.pow.fence || s.pow.fenceStop then some 0x22
  else if s.pow.preempt || s.pow.state = .dusk || s.outranked r.queue then some 0x21
  else none

/-- The counter of a suspension status. -/
def suspendCounter (status : Nat) : Nat :=
  if status = 0x20 then cXLATFAULT else if status = 0x22 then cFENCESUSP else cPREEMPT

/-- The reply fields of a suspension. -/
def suspendSay (status : Nat) (f : Option XlatFault) : Say :=
  match f with
  | some f => { status := status, reason := f.kind, index := f.pos, value := f.va }
  | none => { status := status }

/-- What tells a suspension point from every other of the same command: where the command goes on, and words 5 to 14 of its
state block. -/
def Running.stopWords (r : Running) (s : State) : List Nat :=
  r.after.code :: (List.range 10).map fun k => r.stateWord s (k + 5)

/-- Stop the executing command at the point that `r` describes: with no save area it ends (R325), else its image is
written (R321). -/
def State.stopRun (s : State) (r : Running) (status : Nat) : State :=
  let f := s.port.faultOf ownCmd
  let (s, r) := s.recallBands r
  if !r.mirror && !(s.queue r.queue).ctxValid then s.endRun r (suspendSay status f) [suspendCounter status, cABORTED]
  else
    let s := (((s.abandonSegment r).releaseToken).dropReads ownCmd).dropOutbox.dropXlats
    let s := if s.leads then s.sendWords 5 (3 :: status :: r.stopWords s) else s
    let r := { r with stage := .saving true, why := status, fault := f }
    let s := s.countMismatches s.arch.saveMismatches
    { (s.post (imageBeats (s.queue r.queue).ctxBase (r.imageLines s))).pumpRun r with run := some r }

/-- The image is saved: the command is suspended and its interim reply waits (R294, R301). The suspension of a fault serves a
pre-emption too (10 R260). A mirrored command is kept aside and has no reply (R327). -/
def State.saved (s : State) (r : Running) : State :=
  let k := { r with stage := r.after, prod := { r.prod with segOpen := false }, chunks := r.chunks }
  let dusk : Bool := s.pow.state = .dusk
  let s := { s.dropXlats with run := none, pow := { s.pow with fenceStop := false } }
  let s := if s.pow.preempt && !s.pow.preemptKeep && (r.why = 0x21 || r.why = 0x20) then
      { s with pow := { s.pow with passedOver := some r.queue, preempt := r.why = 0x21 } } else s
  if r.mirror then { s with pair := { s.pair with mirrored := s.pair.mirrored ++ [k] } }
  else
    let s := s.setQueue r.queue { (s.queue r.queue) with
      susp := some ⟨k, r.why, r.why = 0x20 || dusk, dusk⟩ }
    let y := r.reply { suspendSay r.why r.fault with interim := true }
    ((s.count (suspendCounter r.why)).tell y).push y

/-- End a command whose save met a fault or poison: the counter of the event that suspended it, that of the save area's own
fault, and ABORTED_COMMANDS (R325). -/
def State.saveFailed (s : State) (r : Running) (x : Say) (count : Nat) : State :=
  (s.endRun { r with prod := { r.prod with segOpen := false } } x [suspendCounter r.why, count, cABORTED]).raiseErr 8

/-- Go on with a save: its writes, their responses, or the fault or poison that ends the command (R325). Its interim reply waits
its turn (12 R278). -/
def State.saveStep (s : State) (r : Running) : State :=
  match s.port.faultOf ownCmd with
  | some f => s.saveFailed r { status := 0x20, reason := 1, index := f.pos, value := f.va } cXLATFAULT
  | none =>
    if r.savePoison then (s.saveFailed r { status := 0x31, index := 0xFF } cPOISON).raiseErr 2
    else if !s.writesDone then s.pumpRun r
    else if r.mirror || s.ring.waiting.isEmpty then s.saved r
    else s

/-! ### Restoring an image (R329, R330, 15 R443) -/

/-- Dirty registers of an image. -/
def imageRegs (ws : List Nat) : List Nat :=
  (List.range 96).filter fun n => bit (nth ws (16 + n / 32)) (n % 32)

/-- First line of the dirty registers. -/
def imageTLine (explicit : Bool) : Nat := imageT explicit / 128

/-- Lines of an image. -/
def imageTotal (ws : List Nat) (explicit : Bool) : Nat :=
  imageTLine explicit + 32 * (imageRegs ws).length + (if explicit then 0 else bits (nth ws 3) 0 8)

/-- Registers that an image does not hold are restored as zeros with their tags zero; the dirty bits are the image's (R329). -/
def Arch.restoreMap (a : Arch) (ws : List Nat) : Arch :=
  let regs := imageRegs ws
  { a with trf := a.trf.filter fun kv => regs.contains (kv.1 / 32)
           dirty := BitVec.ofNat 96 (nth ws 16 + nth ws 17 <<< 32 + nth ws 18 <<< 64) }

/-- Restore the four mask rows of line `k`; M0 is ignored. -/
def Arch.restoreMasks (a : Arch) (k : Nat) (l : RdLine) : Arch :=
  (List.range 4).foldl (fun a j =>
    a.setMask ((4 * k + j) / 32) ((4 * k + j) % 32) ⟨BitVec.ofNat 256 (bits l.data.toNat (256 * j) 256), l.poison⟩) a

/-- Restore the words of line `k` of the S registers. A row that starts in the line takes the line's poison; one that goes on
in it keeps its own as well. -/
def Arch.restoreS (a : Arch) (k : Nat) (l : RdLine) : Arch :=
  (List.range 32).foldl (fun a j =>
    let w := 32 * k + j
    let old := a.srow (w / 160) (w % 160 / 5)
    let p := if w % 5 = 0 then l.poison else old.poison || l.poison
    a.setSrow (w / 160) (w % 160 / 5) (sRowOf ((sVals old).set (w % 5) (bits l.data.toNat (32 * j) 32)) p)) a

/-- Restore the two granules of line `k`; poison marks the programs that it holds a granule of. -/
def Arch.restoreChain (a : Arch) (k : Nat) (l : RdLine) : Arch :=
  let put (a : Arch) (j : Nat) : Arch :=
    { a with granules := sset 0 a.granules (2 * k + j) (BitVec.ofNat 512 (bits l.data.toNat (512 * j) 512)) }
  let a := put (put a 0) 1
  if l.poison then (a.poisonProg (2 * k)).poisonProg (2 * k + 1) else a

/-- Restore row `i` of register `n`: the new state, and whether its check failed (R329). -/
def Arch.restoreTile (a : Arch) (n i : Nat) (valid : Bool) (l : RdLine) : Arch × Bool :=
  let bad := !l.poison && l.check != rowCheck l.data
  let info := l.info.toNat
  let t : TileRow :=
    if !valid && !l.poison && !bad then {} else
    ⟨l.data, ⟨BitVec.ofNat 16 (info >>> 4), BitVec.ofNat 4 info, l.poison || bad, valid,
      if bad then rowCheck l.data else l.check⟩⟩
  ({ a with trf := sset {} a.trf (rowKey n i) t }, bad)

/-- Restore line `j` of an image whose state block is `ws`: the state and the number of failed checks. -/
def restoreLine (explicit : Bool) (ws : List Nat) (am : Arch × Nat) (j : Nat) (l : RdLine) : Arch × Nat :=
  let (a, m) := am
  let t := imageTLine explicit
  if j < 32 then am
  else if j < 160 then (a.restoreMasks (j - 32) l, m)
  else if j < 320 then (a.restoreS (j - 160) l, m)
  else if j < 4416 then (a.setWasFresh (j - 320) l.data l.poison, m)
  else if j < t then (a.restoreChain (j - 4416) l, m)
  else
    let d := (j - t) / 32
    match (imageRegs ws)[d]? with
    | some n =>
      let i := (j - t) % 32
      let (a, bad) := a.restoreTile n i (bit (nth ws (48 + n)) i) l
      (a, m + if bad then 1 else 0)
    | none => am

/-- Ask for lines of an image, context class; twin B of LOCKSTEP receives them forwarded (R327). -/
def State.askImage (s : State) (r : Running) (base k n : Nat) : Asked :=
  let want := wantAt 0xFF ((List.range n).map (· + (base / 128 + k)))
  if r.mirror then s.askMirror (want.map (·.1)) else s.ask ownCmd 0 1 want

/-- The state block that a restoring command has read, kept with its chunk records. -/
def Running.blockWords (r : Running) : List Nat :=
  match r.chunks.find? (fun x => x.1 = 1000) with
  | some x => x.2.2.2
  | none => []

/-- The descriptor copies read so far. -/
def Running.imageDescs (r : Running) : List (List Nat) := (r.chunks.filter fun x => x.1 = 1002).map (·.2.2.2)

/-- What a piece of restoring leads to. -/
inductive Restored where
  | on (s : State)
  | failed (s : State)
  | done (s : State)
  deriving DecidableEq, Repr

/-- Restore the next 32 lines of an image, from line `k` (R330 step 2). -/
def State.restoreLines (s : State) (r : Running) (base k : Nat) (explicit : Bool) : Restored :=
  let ws := r.blockWords
  let total := imageTotal ws explicit
  if k ≥ total then .done s
  else
    let n := Nat.min 32 (total - k)
    match s.askImage r base k n with
    | .fault _ => .failed s
    | .wait s => .on s
    | .ready s buf =>
      let line (j : Nat) : RdLine := bufLine buf (base / 128 + j)
      let js := (List.range n).map (· + k)
      let (a, m) := js.foldl (fun am j => restoreLine explicit ws am j (line j)) (s.arch, 0)
      let d0 := imageTLine explicit + 32 * (imageRegs ws).length
      let descs := (js.filter fun j => decide (j ≥ d0)).map fun j => (1002, j - d0, 0, lineWords (line j) 0 32)
      .on { s.countMismatches m with
        arch := a, run := some { r with chunks := r.chunks ++ descs, stage := .restoring (k + n) } }

/-- The checks of R330 step 1. -/
def State.resumable (s : State) (p : Suspended) (ws : List Nat) : Bool :=
  nth ws 0 = 0x43580031 && bits (nth ws 1) 30 2 = 0 && nth ws 2 = pTag p.run.ws && nth ws 1023 = crcWords (ws.take 1023) &&
  match pProg p.run.ws with
  | none => true
  | some id => match s.arch.prog? id with
    | some e => (progOf (nats (s.arch.image e))).crc = nth ws 15
    | none => false

/-- One piece of resuming a command: its state block and checks, then its sections. -/
def State.resumeStep (s : State) (r : Running) (p : Suspended) (base : Nat) : Restored :=
  match (if r.mirror then none else s.port.faultOf ownCmd), r.stage with
  | some _, _ => .failed s
  | none, .restoring 0 =>
    (match s.askImage r base 0 32 with
     | .fault _ => .failed s
     | .wait s => .on s
     | .ready s buf =>
       let (ws, poison) := bufWords buf base 1024
       if poison || !s.resumable p ws then .failed s
       else .on { s with arch := s.arch.restoreMap ws, run := some { r with chunks := [(1000, 0, 0, ws)], stage := .restoring 32 } })
  | none, .restoring k => s.restoreLines r base k false
  | none, _ => .on s

/-- The numerics registers of a state block (12 R303). -/
def cfgOf (ws : List Nat) : NumRegs :=
  let w (a : Nat) : Nat := nth ws (144 + (a - 0x1000) / 4)
  { numCfg := w32 (w 0x1000), seedLo := w32 (w 0x1004), seedHi := w32 (w 0x1008), almanacMask := BitVec.ofNat 14 (w 0x1010)
    package := BitVec.ofNat 18 (w 0x1020), stepWindow := BitVec.ofNat 8 (w 0x1024) }

/-- A NaN event from the words of a trap record. -/
def nanOfRecord (x : List Nat) : Option NanEv :=
  let w := nth x
  if bit (w 0) 31 then
    some { consumed := bit (w 0) 28, source := bits (w 0) 18 2, pass := bits (w 0) 14 4, stage := bits (w 0) 11 3
           uop := bits (w 0) 4 7, fmt := bits (w 0) 0 4, band := w 2, colTile := w 3, row := bits (w 4) 16 5
           col := bits (w 4) 0 9 }
  else none

/-- The phase of a code. -/
def phaseOf (n : Nat) : Phase := if n = 1 then .collect else if n = 2 then .apply else .single

/-- The pending commit of a state block. -/
def pendOf (ws : List Nat) : Pend :=
  { counts := (List.range 67).foldl (fun m k => sset 0 m k (nth ws (944 + k))) []
    nan := nanOfRecord ((ws.drop 1011).take 5) }

/-- The command as its image describes it; what the image does not hold comes from the block's record of it (16 R389, log 19). -/
def Suspended.restored (p : Suspended) (ws : List Nat) (descs : List (List Nat)) : Running :=
  let r := p.run
  { r with
    packet := words ((ws.drop 32).take 16)
    descs := descs.map words
    cfg := cfgOf ws
    almanac := BitVec.ofNat 64 (nth ws 149 + nth ws 150 <<< 32)
    tilesDone := nth ws 5
    unit := nth ws 6 + nth ws 7 <<< 32
    pass := bits (nth ws 8) 28 4
    phase := phaseOf (bits (nth ws 8) 26 2)
    pend := pendOf ws
    prod := { r.prod with
      kseg := bits (nth ws 9) 20 12, shift := bits (nth ws 9) 18 2, resolved := nth ws 10 + nth ws 11 <<< 32, segOpen := false }
    link := if r.op = oLINK then
        { r.link with pass2 := bit (nth ws 12) 31, keyBlock := bits (nth ws 12) 17 12
                      phase := if r.link.phase = 3 then 3 else bits (nth ws 12) 29 2
                      corrected := nth ws 13 + nth ws 14 <<< 32
                      factors := (ws.drop 400).take r.link.factors.length }
      else r.link }

/-- The command continues (R330 steps 3 and 4). -/
def State.continueRun (s : State) (q : BitVec 2) (p : Suspended) (r : Running) : State :=
  let t := p.restored r.blockWords r.imageDescs
  { s.setQueue q { (s.queue q) with susp := none } with pow := { s.pow with preemptKeep := false } }.starts t

/-- A resumption that fails ends its command (R330). -/
def State.resumeFailed (s : State) (q : BitVec 2) (p : Suspended) : State :=
  ((s.setQueue q { (s.queue q) with susp := none }).endRun p.run { status := 0x35 } [cABORTED]).raiseErr 9

/-! ### CTX_SAVE and CTX_RESTORE (R333) -/

/-- End a context command with a translation fault: neither suspends (R321). -/
def State.endFault (s : State) (r : Running) (f : XlatFault) : State :=
  s.endRun r { status := 0x20, reason := f.kind, index := f.pos, value := f.va } [cXLATFAULT]

/-- Refuse a context command (R333). -/
def State.badContext (s : State) (r : Running) (reason : Nat) : State :=
  { s with pair := { s.pair with ctxReason := BitVec.ofNat 8 reason } }.refuseRun r 0x15 0 0 0

/-- The next piece of a CTX_SAVE; its row reads, and the queue that its writes pass, may meet word errors. -/
def ctxSaveStep (s : State) (r : Running) (ecc : List EccHit) : State :=
  match s.port.faultOf ownCmd with
  | some f => s.endFault r f
  | none =>
    let s := s.eccList ecc
    match r.stage with
    | .saving _ => if s.writesDone then s.endOk r else s.pumpRun r
    | _ =>
      let s := s.countMismatches s.arch.saveMismatches
      let r := { r with stage := .saving true }
      { (s.post (imageBeats (pAddr r.ws) s.arch.explicitImage)).pumpRun r with run := some r }

/-- The chain table of an image, by identifier. -/
def imageProgs (ws : List Nat) : List ProgEntry :=
  (List.range 32).filterMap fun id =>
    let w := nth ws (656 + id)
    if bit w 31 then some ⟨BitVec.ofNat 5 id, BitVec.ofNat 8 (w >>> 8), BitVec.ofNat 5 w, false⟩ else none

/-- The chain-store section read so far: granules of line `k`. -/
def Running.chainSection (r : Running) (g : Nat) : List Nat :=
  match r.chunks.find? (fun x => x.1 = 1001 && x.2.1 = g / 2) with
  | some x => (x.2.2.2.drop (16 * (g % 2))).take 16
  | none => []

/-- Identifiers whose program a suspended command uses. -/
def State.suspendedProgs (s : State) : List Nat :=
  s.queues.toList.filterMap fun x => x.susp.bind fun p => pProg p.run.ws

/-- The restore would remove or change a registered program that a suspended command uses (R333, 0x04). -/
def State.restoreClobbers (s : State) (r : Running) (ws : List Nat) : Bool :=
  s.suspendedProgs.any fun id =>
    match s.arch.prog? id with
    | none => false
    | some e =>
      match (imageProgs ws).find? (fun x => x.id.toNat = id) with
      | none => true
      | some x => (List.range x.count.toNat).flatMap (fun k => r.chainSection (x.first.toNat + k)) != nats (s.arch.image e)

/-- The next piece of a CTX_RESTORE: the state block and its checks, the chain-store section against the suspended commands'
programs, then every section. Poison of a line poisons what it carries (15 R443); poison of the state block ends it. -/
def ctxRestoreStep (s : State) (r : Running) : State :=
  let base := pAddr r.ws
  match s.port.faultOf ownCmd with
  | some f => s.endFault r f
  | none =>
    match r.stage with
    | .staging k =>
      if k ≥ 128 then
        let ws := r.blockWords
        if s.restoreClobbers r ws then s.badContext r 0x04
        else
          { s with
            arch := { s.arch.restoreMap ws with progs := imageProgs ws }
            run := some { r with chunks := [(1000, 0, 0, ws)], stage := .restoring 32 } }
      else
        (match s.askImage r base (4416 + k) 32 with
         | .fault _ => s
         | .wait s => s
         | .ready s buf =>
           let new := (List.range 32).map fun j => (1001, k + j, 0, lineWords (bufLine buf (base / 128 + 4416 + k + j)) 0 32)
           { s with run := some { r with chunks := r.chunks ++ new, stage := .staging (k + 32) } })
    | .restoring k =>
      (match s.restoreLines r base k true with
       | .on s => s
       | .failed s => s
       | .done s => s.endOk r)
    | _ =>
      match s.askImage r base 0 32 with
      | .fault _ => s
      | .wait s => s
      | .ready s buf =>
        let (ws, poison) := bufWords buf base 1024
        if poison then s.endPoison r 0xFF { kind := 1, storage := 6, source := 1 }
        else if pf r.ws 9 0 16 * 1024 < nth ws 4 then s.badContext r 0x01
        else if nth ws 0 != 0x43580031 || bits (nth ws 1) 30 2 != 1 then s.badContext r 0x02
        else if nth ws 1023 != crcWords (ws.take 1023) then s.badContext r 0x03
        else { s with run := some { r with chunks := [(1000, 0, 0, ws)], stage := .staging 0 } }

end Sys2Proof.Machine
end

