-- ==== Sys2Proof/Machine/Pairing.lean ====
section
/-! DEFINITION. Forwarded commands, the mirrored command of LOCKSTEP, and the comparison of its beats (13 R306-R320, 17 R406-R410).
The words of forwarded commands and steal messages are the block's own encoding (log 10). -/

namespace Sys2Proof.Machine

open Sys2Proof

/-! ### Forwarding a command (13 R310, R317) -/

/-- The words of a forwarded command: type 0 for LOCKSTEP, 4 for a stolen band. -/
def forwardWords (s : State) (r : Running) (ty band : Nat) : List Nat :=
  let c := r.cfg
  ty :: s.ringWords ++ [r.queue.toNat + r.home.toNat <<< 2, if r.fallback then 1 else 0, band, c.numCfg.toNat, c.seedLo.toNat, c.seedHi.toNat,
    c.almanacMask.toNat, c.package.toNat, c.stepWindow.toNat, bits r.almanac.toNat 0 32, bits r.almanac.toNat 32 32,
    r.descs.length] ++ r.ws ++ r.ds.flatMap fun d => (List.range 32).map (nth d)

/-- The command of forwarded words, on this twin's own chain store. -/
def forwardedRun (s : State) (ws : List Nat) : Running :=
  let w := nth ws
  let packet := (ws.drop 18).take 16
  let descs := (List.range (w 17)).map fun k => (ws.drop (34 + 32 * k)).take 32
  let image := match (pProg packet).bind s.arch.prog? with | some e => s.arch.image e | none => []
  let r := s.newRun (BitVec.ofNat 2 (w 6)) (words packet) (descs.map words) image false
  { r with
    fallback := w 7 = 1
    home := BitVec.ofNat 12 (w 6 >>> 2)
    cfg := { numCfg := w32 (w 9), seedLo := w32 (w 10), seedHi := w32 (w 11), almanacMask := BitVec.ofNat 14 (w 12)
             package := BitVec.ofNat 18 (w 13), stepWindow := BitVec.ofNat 8 (w 14) }
    almanac := BitVec.ofNat 64 (w 15 + w 16 <<< 32) }

/-- Twin A forwards a command that begins under LOCKSTEP. -/
def State.forwardBegin (s : State) (r : Running) : State :=
  if s.leads && mirrorsOp r.op then s.sendWords 5 (forwardWords s r 0 0) else s

/-! ### The mirrored command of twin B (13 R310, R311) -/

/-- Twin B sends the check of the beat of a reply. -/
def State.replyCheck (s : State) (r : Reply) : State :=
  let g := s.pair.mirrorRing
  let b := g.beat r
  { s.drive (.pairCheck (beatCheck b.data b.ben)) with pair := { s.pair with mirrorRing := g.next } }

/-- What a mirrored step leaves unchanged: counters, trap record, queues, and replies, of which only the checks of their beats go to
twin A. -/
def State.mirrorKeep (s t : State) : State :=
  let new := t.ring.waiting.drop s.ring.waiting.length
  new.foldl State.replyCheck
    { t with cnt := s.cnt, trap := s.trap, queues := s.queues, ring := s.ring
             pow := { t.pow with preempt := s.pow.preempt } }

/-- Work on the executing command, whatever it is; a mirrored one keeps B's own records. A command that has ended and waits for
the turn of its reply has none left (12 R278). -/
def State.onAny (s : State) (f : State → Running → State) : State :=
  match s.run with
  | some r => if r.final.isSome then s else if r.mirror then s.mirrorKeep (f s r) else f s r
  | none => s

/-- Work on the executing command when its opcode is `op`. -/
def State.onRun (s : State) (op : Nat) (f : State → Running → State) : State :=
  s.onAny fun s r => if r.op = op then f s r else s

/-! ### The copy into LOCKSTEP (13 R309) -/

/-- The header of a copy line: its index, and what the line's bytes do not carry. -/
def copyHdr (a : Arch) (k : Nat) : Nat :=
  k + (if k < 4512 then
      match (if 4384 ≤ k && k < 4416 then a.prog? (k - 4384) else none) with
      | some e => (1 <<< 13 + (if e.poison then 1 <<< 14 else 0) + e.first.toNat <<< 15 + e.count.toNat <<< 23) <<< 16
      | none => 0
    else
      let key := k - 4512
      let t := sget {} a.trf key
      ((if t.tag.valid then 1 else 0) + (if a.dirty.getLsbD (key / 32) then 2 else 0) + t.tag.format.toNat <<< 2 +
        t.tag.producer.toNat <<< 6) <<< 16)

/-- Line `k` of the 7,584 lines of the copy: masks, S registers, WAS, chain store, tile registers. -/
def Arch.copyLine (a : Arch) (k : Nat) : RdLine :=
  if k < 128 then a.maskLine k
  else if k < 288 then a.sLine (k - 128)
  else if k < 4384 then
    let x := a.wasRow (k - 288)
    ⟨x.data, x.check, 0, x.poison⟩
  else if k < 4512 then a.chainLine (k - 4384)
  else
    let t := sget {} a.trf (k - 4512)
    ⟨t.data, t.tag.check, 0, t.tag.poison⟩

/-- Twin A sends the copy (R309). -/
def State.sendCopy (s : State) : State :=
  (List.range 7584).foldl (fun s k =>
    let l := s.arch.copyLine k
    s.sendBeat l.data (sideband 2 (copyHdr s.arch k) l.check l.poison 0)) s

/-- The check of a copy line fails on arrival (15 R350, R351). A row never written carries no check. -/
def copyBad (hdr : Nat) (data : Line) (check : Word) (poison : Bool) : Bool :=
  !poison && !(decide (hdr % 2 ^ 16 ≥ 4512) && !bit hdr 16) && check != rowCheck data

/-- The program entry of a copied chain line: `x` holds the entry's fields (`copyHdr`). -/
def Arch.takeEntry (a : Arch) (id x : Nat) : Arch :=
  { a with progs := (a.progs.filter fun e => decide (e.id.toNat < id)) ++
      (if bit x 13 then [⟨BitVec.ofNat 5 id, BitVec.ofNat 8 (x >>> 15), BitVec.ofNat 5 (x >>> 23), bit x 14⟩] else []) }

/-- Two granules from a copied chain line. -/
def Arch.takeGranules (a : Arch) (id : Nat) (data : Line) : Arch :=
  { a with
    granules := sset 0 (sset 0 a.granules (2 * id) (BitVec.ofNat 512 (bits data.toNat 0 512))) (2 * id + 1)
      (BitVec.ofNat 512 (bits data.toNat 512 512)) }

/-- A tile row, its tag and its register's dirty bit from a copy line. -/
def Arch.takeTile (a : Arch) (key x : Nat) (data : Line) (check : Word) (poison : Bool) : Arch :=
  { a with
    trf := sset {} a.trf key ⟨data, ⟨BitVec.ofNat 16 (x >>> 6), BitVec.ofNat 4 (x >>> 2), poison, bit x 0, check⟩⟩
    dirty := if bit x 1 then a.dirty ||| (1 <<< (key / 32)) else a.dirty &&& ~~~((1 : BitVec 96) <<< (key / 32)) }

/-- Copy line `k` goes to its storage. -/
def Arch.takeLine (a : Arch) (k x : Nat) (l : RdLine) : Arch :=
  if k < 128 then a.restoreMasks k l
  else if k < 288 then a.restoreS (k - 128) l
  else if k < 4384 then a.setWasFresh (k - 288) l.data l.poison
  else if k < 4416 then (a.takeEntry (k - 4384) x).takeGranules (k - 4384) l.data
  else if k < 4512 then a.takeGranules (k - 4384) l.data
  else a.takeTile (k - 4512) x l.data l.check l.poison

/-- Twin B takes a copy line into its state. -/
def Arch.takeCopy (a : Arch) (hdr : Nat) (data : Line) (check : Word) (poison : Bool) : Arch :=
  a.takeLine (hdr % 2 ^ 16) (hdr >>> 16) ⟨data, check, 0, poison⟩

/-! ### Divergence (13 R311-R313) -/

/-- Leave LOCKSTEP for SPLIT with stealing off and `diverged` set. A reply whose beat was held is written again, uncompared. Twin
B drops the mirrored command; its queues fetch again. -/
def State.splitDiverged (s : State) : State :=
  let p := { s.pair with mode := .split, stealing := false, partnerStealing := false, diverged := true, held := [], checks := []
                         rx := [], quarters := [], goes := 0, goesSave := 0, mirrored := [] }
  let s := { s with pair := p, ring := { s.ring with issued := false } }.raiseErr 6
  match s.run with
  | some r => if r.mirror then { s with run := none } else s
  | none => s

/-- The divergence record (R312). -/
def State.fillDiverge (s : State) (line : BitVec 45) (tag a b : Word) (timeout : Bool) : State :=
  if s.pair.diverge.w0.getLsbD 31 then s
  else
    let addr := 128 * line.toNat
    { s with pair := { s.pair with diverge :=
      ⟨flag true 31 ||| flag timeout 30 ||| w32 (addr >>> 32), w32 addr, tag, a, b⟩ } }

/-- The reply of a command that diverged on its own reply beat: it takes the status ST_LOCKSTEP_DIVERGE. -/
def divergedReply (r : Reply) : Reply :=
  { r with w0 := (r.w0 &&& 0x0000FFFF) ||| 0x34000000, w2 := 0, w3 := 0, w4 := 0, irq := true, enters := true }

/-- The tag of the command that a failing beat belongs to: that of the reply, or of the executing command. -/
def State.divergedTag (s : State) (b : WriteBeat) : Word :=
  if b.owner = ownReply then (match s.ring.waiting with | r :: _ => r.w1 | [] => 0)
  else match s.run with
    | some r => w32 (pTag r.ws)
    | none => 0

/-- The oldest waiting reply has diverged: it becomes the final reply of its command, which is suspended no longer. -/
def State.replyDiverged (s : State) : State :=
  match s.ring.waiting with
  | [] => s
  | r :: rest =>
    let s := { s with ring := { s.ring with waiting := divergedReply r :: rest } }
    if r.w0.getLsbD 23 then s.setQueue r.queue { (s.queue r.queue) with susp := none } else s

/-- A comparison has failed at the oldest held beat (R312): its command ends, and both twins go to SPLIT. When it is a reply that
failed, the beats held behind it belong to another command and are written. -/
def State.diverge (s : State) (b : WriteBeat) (line : BitVec 45) (check : Word) (timeout : Bool) : State :=
  let later := s.pair.held.drop 1
  let s := (s.fillDiverge line (s.divergedTag b) (beatCheck b.data b.ben) check timeout).sendBeat 0
    (sideband 4 6 (rowCheck 0) false 0)
  let s := s.splitDiverged
  if b.owner = ownReply then
    (later.foldl (fun s h => s.driveWrite h.1 h.2.1 h.2.2) s.replyDiverged).count cLOCKDIV
  else match s.run with
    | some r => if r.final.isSome then s.count cLOCKDIV else s.endRun r { status := 0x34 } [cLOCKDIV]
    | none => s.count cLOCKDIV

/-- Compare held beats with checks that have come, oldest first (R311, R312). -/
def State.compareHeld (s : State) : Nat → State
  | 0 => s
  | n + 1 =>
    match s.pair.held, s.pair.checks with
    | (b, tag, line) :: hs, c :: cs =>
      if c = beatCheck b.data b.ben then
        let s := { s with pair := { s.pair with held := hs, checks := cs } }.driveWrite b tag line
        (if b.owner = ownReply then s.replyWritten else s).compareHeld n
      else s.diverge b line c false
    | _, _ => s

/-- Write every held beat without comparison: the partner is gone (R313). -/
def State.releaseHeld (s : State) : State :=
  let hs := s.pair.held
  hs.foldl (fun s h =>
    let s := s.driveWrite h.1 h.2.1 h.2.2
    if h.1.owner = ownReply then s.replyWritten else s) { s with pair := { s.pair with held := [], checks := [] } }

end Sys2Proof.Machine
end

