-- ==== Sys2Proof/Machine/Commands.lean ====
section
/-! DEFINITION. The twenty queue commands and the sequencer's steps between them: beginning, resuming, suspending, committing,
replying (04 R121-R124; 12 R276-R304; 13 R308, R321-R333; 16 R388-R390). -/

namespace Sys2Proof.Machine

open Sys2Proof

/-! ### CONFIG, CHAIN_LOAD, QUERY -/

/-- CONFIG's writes in increasing n, each as a register-port write (12 R286). -/
def configStep (s : State) (r : Running) : State :=
  let t := (List.range (pf r.ws 6 0 3)).foldl (fun s n => regWrite s (pf r.ws (8 + 2 * n) 0 16) (w32 (nth r.ws (9 + 2 * n)))) s
  t.endOk r

/-- Remove a program (04 R122). -/
def Arch.removeProg (a : Arch) (id : Nat) : Arch := { a with progs := a.progs.filter fun e => e.id.toNat != id }

/-- The programs that a registration leaves, in increasing identifier: words and poison marks. -/
def Arch.progList (a : Arch) (id : Nat) (ws : List Nat) : List (Nat × List Nat × Bool) :=
  (List.range 32).filterMap fun k =>
    if k = id then some (k, ws, false) else (a.prog? k).map fun e => (k, nats (a.image e), e.poison)

/-- Granules of a program of `n` words. -/
def granulesFor (n : Nat) : Nat := cdiv n 16

/-- Place programs from granule 0 on (04 R121; log 20). -/
def placeProgs (a : Arch) (l : List (Nat × List Nat × Bool)) : Arch :=
  (l.foldl (fun (acc : Arch × Nat) x =>
    let n := granulesFor x.2.1.length
    let a := (List.range n).foldl (fun a k =>
      { a with granules := sset 0 a.granules (acc.2 + k) (BitVec.ofNat 512 (pack 32 ((x.2.1.drop (16 * k)).take 16))) }) acc.1
    ({ a with progs := a.progs ++ [⟨BitVec.ofNat 5 x.1, BitVec.ofNat 8 acc.2, BitVec.ofNat 5 n, x.2.2⟩] }, acc.2 + n))
    ({ a with granules := [], progs := [] }, 0)).1

/-- The registration fits: the granules of all programs, the replaced one's given back (04 R122). -/
def Arch.fits (a : Arch) (id : Nat) (ws : List Nat) : Bool :=
  decide (((a.progList id ws).map fun x => granulesFor x.2.1.length).foldl (· + ·) 0 ≤ 256)

/-- CHAIN_LOAD (04 R122, R124). -/
def chainLoadStep (s : State) (r : Running) : State :=
  let id := pf r.ws 6 26 6
  let len := nth r.ws 9
  if len = 0 then { s with arch := s.arch.removeProg id }.endOk r
  else match s.port.faultOf ownCmd with
  | some f => s.endFault r f
  | none =>
    match s.askRun r (wantAt 0xFF (byteLines (pAddr r.ws) len)) with
    | .fault f => s.endFault r f
    | .wait s => s
    | .ready s buf =>
      let (ws, poison) := bufWords buf (pAddr r.ws) (len / 4)
      if poison then s.endPoison r 0xFF { kind := 1, storage := 6, source := 7 }
      else match imageFault ws len with
        | some (reason, i) => s.refuseRun r 0x07 reason i 0
        | none =>
          if s.arch.fits id ws then { s with arch := placeProgs s.arch (s.arch.progList id ws) }.endOk r
          else s.refuseRun r 0x08 0 0 0

/-- Word `k` of the QUERY report (12 R289). -/
def reportWord (s : State) (r : Running) (k : Nat) : Nat :=
  let q (n : Nat) : BitVec 2 := BitVec.ofNat 2 n
  if k = 0 then 0x5542D703
  else if k = 1 then 0x00030100
  else if k = 2 then bits r.almanac.toNat 0 32
  else if k = 3 then bits r.almanac.toNat 32 32
  else if k = 4 then s.clk.aclk.toNat
  else if k = 5 then s.clk.pclk.toNat
  else if k = 6 then s.clk.cclk.toNat
  else if k = 7 then s.clk.hclk.toNat
  else if k < 12 then let x := s.queue (q (k - 8)); x.head.toNat <<< 16 + x.tail.toNat
  else if k < 16 then bits (s.queueCtrl (q (k - 12))).toNat 1 4 * 2 + (if (s.queue (q (k - 12))).enable then 1 else 0)
  else if k < 20 then (match (s.queue (q (k - 16))).susp with | some p => pTag p.run.ws | none => 0)
  else if k = 20 then
    s.straps.instanceId.toNat <<< 8 + (if s.straps.twinSide then 128 else 0) + s.pow.throttle.toNat <<< 5 +
    (if s.pow.fence then 16 else 0) + (if s.pair.token then 1 else if s.pair.partnerHeld then 2 else 0) <<< 2 + s.pair.mode.code
  else 0

/-- The words of the QUERY report. Twin B of LOCKSTEP forms them from the registers that twin A forwards (13 R311, log 10). -/
def queryWords (s : State) (r : Running) : List Nat :=
  if r.mirror then (match r.chunks.find? (fun x => x.1 = 1003) with | some x => x.2.2.2 | none => [])
  else (List.range 64).map (reportWord s r)

/-- QUERY (12 R289): the report's writes, then the reply. -/
def queryStep (s : State) (r : Running) : State :=
  match (if r.mirror then none else s.port.faultOf ownCmd) with
  | some f => s.endFault r f
  | none =>
    match r.stage with
    | .trailer _ =>
      let s := s.pumpRun r
      if s.writesDone then s.endOk r else s
    | _ =>
      let ws := queryWords s r
      if ws.isEmpty then s else
      let s := if s.leads then s.sendWords 5 (5 :: ws) else s
      { (s.post (plainBeats (pAddr r.ws) 256 (pack 32 ws) 0 ownCmd 0xFF)).pumpRun r with run := some { r with stage := .trailer true } }

/-! ### FENCE, RESUME, ABORT -/

/-- A pre-emption request that acts on the command in hand is spent: the command leaves without a suspension point (16 R391). -/
def Power.spent (p : Power) : Power := { p with preempt := p.preemptKeep, preemptKeep := false, fenceStop := false }

/-- FENCE leaves the sequencer and waits in its queue (12 R287). -/
def fenceStep (s : State) (r : Running) : State :=
  { s.setQueue r.queue { (s.queue r.queue) with waitFence := some r.packet } with run := none, pow := s.pow.spent }

/-- The condition of a waiting FENCE (12 R287). -/
def State.fenceHolds (s : State) (ws : List Nat) : Bool :=
  let x := s.queue (BitVec.ofNat 2 (pf ws 6 0 2))
  let t := w32 (nth ws 7)
  (match x.fenceTag with | some f => f = t || tagAfter f t | none => false) &&
  (match x.susp with | some p => let u := w32 (pTag p.run.ws); u != t && !tagAfter t u | none => true)

/-- The reply of a packet that is not executing. -/
def packetReply (q : BitVec 2) (ws : List Nat) (x : Say) : Reply := replyOf q (pOp ws) (pTag ws) (pIrq ws) x

/-- A satisfied FENCE replies ST_OK (12 R287); a fenced instance gives no further reply (13 R315). -/
def fenceRelease (s : State) (q : BitVec 2) : State :=
  match (s.queue q).waitFence with
  | none => s
  | some ws =>
    if s.fenceHolds (nats ws) && s.ring.waiting.isEmpty && s.pow.state = .run && !s.pow.fence then
      let y := packetReply q (nats ws) { status := 0x00 }
      ((s.setQueue q { (s.queue q) with waitFence := none }).tell y).push y
    else s

/-- RESUME (12 R290): steps 1 and 2 of 13 R330 for its target, then its own reply; after a failure that reply waits for the
target's final reply. Its steps that reply wait while another reply waits (R278). A pre-emption request of the restore acts on the
command that executes next (13 R326). -/
def resumeCommand (s : State) (r : Running) : State :=
  let q := BitVec.ofNat 2 (pf r.ws 6 0 2)
  let free := s.ring.waiting.isEmpty
  match r.stage, (s.queue q).susp with
  | .done, _ => if free then s.endRun r { status := 0x15 } [] else s
  | .restoring _, some p =>
    (match s.resumeStep r p (s.queue q).ctxBase with
     | .on s => s
     | .failed t =>
       if free then { t.resumeFailed q p with run := some { r with stage := .done, chunks := [] }, pow := s.pow } else s
     | .done t =>
       let y := r.reply { status := 0x00 }
       if free then ((t.continueRun q p r).tell y).push y else s)
  | _, some p =>
    let s := if s.leads then s.sendWords 5 (2 :: s.ringWords ++ [q.toNat, pTag p.run.ws]) else s
    { s.dropXlats with run := some { r with stage := .restoring 0 } }
  | _, none => s.refuseRun r 0x16 0 0 0

/-- ABORT (12 R290, 13 R332): the target's final reply, then its own, each when no other reply waits (R278). -/
def abortCommand (s : State) (r : Running) : State :=
  let q := BitVec.ofNat 2 (pf r.ws 6 0 2)
  let x := s.queue q
  let tag := nth r.ws 7
  let after (s : State) (y : Reply) : State :=
    { ((s.count cABORTED).tellEnd y).push y with run := some { r with stage := .done } }
  match r.stage with
  | .done => if s.ring.waiting.isEmpty then s.endOk r else s
  | _ =>
    if !s.ring.waiting.isEmpty then s
    else if s.suspendedTag q tag then
      match x.susp with
      | some p => after (s.setQueue q { x with susp := none }) (p.run.reply { status := 0x35 })
      | none => s
    else if s.fenceTagWaits q tag then
      match x.waitFence with
      | some ws => after (s.setQueue q { x with waitFence := none }) (packetReply q (nats ws) { status := 0x35 })
      | none => s
    else s.refuseRun r 0x16 0 0 0

/-! ### PAIR_MODE (13 R306-R309, R314) -/

/-- Enter a pair mode: steal bits clear on entry to LOCKSTEP and SOLO; a twin in SOLO ignores the pair port; a joint SPLIT
clears array_barred. -/
def Pair.enter (p : Pair) (m : PairModeKind) : Pair :=
  { p with
    mode := m
    stealing := p.stealing && m = .split
    partnerStealing := p.partnerStealing && m = .split
    arrayBarred := false
    claim := none, held := [], checks := [], mirrored := [] }

/-- The mode of a code. -/
def modeOf (n : Nat) : PairModeKind := if n = 0 then .split else if n = 1 then .lockstep else .solo

/-- The change that a PAIR_MODE asks for is joint (R308). -/
def State.jointChange (s : State) (m : Nat) : Bool :=
  (s.pair.mode = .split && m = 1) || (s.pair.mode = .solo && m = 0)

/-- Set the steal bit of this twin; the partner learns it by a steal message of code 9 (14 R335, log 10). -/
def State.setSteal (s : State) (b : Bool) : State :=
  let s := { s with pair := { s.pair with stealing := b } }
  if s.pair.detached then s else s.sendBeat 0 (sideband 4 (9 + if b then 256 else 0) (rowCheck 0) false 0)

/-- PAIR_MODE: alone at once, or, for a joint change, waiting for the partner (R308). -/
def pairModeStep (s : State) (r : Running) : State :=
  let m := pf r.ws 6 0 2
  match r.stage with
  | .waiting => s
  | _ =>
    if s.jointChange m then { s with run := some { r with stage := .waiting } }
    else if s.pair.mode = .split && m = 0 then
      (s.setSteal (bit (nth r.ws 6) 2)).endOk r
    else
      let t := s.endOk r
      let t := { t with pair := t.pair.enter (modeOf m) }
      if m = 0 && !r.mirror then t.setSteal (bit (nth r.ws 6) 2) else { t with pair := { t.pair with stealing := false } }

/-! ### DUSK and DAWN (12 R291, 16 R388) -/

/-- Dusk begins (16 R388 steps 1 and 2): packets fetched and not begun are discarded, a stolen band is abandoned and a claim
given up, the token is released. -/
def State.startDusk (s : State) : State :=
  let s := allQueues.foldl State.discardFetch s
  let s := { s with pair := { s.pair with claim := none } }
  let s := match s.run with
    | some r => if r.stolen.isSome then s.abandonBand r else s
    | none => s.releaseToken
  { s with pow := { s.pow with state := .dusk, dawnDone := false, duskStep := 0, sleepLatched := false } }

/-- DUSK: Dusk begins; its reply is the last write of Dusk. -/
def duskCommand (s : State) (r : Running) : State :=
  let s := { s with run := none, pow := s.pow.spent }.startDusk
  { s with pow := { s.pow with duskCommand := some (r.queue, r.packet) } }

/-- The queue whose head holds a fetched DAWN. -/
def State.dawnHead (s : State) : Option (BitVec 2 × List Word) :=
  allQueues.findSome? fun q => match (s.queue q).fetch with
    | .ready ws _ => if pOp (nats ws) = oDAWN then some (q, ws) else none
    | _ => none

/-- DAWN at the head of a queue during Dusk is latched, one of each queue (12 R291, 16 R388). -/
def State.latchDawn (s : State) : State :=
  if s.pow.state = .dusk then
    match s.dawnHead with
    | some x =>
      { s.setQueue x.1 (s.queue x.1).advance with
        pow := { s.pow with latchedDawn := s.pow.latchedDawn ++ [x], wakeLatched := true } }
    | none => s
  else s

/-- A head packet that Dusk reads has not been read, or is a DAWN not yet latched (16 R388 step 1). -/
def State.headsUnread (s : State) : Bool :=
  s.dawnHead.isSome || allQueues.any fun q => s.mayFetch q && (s.queue q).fetch = .idle

/-! ### Work, commit and end -/

/-- A command's own work stops at a translation fault until it suspends (10 R259). -/
def State.unlessFault (s : State) (t : State) : State := if (s.port.faultOf ownCmd).isSome then s else t

/-- The next piece of a COPY. -/
def copyStep (s : State) (r : Running) (m : Mishap) : State :=
  s.unlessFault (match r.stage with
    | .verify pos tile crc => verifyStep (s.eccHits m) r pos tile crc
    | .load => copyTile (s.eccHits m) r m
    | _ => s)

/-- The next piece of a QUANTIZE. -/
def quantStep (s : State) (r : Running) (m : Mishap) : State :=
  s.unlessFault (match r.stage with
    | .verify pos tile crc => verifyStep (s.eccHits m) r pos tile crc
    | .load => quantTile (s.eccHits m) r m
    | _ => s)

/-- The next piece of a SEAL. -/
def sealStep (s : State) (r : Running) : State :=
  s.unlessFault (match r.stage with
    | .verify pos tile crc => verifyStep s r pos tile crc
    | .load => sealTileStep s r
    | _ => s)

/-- The next piece of a PARTIAL_MERGE. -/
def mergeWork (s : State) (r : Running) (m : Mishap) : State := s.unlessFault (mergeStep (s.eccHits m) r)

/-- Form the writes of the unit in hand. -/
def formUnit (s : State) (r : Running) : State :=
  let op := r.op
  if op = oCHAIN || op = oEXPORT then chainForm s r
  else if op = oPRODUCT then productForm s r
  else if op = oLINK then linkForm s r
  else tileForm s r

/-- Commit the unit whose writes have their responses. -/
def finishUnit (s : State) (r : Running) : State :=
  let op := r.op
  if op = oCHAIN || op = oEXPORT then chainFinish s r
  else if op = oPRODUCT then productFinish s r
  else if op = oLINK then linkCommit s r
  else tileFinish s r (if op = oMERGE then r.mergeBands else r.tileTotal)

/-- Form the writes after the last unit. -/
def formTrailer (s : State) (r : Running) : State :=
  let op := r.op
  if op = oCHAIN || op = oEXPORT then chainTrailer s r
  else if op = oPRODUCT then productTrailer s r
  else if op = oLINK then linkTrailer s r
  else if op = oMERGE then mergeTrailer s r
  else sealTrailer s r (storedPositions op)

/-- End a command whose trailer has its responses. -/
def endTrailer (s : State) (r : Running) : State :=
  if r.op = oPRODUCT || r.op = oLINK then endProduct s r else s.endOk r

/-- One step towards a unit's commit (03 R84). A thief that meets a fault abandons its band (13 R320). -/
def commitStep (s : State) (r : Running) (m : Mishap) : State :=
  if (s.port.faultOf ownCmd).isSome then (if r.stolen.isSome then s.abandonBand r else s) else
  match r.stage with
  | .commit false => formUnit (s.eccHits m) r
  | .commit true =>
    let s := s.pumpRun r
    if s.writesDone then finishUnit s r else s
  | .trailer false => if suspends r.op then formTrailer s r else s
  | .trailer true =>
    if !suspends r.op then s else
    let s := s.pumpRun r
    if s.writesDone then endTrailer s r else s
  | _ => s

/-! ### Drains -/

/-- A drained beat of the executing array command. -/
def drainBeat (s : State) (r : Running) (h : BitVec 64) (data : BitVec 4096) (m : Mishap) : State :=
  if r.op = oPRODUCT then productDrain s r (drnHdr h) data m else linkDrain s r (drnHdr h) data m

/-- A mirrored array command waits for a drain and four quarters are here (13 R310). -/
def mirrorDrains (s : State) (r : Running) : Bool := r.mirror && r.stage = .draining && decide (s.pair.quarters.length ≥ 4)

/-- Twin B takes a forwarded drain beat: its four oldest quarters. -/
def mirrorDrain (s : State) (r : Running) (m : Mishap) : State :=
  match s.pair.quarters with
  | (h, _, a) :: (_, _, b) :: (_, _, c) :: (_, _, d) :: rest =>
    drainBeat { s with pair := { s.pair with quarters := rest } } r h (d ++ c ++ b ++ a) m
  | _ => s

/-! ### Beginning, resuming, suspending -/

/-- Begin the next command (12 R295, R300). The steal that this twin has asked for is given up. -/
def beginStep (s : State) : State :=
  if !s.atBoundary then s else
  match s.nextQueue with
  | none => s
  | some q =>
    if (s.queue q).canResume then s else
    let s := { s with pair := { s.pair with claim := none } }
    let t := s.beginQueue q
    match t.run with
    | some r => t.forwardBegin r
    | none => t

/-- Start resuming a command whose turn has come (13 R330). -/
def State.startResume (s : State) (q : BitVec 2) (p : Suspended) : State :=
  let s := if s.leads then s.sendWords 5 (2 :: s.ringWords ++ [q.toNat, pTag p.run.ws]) else s
  { s.dropXlats with pow := { s.pow with passedOver := none } }.execute { p.run with stage := .restoring 0, chunks := [] }

/-- The suspended record of a mirrored command that is being restored. -/
def State.mirroredOf (s : State) (r : Running) : Option Suspended :=
  (s.pair.mirrored.find? fun x => x.queue = r.queue && x.packet = r.packet).map fun x => ⟨x, 0, false, false⟩

/-- A piece of a mirrored command's restore (13 R327). -/
def mirrorResume (s : State) (r : Running) : State :=
  match s.mirroredOf r with
  | none => { s with run := none }
  | some p =>
    match s.resumeStep r p 0 with
    | .on s => s
    | .failed s => { s with run := none }
    | .done s =>
      { s with
        run := some { p.restored r.blockWords r.imageDescs with mirror := true, stopAt := none }
        pair := { s.pair with mirrored := s.pair.mirrored.filter fun x => !(x.queue = r.queue && x.packet = r.packet) } }

/-- Go on with a resumption that its queue's turn began. -/
def resumeRun (s : State) (r : Running) : State :=
  match r.stage with
  | .restoring _ =>
    if r.op = oRESUME || r.op = oRESTORE then s
    else if r.mirror then mirrorResume s r
    else match (s.queue r.queue).susp with
      | none => s
      | some p =>
        match s.resumeStep r p (s.queue r.queue).ctxBase with
        | .on s => s
        | .failed s => s.resumeFailed r.queue p
        | .done s => s.continueRun r.queue p r
  | _ => s

/-- Resume the next command, or go on with it. -/
def resumeNext (s : State) : State :=
  match s.run with
  | some _ => s.onAny resumeRun
  | none =>
    if !s.atBoundary then s else
    match s.nextQueue with
    | none => s
    | some q =>
      match (s.queue q).susp with
      | some p => if p.needsResume then s else s.startResume q p
      | none => s

/-- A mirrored command suspends where twin A's did, once it has sent the checks of every beat announced (13 R327). -/
def mirrorSuspend (s : State) (r : Running) (ecc : List EccHit) : State :=

  match r.stopAt, r.point true with
  | some ws, some r1 =>
    let t := s.pumpMirror
    if t.pair.goes = 0 && r1.stopWords t = ws then
      ({ t with pair := { t.pair with goes := t.pair.goesSave, goesSave := 0 } }.eccList ecc).stopRun r1 r.why
    else s
  | _, _ => s

/-- Suspend the executing command at a suspension point, or go on with its save (13 R321, 12 R302); the row reads of the save, and the
queue that its writes pass, may meet word errors. -/
def suspendRun (s : State) (r : Running) (ecc : List EccHit) : State :=
  match r.stage with
  | .saving _ =>
    if suspends r.op then
      let t := s.eccList ecc
      t.saveStep ((t.run).getD r)
    else s
  | .restoring _ => s
  | _ =>
    if r.stolen.isSome then (if s.pow.fence || s.pow.state = .dusk then s.abandonBand r else s)
    else if !suspends r.op then s
    else if r.mirror then mirrorSuspend s r ecc
    else match s.suspendWhy r with
      | none => s
      | some st => match r.point (st = 0x20) with
        | some r1 => (s.eccList ecc).stopRun r1 st
        | none => s

/-! ### Meanings -/

/-- NOP (12 R284). -/
def execNop (s : State) : Host.Outcome State Fault Refusal := functional s (s.onRun oNOP State.endOk)

/-- CONFIG (12 R286). -/
def execConfig (s : State) : Host.Outcome State Fault Refusal := functional s (s.onRun oCONFIG configStep)

/-- CHAIN_LOAD (04 R121-R124). -/
def execChainLoad (s : State) : Host.Outcome State Fault Refusal := functional s (s.onRun oLOAD chainLoadStep)

/-- CHAIN_RUN (04 R125-R131). -/
def execChainRun (m : Mishap) (s : State) : Host.Outcome State Fault Refusal :=
  functional s (s.onRun oCHAIN fun s r => chainStep s r m)

/-- PRODUCT_RUN (08 R191-R219). -/
def execProductRun (m : Mishap) (s : State) : Host.Outcome State Fault Refusal :=
  functional s (s.onRun oPRODUCT fun s r => if mirrorDrains s r then mirrorDrain s r m else productStep s r m)

/-- LINK_RUN (09 R221-R237). -/
def execLinkRun (m : Mishap) (s : State) : Host.Outcome State Fault Refusal :=
  functional s (s.onRun oLINK fun s r => if mirrorDrains s r then mirrorDrain s r m else linkStepRun s r m)

/-- QUANTIZE (07 R182-R188). -/
def execQuantize (m : Mishap) (s : State) : Host.Outcome State Fault Refusal :=
  functional s (s.onRun oQUANT fun s r => quantStep s r m)

/-- COPY (10 R258). -/
def execCopy (m : Mishap) (s : State) : Host.Outcome State Fault Refusal :=
  functional s (s.onRun oCOPY fun s r => copyStep s r m)

/-- PARTIAL_EXPORT (06 R162-R164). -/
def execPartialExport (m : Mishap) (s : State) : Host.Outcome State Fault Refusal :=
  functional s (s.onRun oEXPORT fun s r => chainStep s r m)

/-- PARTIAL_MERGE (06 R165-R167). -/
def execPartialMerge (m : Mishap) (s : State) : Host.Outcome State Fault Refusal :=
  functional s (s.onRun oMERGE fun s r => mergeWork s r m)

/-- SEAL (12 R288). -/
def execSeal (s : State) : Host.Outcome State Fault Refusal := functional s (s.onRun oSEAL sealStep)

/-- FENCE (12 R287). -/
def execFence (s : State) : Host.Outcome State Fault Refusal := functional s (s.onRun oFENCE fenceStep)

/-- PAIR_MODE (13 R308). -/
def execPairMode (s : State) : Host.Outcome State Fault Refusal := functional s (s.onRun oPAIR pairModeStep)

/-- RESUME (12 R290). -/
def execResume (s : State) : Host.Outcome State Fault Refusal := functional s (s.onRun oRESUME resumeCommand)

/-- ABORT (12 R290). -/
def execAbort (s : State) : Host.Outcome State Fault Refusal := functional s (s.onRun oABORT abortCommand)

/-- CTX_SAVE (13 R333). -/
def execCtxSave (s : State) (ecc : List EccHit := []) : Host.Outcome State Fault Refusal :=
  functional s (s.onRun oSAVE fun s r => ctxSaveStep s r ecc)

/-- CTX_RESTORE (13 R333). -/
def execCtxRestore (s : State) : Host.Outcome State Fault Refusal := functional s (s.onRun oRESTORE ctxRestoreStep)

/-- QUERY (12 R289). -/
def execQuery (s : State) : Host.Outcome State Fault Refusal := functional s (s.onRun oQUERY queryStep)

/-- DUSK (12 R291). -/
def execDusk (s : State) : Host.Outcome State Fault Refusal := functional s (s.onRun oDUSK duskCommand)

/-- DAWN: latched in Dusk, refused with ST_WRONG_MODE outside it (12 R291). -/
def execDawn (s : State) : Host.Outcome State Fault Refusal :=
  functional s (if s.pow.state = .dusk then s.latchDawn else s.onRun oDAWN fun s r => s.refuseRun r 0x17 0 0 0)

/-- A command begins (12 R276, R295, R300, R303). -/
def execCommandBegin (s : State) : Host.Outcome State Fault Refusal := functional s (beginStep s)

/-- A suspended command resumes (13 R330, 12 R301). -/
def execCommandResume (s : State) : Host.Outcome State Fault Refusal := functional s (resumeNext s)

/-- The executing command suspends (13 R321-R325, 12 R302). -/
def execCommandSuspend (s : State) (ecc : List EccHit := []) : Host.Outcome State Fault Refusal :=
  functional s (s.onAny fun s r => suspendRun s r ecc)

/-- A unit of the executing command commits (03 R84). -/
def execTileCommit (m : Mishap) (s : State) : Host.Outcome State Fault Refusal :=
  functional s (s.onAny fun s r => commitStep s r m)

/-- The oldest waiting reply is written (12 R278-R280, R292, R444). -/
def execReplyWrite (s : State) : Host.Outcome State Fault Refusal :=
  functional s (if s.pow.state = .run || s.pow.state = .dusk then s.writeReply else s)

/-- A waiting FENCE is satisfied (12 R287). -/
def execFenceSatisfied (q : BitVec 2) (s : State) : Host.Outcome State Fault Refusal := functional s (fenceRelease s q)

end Sys2Proof.Machine
end

