-- ==== Sys2Proof/Machine/PortCmds.lean ====
section
/-! DEFINITION. Events of the memory, translation, array and pair data ports (17 R395-R410; 12 R444; 13 R309-R320; 08 R202, R203). -/

namespace Sys2Proof.Machine

open Sys2Proof

/-! ### The memory and translation ports -/

/-- Forward a read beat to twin B with its tag, index and meta; bits 43 and up say whose read it is (13 R310, log 10). -/
def State.forwardRead (s : State) (r : ReadReq) (tag : BitVec 7) (idx : BitVec 16) (l : RdLine) : State :=
  if s.leads then
    s.sendBeat l.data (sideband 0 (l.info.toNat + idx.toNat <<< 20 + tag.toNat <<< 36 + r.owner <<< 43) l.check l.poison 0)
  else s

/-- A returned line (17 R395, R398); Starlog counts its beat (15 R371). -/
def readBeat (s : State) (tag : BitVec 7) (idx : BitVec 16) (l : RdLine) : State :=
  match s.port.reads.find? (fun r => r.tag = tag) with
  | none => s.stray
  | some r =>
    let p := { s.port with
      reads := s.port.reads.filter (fun x => x.tag != tag)
      buf := if r.owner = ownDrop then s.port.buf else s.port.buf ++ [(r.owner, r.vline, l)] }
    { s with port := p, star := { s.star with readBeats := s.star.readBeats + 1 } }.forwardRead r tag idx l

/-- A write response (17 R395, R400). -/
def writeAnswer (s : State) (tag : BitVec 6) : State :=
  if s.port.writes.any (fun w => w.tag = tag) then
    { s with port := { s.port with writes := s.port.writes.filter (fun w => w.tag != tag) } }
  else s.stray

/-- Keep a translation: the naturally aligned region that contains the page; the oldest of 65 leaves (17 R402, R403). -/
def Port.keepXlat (p : Port) (page pa size : Nat) (write : Bool) : Port :=
  let n := pagesOf (BitVec.ofNat 2 size)
  let l := p.xlats ++ [⟨page / n * n, n, pa / n * n, write⟩]
  { p with xlats := if l.length > 64 then l.drop 1 else l }

/-- Count a dropped Starlog record (15 R372). -/
def State.starDropped (s : State) : State :=
  (({ s with star := { s.star with
    dropped := BitVec.ofNat 16 (Nat.min 0xFFFF (s.star.dropped.toNat + 1)) } }).count cSTARDROP).raiseErr 11

/-- Drop the Starlog record that waits. -/
def State.dropStarlog (s : State) : State :=
  { s.starDropped with star := { s.starDropped.star with waiting := none, promoted := false } }

/-- A translation that came back with a fault: a reply's (12 R444), a Starlog record's (log 21), or one that its command or
fetch acts on (10 R259, 12 R296). -/
def State.xlatFaulted (s : State) (a : AtpReq) : State :=
  if a.owner = ownDrop then s
  else if a.owner = ownReply then s.replyFault
  else if a.owner = ownStar then s.dropStarlog
  else { s with port := { s.port with faults := s.port.faults ++ [⟨a.owner, a.va, a.kind, a.pos⟩] } }

/-- A translation response (17 R395, R402). -/
def atpAnswer (s : State) (id : BitVec 6) (pa : BitVec 40) (size : BitVec 2) (fault : Bool) : State :=
  match s.port.atps.find? (fun a => a.id = id) with
  | none => s.stray
  | some a =>
    let s := { s with port := { s.port with atps := s.port.atps.filter (fun x => x.id != id) } }
    if fault then s.xlatFaulted a
    else if a.owner = ownDrop then s
    else { s with port := s.port.keepXlat a.page pa.toNat size.toNat (a.kind = 1) }

/-! ### The array port -/

/-- Forward a drained beat to twin B in four quarters (13 R310). -/
def State.forwardDrain (s : State) (h : BitVec 64) (data : BitVec 4096) : State :=
  if s.leads then
    (List.range 4).foldl (fun s k =>
      let q : Line := data.extractLsb' (1024 * k) 1024
      s.sendBeat q (sideband 1 h.toNat (rowCheck q) false k)) s
  else s

/-- A drained beat (08 R202, R203): accepted only while this twin holds the token (17 R405); with no drain outstanding it is a
protocol error. -/
def drainStep (s : State) (h : BitVec 64) (data : BitVec 4096) (m : Mishap) : State :=
  match s.run with
  | some r =>
    if s.pair.token && !r.mirror && (r.op = oPRODUCT || r.op = oLINK) then
      let s := s.forwardDrain h data
      if r.stage = .draining then drainBeat (s.eccHits m) r h data m else s.protocolError r
    else s
  | none => s

/-! ### The pair data port -/

/-- A thief's claim or a partner's band is given up: the owner runs it again (13 R319, R320). -/
def State.bandAbandoned (s : State) (band : Nat) : State :=
  match s.run with
  | some r =>
    if r.claimed.contains band then
      { s.count cSTEALAB with run := some { r with
        claimed := r.claimed.filter (· != band)
        skipped := if band < r.front then r.skipped ++ [band] else r.skipped } }
    else s
  | none => s

/-- Complete a joint PAIR_MODE that enters LOCKSTEP: the reply, whose writing makes it so (13 R309). -/
def State.enterLockstep (s : State) (r : Running) : State :=
  let t := (allQ.foldl State.discardFetch s).endOk r
  { t with pair := { t.pair.enter .split with stealing := false, partnerStealing := false, entering := true } }

/-- The joint PAIR_MODE that waits for the partner, if one does, of mode field `m`. -/
def State.waitsFor (s : State) (m : Nat) : Option Running :=
  match s.run with
  | some r => if r.op = oPAIR && r.stage = .waiting && pf r.ws 6 0 2 = m then some r else none
  | none => none

/-- The joint PAIR_MODE that waits for LOCKSTEP, if it does. -/
def State.joining (s : State) : Option Running := s.waitsFor 1

/-- A copy line at twin B (13 R309, 15 R350): the last one completes the change, a bad one fails it on both twins. -/
def State.copyBeat (s : State) (hdr : Nat) (data : Line) (check : Word) (poison : Bool) : State :=
  match s.joining with
  | none => s
  | some r =>
    if s.isA then s
    else if copyBad hdr data check poison then
      ((s.endRun r { status := 0x34 } [cROWCHECK]).raiseErr 3).sendBeat 0 (sideband 4 11 (rowCheck 0) false 0)
    else
      let s := { s with arch := s.arch.takeCopy hdr data check poison }
      if hdr % 2 ^ 16 = 7583 then (s.sendBeat 0 (sideband 4 10 (rowCheck 0) false 0)).enterLockstep r else s

/-- Twin B has consumed poison in the mirrored command: it ends in twin A, and the error record names the twin and the place
that B reports (15 R361, R364). -/
def State.partnerPoison (s : State) (tag index : Nat) (e : ErrRec) : State :=
  match s.run with
  | some r => if mirrorsOp r.op && pTag r.ws = tag && r.final.isNone then s.endPoison r index { e with kind := 1, twin := true } else s
  | none => s

/-- Bands, or query blocks, of the executing command. -/
def Running.bandCount (r : Running) (g : Geom) : Nat := if r.op = oLINK then r.queryBlocks g else r.walk.bands

/-- A band that the owner has not begun and that its partner has not claimed or done (13 R317, R319). -/
def Running.unbegun (r : Running) (b : Nat) : Bool := (decide (r.front ≤ b) || r.skipped.contains b) && !r.away b

/-- The executing command's bands may be stolen (13 R316). -/
def Running.stealable (r : Running) : Bool :=
  r.stolen.isNone && !r.mirror && ((r.op = oCHAIN && (statIns r.ws).isEmpty) || r.op = oLINK) &&
  match r.stage with
  | .verify .. | .restoring _ | .saving _ | .trailer _ | .done => false
  | _ => true

/-- The owner answers a claim (13 R317, 17 R410; a FAILED instance answers none, 16 R384): it grants the highest band that it has not begun, one at a time, by forwarding
the command, or refuses. -/
def State.answerClaim (s : State) (band : Nat) : State :=
  let refuse := s.sendBeat 0 (sideband 4 4 (rowCheck 0) false 0)
  if s.pair.mode != .split || s.pow.failed then s else
  match s.run with
  | none => refuse
  | some r =>
    let top := ((List.range (r.bandCount (geomOf s.straps.mxaGeom))).filter r.unbegun).getLast?
    if r.stealable && r.claimed.isEmpty && top = some band then
      { s with run := some { r with claimed := [band] } }.sendWords 5 (forwardWords s r 4 band)
    else refuse

/-- Twin A announces `n` writes (log 10). -/
def State.announced (s : State) (n : Nat) : State :=
  if s.pair.mode = .lockstep && !s.isA then
    let later : Bool := match s.run with
      | some r => r.mirror && r.stopAt.isSome && r.stage.code != 12
      | none => false
    { s with pair := if later then { s.pair with goesSave := s.pair.goesSave + n } else { s.pair with goes := s.pair.goes + n } }
  else s

/-- Steal and pair messages by code (log 10): 1 claim, 3 abandon, 4 refusal, 5 the owner suspends, 6 divergence, 8 writes
announced, 9 the steal bit, 10 and 11 the copy has arrived or failed. -/
def State.pairMessage (s : State) (hdr : Nat) : State :=
  let code := hdr % 256
  let arg := hdr >>> 8
  if code = 1 then s.answerClaim arg
  else if code = 3 then s.bandAbandoned arg
  else if code = 4 then { s with pair := { s.pair with claim := none } }
  else if code = 5 then
    (match s.run with
     | some r => if r.stolen.isSome then s.leave r else s
     | none => s)
  else if code = 6 then s.splitDiverged
  else if code = 8 then s.announced arg
  else if code = 9 then { s with pair := { s.pair with partnerStealing := arg = 1 } }
  else if code = 10 then (match s.joining with | some r => s.enterLockstep r | none => s)
  else if code = 11 then (match s.joining with | some r => (s.endRun r { status := 0x34 } []).raiseErr 6 | none => s)
  else s

/-- A reply from words 0 to 5, for its beat alone. -/
def replyFrom (ws : List Nat) : Reply :=
  let w (k : Nat) : Word := w32 (nth ws k)
  ⟨w 0, w 1, w 2, w 3, w 4, w 5, false, false⟩

/-- Twin B forms the beat of a reply it is told. -/
def State.echoReply (s : State) (ws : List Nat) : State :=
  { s with pair := { s.pair with mirrorRing := ringOf ws } }.replyCheck (replyFrom (ws.drop 5))

/-- The tag is that of the mirrored command, executing or suspended. -/
def State.mirrors (s : State) (tag : Nat) : Bool :=
  (match s.run with | some r => r.mirror && pTag r.ws = tag | none => false) || s.pair.mirrored.any fun x => pTag x.ws = tag

/-- Drop the mirrored command of a tag. -/
def State.dropMirror (s : State) (tag : Nat) : State :=
  let s := match s.run with
    | some r => if r.mirror && pTag r.ws = tag then { s with run := none } else s
    | none => s
  { s with pair := { s.pair with mirrored := s.pair.mirrored.filter fun x => pTag x.ws != tag, rx := [], quarters := [], goes := 0, goesSave := 0 } }

/-! ### Steal-safe programs (13 R316, 14 R346) -/

/-- Code `c` names an S register. -/
def isSCode (c : Nat) : Bool := decide (0x70 ≤ c) && decide (c < 0x90)

/-- Tile register `c` lies in the span of a slot, or in that of a stage of an earlier pass than `p`; `span d`: registers of slot `d`. -/
def Prog.filled (P : Prog) (span : Nat → Nat) (p c : Nat) : Bool :=
  (P.used.any fun d => decide ((P.slot d).base ≤ c) && decide (c < (P.slot d).base + span d)) ||
  (P.uops.any fun v => decide (v.pass < p) && decide (v.dst ≤ c) && decide (c < v.dst + v.dstSpan P.width) && decide (v.dst < 0x60))

/-- Source `k` of micro-op `u` is a bound slot span, was written in an earlier pass, or is an S register cleared at band
start (R316). -/
def Prog.sourceSafe (P : Prog) (span : Nat → Nat) (u : Uop) (k : Nat) : Bool :=
  let c := if k = 0 then u.sa else if k = 1 then u.sb else u.sc
  let (a, b, d) := srcKinds u.op
  let kind := if k = 0 then a else if k = 1 then b else d
  if kind = .none || (k = 1 && u.immB) then true
  else if c < 0x60 then (List.range (u.srcSpan P.width k)).all fun j => P.filled span u.pass (c + j)
  else !isSCode c ||
    (P.uops.any fun v => decide (v.pass < u.pass) && v.dst = c) || (P.uops.any fun v => v.dst = c && isStat v.op && bit v.imm 0)

/-- The program is steal-safe (R316, 14 R346). -/
def Prog.stealSafe (P : Prog) (span : Nat → Nat) : Bool :=
  !P.usesRnd 6 && P.uops.all fun u => (List.range 3).all (P.sourceSafe span u)

/-- The widest span that slot `d` may have: what CHAIN_LOAD knows of it (log 58). -/
def Prog.widest (P : Prog) (d : Nat) : Nat := if (P.slot d).plane != 0 then 1 else spanOf P.width 0

/-- The forwarded run is one that may be stolen, its slots bound as its descriptors say. -/
def Running.stealSafe (r : Running) : Bool :=
  r.op = oLINK || r.prog.stealSafe (slotSpan r.prog r.ds r.op)

/-- A thief's grant (13 R317): it runs the band unless it has given the steal up, is no longer up, or lacks the program. -/
def State.startStolen (s : State) (ws : List Nat) : State :=
  let r := forwardedRun s ws
  let band := nth ws 8
  let lacks := ((pProg r.ws).isSome && r.image.isEmpty) || !r.stealSafe
  if s.pair.claim.isNone || s.run.isSome || s.pair.mode != .split || s.pow.state != .run || s.pow.fence || lacks then
    { s with pair := { s.pair with claim := none } }.sendBeat 0 (sideband 4 (3 + band <<< 8) (rowCheck 0) false 0)
  else
    let unit := if r.op = oLINK then band else band * r.walk.upb
    { s with pair := { s.pair with claim := none } }.execute { r with stolen := some band, stage := .load, unit := unit }

/-- A whole command forward: 0 a command begins, 1 a reply, 2 a resumption, 3 a suspension, 4 a stolen band, 5 a QUERY
report, 6 the end of a command, 7 twin B's poison (log 10). -/
def State.forwarded (s : State) (ws : List Nat) : State :=
  let ty := nth ws 0
  let b : Bool := s.pair.mode = .lockstep && !s.isA
  let rest := ws.drop 1
  if ty = 4 then s.startStolen ws
  else if ty = 7 then (if s.leads then s.partnerPoison (nth ws 1) (nth ws 2) (errOf (ws.drop 3)) else s)
  else if !b then s
  else if ty = 0 then
    { s with pair := { s.pair with rx := [], quarters := [], goes := 0, goesSave := 0, mirrorRing := ringOf rest } }.execute
      { forwardedRun s ws with mirror := true }
  else if ty = 1 then s.echoReply rest
  else if ty = 2 then
    match s.pair.mirrored.find? (fun x => x.queue.toNat = nth ws 6 && pTag x.ws = nth ws 7) with
    | some x =>
      { s with pair := { s.pair with rx := [], goes := 0, goesSave := 0, mirrorRing := ringOf rest } }.execute
        { x with stage := .restoring 0, chunks := [], mirror := true }
    | none => s
  else if ty = 3 then
    { s with run := s.run.map fun r =>
      if r.mirror then { r with stopAt := some (ws.drop 2 |>.take 11), why := nth ws 1 } else r }
  else if ty = 5 then
    { s with run := s.run.map fun r => if r.mirror then { r with chunks := [(1003, 0, 0, rest)] } else r }
  else if ty = 6 then
    let tag := nth ws 7
    if s.mirrors tag then (s.dropMirror tag).echoReply rest
    else if bits (nth ws 6) 24 8 = 0x31 then s.echoReply rest else s
  else s

/-- One beat of a command forward: kept until the last has come. -/
def State.forwardBeat (s : State) (hdr : Nat) (data : Line) : State :=
  let n := hdr % 2 ^ 16
  let k := bits hdr 16 16
  let fwd := sput s.pair.fwd k data
  if k + 1 < n then { s with pair := { s.pair with fwd := fwd } }
  else { s with pair := { s.pair with fwd := [] } }.forwarded
    ((List.range n).flatMap fun j => unpack 32 32 (sget 0 fwd j).toNat)

/-- A beat of the pair data channel, freed as it is taken (17 R406, R407). A twin in SOLO ignores the pair port (13 R314),
and a FAILED one answers nothing on it (16 R384). -/
def pairBeat (s : State) (data : Line) (sb : BitVec 112) : State :=
  if s.pow.failed || (s.pair.mode = .solo && (s.waitsFor 0).isNone) then s else
  let s := s.drive .pairCredit
  let kind := (sb.extractLsb' 108 4).toNat
  let hdr := (sb.extractLsb' 44 64).toNat
  let check := sb.extractLsb' 12 32
  let poison := sb.getLsbD 11
  let b : Bool := s.pair.mode = .lockstep && !s.isA
  if kind = 0 then
    (if b && hdr >>> 43 = ownCmd then { s with pair := { s.pair with rx := s.pair.rx ++ [(data, sb)] } } else s)
  else if kind = 1 then
    (if b then { s with pair := { s.pair with quarters := s.pair.quarters ++ [(sb.extractLsb' 44 64, sb.extractLsb' 9 2, data)] } } else s)
  else if kind = 2 then s.copyBeat hdr data check poison
  else if kind = 3 then
    (match s.run with
     | some r => if r.stolen.isSome && !poison && check != rowCheck data then ((s.count cROWCHECK).raiseErr 3).abandonBand r else s
     | none => s)
  else if kind = 4 then s.pairMessage hdr
  else if kind = 5 then s.forwardBeat hdr data
  else s

/-- A credit comes back (17 R407). -/
def creditStep (s : State) : State :=
  if s.pow.failed then s
  else { s with pair := { s.pair with credits := if s.pair.credits < 16 then s.pair.credits + 1 else 16 } }.sendWaiting

/-! ### Meanings -/

/-- PACKET_FETCH: one step of the fetch of a queue's head packet (12 R275, R295, R296). -/
def execPacketFetch (q : BitVec 2) (s : State) : Host.Outcome State Fault Refusal :=
  functional s (if s.mayFetch q then s.fetchStep q else s)

/-- MEM_READ_DATA (17 R398). -/
def execMemReadData (tag : BitVec 7) (idx : BitVec 16) (data : Line) (check : Word) (info : BitVec 20) (poison : Bool)
    (s : State) : Host.Outcome State Fault Refusal :=
  functional s (readBeat s tag idx ⟨data, check, info, poison⟩)

/-- WRITE_RESPONSE (17 R400). -/
def execWriteResponse (tag : BitVec 6) (s : State) : Host.Outcome State Fault Refusal := functional s (writeAnswer s tag)

/-- ATP_RESPONSE (17 R402). -/
def execAtpResponse (id : BitVec 6) (pa : BitVec 40) (size : BitVec 2) (fault : Bool) (s : State) :
    Host.Outcome State Fault Refusal :=
  functional s (atpAnswer s id pa size fault)

/-- MXA_DRAIN_BEAT (08 R202). -/
def execMxaDrainBeat (hdr : BitVec 64) (data : BitVec 4096) (m : Mishap) (s : State) : Host.Outcome State Fault Refusal :=
  functional s (drainStep s hdr data m)

/-- PAIR_DATA_BEAT (17 R406). -/
def execPairDataBeat (data : Line) (sb : BitVec 112) (s : State) : Host.Outcome State Fault Refusal :=
  functional s (pairBeat s data sb)

/-- PAIR_CREDIT (17 R407). -/
def execPairCredit (s : State) : Host.Outcome State Fault Refusal := functional s (creditStep s)

end Sys2Proof.Machine
end

