-- ==== Sys2Proof/Machine/PairCmds.lean ====
section
/-! DEFINITION. Events of the pair: joint mode changes, the array token, lockstep checks, the partner's presence, band stealing
(13 R306-R320, 17 R406-R410, 01 R36-R39). -/

namespace Sys2Proof.Machine

open Sys2Proof

/-! ### Joint mode changes (13 R308, R309) -/

/-- The partner's PAIR_MODE of the same mode has begun. SPLIT is entered at once; on the way to LOCKSTEP twin A sends its copy,
once, and the copy's arrival completes the change. `ecc`: the words that its row reads met. -/
def joinStep (s : State) (mode : Nat) (ecc : List EccHit) : State :=
  match s.waitsFor mode with
  | none => s
  | some r =>
    if mode = 0 then
      let t := s.endOk r
      { t with pair := t.pair.enter .split }.setSteal (bit (nth r.ws 6) 2)
    else if mode = 1 && r.why = 0 then
      let s := { s with run := some { r with why := 1 } }
      if s.isA then (s.eccList ecc).sendCopy else s
    else s

/-- The partner's match has not come in time: ST_WRONG_MODE (13 R308). -/
def joinTimeout (s : State) : State :=
  match s.run with
  | some r => if r.op = oPAIR && r.stage = .waiting && r.why = 0 then s.refuseRun r 0x17 0 0 0 else s
  | none => s

/-! ### The array token (01 R36-R39, 17 R409) -/

/-- Hand the token over at the boundary where the executing command stands. -/
def handoverStep (s : State) : State :=
  match s.run with
  | some r => if s.yieldDue r then s.handOver else s
  | none => s

/-- Twin A sees its partner's request, held and queue signals: it lowers the grant once it has seen held fall, grants, and asks for a
release. -/
def Pair.arbitrate (p : Pair) (q : Option (BitVec 2)) (req held : Bool) (queue : BitVec 2) : Pair :=
  let fell := p.partnerHeld && !held
  let p := { p with partnerReq := req, partnerHeld := held, partnerQueue := queue }
  let p := if p.grant && fell then { p with grant := false } else p
  let free := !p.token && !p.grant && !held
  let mine := p.request && !(p.everGranted && p.lastSelf)
  let p := if free && req && !mine && !fell then { p with grant := true, lastSelf := false } else p
  { p with release := p.wantsBack q }

/-- Twin B sees twin A's signals: at the first edge at which it sees grant high it holds the token, which it gives up at once when its
request has been withdrawn. -/
def Pair.seeGrant (p : Pair) (req held : Bool) (queue : BitVec 2) (gnt : BitVec 2) : Pair :=
  let g := gnt.getLsbD 1
  let p := { p with
    partnerReq := req, partnerHeld := held, partnerQueue := queue
    grantSeen := g, releaseSeen := gnt.getLsbD 0, grantUsed := p.grantUsed && g }
  if p.token || !g || p.grantUsed then p
  else if p.request then { p with token := true, everGranted := true, lastSelf := true }
  else { p with grantUsed := true }

/-- The pair token signals have changed. A twin in SOLO ignores the pair port (13 R314); only in SPLIT do they decide. -/
def tokenSignal (s : State) (tok : BitVec 4) (gnt : BitVec 2) : State :=
  let req := tok.getLsbD 3
  let held := tok.getLsbD 2
  let queue := tok.extractLsb' 0 2
  let p := s.pair
  if p.mode = .solo || s.pow.failed then s
  else if p.mode = .lockstep then
    { s with pair := { p with partnerReq := req, partnerHeld := held, partnerQueue := queue } }
  else if s.isA then { s with pair := p.arbitrate (s.run.map (·.queue)) req held queue }
  else { s with pair := p.seeGrant req held queue gnt }

/-! ### Lockstep checks (13 R311, R312) -/

/-- B's check arrives: it is compared with the oldest held beat, or kept for the beat to come. -/
def checkStep (s : State) (c : Word) : State :=
  if s.leads then
    { s with pair := { s.pair with checks := s.pair.checks ++ [c] } }.compareHeld s.pair.held.length
  else s

/-- B's check has not come in time: the comparison of the oldest held beat fails. -/
def checkTimeout (s : State) : State :=
  if !s.leads then s
  else match s.pair.held with
    | [] => s
    | (b, _, line) :: _ =>
      if s.pair.checks.isEmpty then s.diverge b line 0 true else s.compareHeld s.pair.held.length

/-! ### The partner's presence (13 R306, R307, R313, R314, R320) -/

/-- Leave LOCKSTEP for SOLO because the partner is gone: twin A goes on without comparison, twin B drops the mirrored command and
its queues fetch again. -/
def State.autoSolo (s : State) : State :=
  let p := { s.pair with mode := .solo, stealing := false, partnerStealing := false, autoSolo := true, entering := false }
  if s.isA then { s with pair := { p with mirrored := [] } }.releaseHeld
  else
    let run := match s.run with | some r => if r.mirror then none else some r | none => none
    { s with run := run, pair := { p with mirrored := [], rx := [], quarters := [], checks := [] } }

/-- Bands that the detached partner has claimed are abandoned, and so is the band of its own that this twin runs. -/
def State.dropSteals (s : State) : State :=
  let s := { s with pair := { s.pair with claim := none } }
  match s.run with
  | some r =>
    if r.stolen.isSome then s.leave r
    else r.claimed.foldl State.bandAbandoned s
  | none => s

/-- What the partner's signals and buffers held is gone with it. -/
def Pair.forgetPartner (p : Pair) : Pair :=
  { p with partnerReq := false, partnerHeld := false, grant := false, release := false, grantSeen := false, releaseSeen := false
           grantUsed := false, tx := [], fwd := [] }

/-- The partner becomes detached, attached, FAILED, or SOLO. -/
def aliveStep (s : State) (p : PartnerState) : State :=
  let s := { s with pair := { s.pair with partner := p, partnerFailed := decide (p = PartnerState.failed) } }
  match p with
  | .attached =>
    let s := { s with pair := { s.pair with arrayBarred := false } }
    if s.pair.mode = .split then s.setSteal s.pair.stealing else s
  | .solo => { s with pair := { s.pair with arrayBarred := s.pair.mode != PairModeKind.solo } }
  | .detached =>
    let s := { s.dropSteals with pair := s.dropSteals.pair.forgetPartner }
    if s.pair.mode = .lockstep then s.autoSolo else s
  | .failed =>
    let s := { s.dropSteals with pair := s.dropSteals.pair.forgetPartner }
    let s := if s.pair.mode = PairModeKind.lockstep then s.autoSolo else s
    { s with pair := { s.pair with mode := .solo, stealing := false, partnerStealing := false, arrayBarred := false
                                   autoSolo := s.pair.autoSolo || s.pair.mode != PairModeKind.solo } }

/-! ### Band stealing (13 R316-R320) -/

/-- This twin may steal what the partner's command offers (R316). A LINK_RUN too needs the same program in both chain stores,
for only its packet is forwarded (R317, log 10). -/
def State.maySteal (s : State) (o : StealOffer) : Bool :=
  let op := o.opcode.toNat
  s.pair.stealing && s.pair.mode = .split && s.run.isNone && !allQueues.any s.queueReady && !s.pair.detached &&
  s.pair.partner = .attached && s.pow.state = .run && s.pow.dawnDone && !s.pow.fence && s.pair.claim.isNone && !o.statIn &&
  (op = oLINK || op = oCHAIN) &&
  match s.arch.prog? o.prog.toNat with
  | some e => let P := progOf (nats (s.arch.image e)); P.crc = o.imageCrc.toNat && (op = oLINK || P.stealSafe P.widest)
  | none => false

/-- Claim a band of the partner's command. -/
def stealStep (s : State) (o : StealOffer) : State :=
  if s.maySteal o then
    { s with pair := { s.pair with claim := some o } }.sendBeat 0 (sideband 4 (1 + o.band.toNat <<< 8) (rowCheck 0) false 0)
  else s

/-- A thief reports its band done: the owner keeps the report for its place in band order (R318); without meridian order the
band's cross-band values fold as they arrive (06 R168). -/
def stealDone (s : State) (x : StealReport) : State :=
  match s.run with
  | some r =>
    let band := x.band.toNat
    if r.claimed.contains band then
      let now := r.op = oCHAIN && !r.meridian
      let (arch, p) := foldStolen s.arch r r.walk x
      let x := if now then foldedReport r x p else x
      { s.count cBANDSTOLEN with
        arch := if now then arch else s.arch
        run := some { r with claimed := r.claimed.filter (· != band), reports := insertReport x r.reports } }
    else s
  | none => s

/-! ### Meanings -/

/-- PAIR_MODE_JOIN (13 R308, R309). -/
def execPairModeJoin (mode : BitVec 2) (s : State) (ecc : List EccHit := []) : Host.Outcome State Fault Refusal :=
  functional s (joinStep s mode.toNat ecc)

/-- PAIR_MODE_TIMEOUT (13 R308). -/
def execPairModeTimeout (s : State) : Host.Outcome State Fault Refusal := functional s (joinTimeout s)

/-- TOKEN_HANDOVER (01 R38, R39; 13 R317). -/
def execTokenHandover (s : State) : Host.Outcome State Fault Refusal := functional s (handoverStep s)

/-- PAIR_TOKEN_SIGNAL (17 R409). -/
def execPairTokenSignal (tok : BitVec 4) (gnt : BitVec 2) (s : State) : Host.Outcome State Fault Refusal :=
  functional s (tokenSignal s tok gnt)

/-- PAIR_CHECK (13 R311, 17 R408). -/
def execPairCheck (chk : Word) (s : State) : Host.Outcome State Fault Refusal := functional s (checkStep s chk)

/-- LOCKSTEP_CHECK_TIMEOUT (13 R311, R312). -/
def execLockstepCheckTimeout (s : State) : Host.Outcome State Fault Refusal := functional s (checkTimeout s)

/-- PAIR_ALIVE_CHANGE (13 R306, R307, R313, R314). -/
def execPairAliveChange (p : PartnerState) (s : State) : Host.Outcome State Fault Refusal := functional s (aliveStep s p)

/-- BAND_STEAL (13 R316, R317). -/
def execBandSteal (o : StealOffer) (s : State) : Host.Outcome State Fault Refusal := functional s (stealStep s o)

/-- STEAL_CLAIM (13 R317, 17 R410). -/
def execStealClaim (band : Word) (s : State) : Host.Outcome State Fault Refusal := functional s (s.answerClaim band.toNat)

/-- STEAL_BAND_DONE (13 R318). -/
def execStealBandDone (r : StealReport) (s : State) : Host.Outcome State Fault Refusal := functional s (stealDone s r)

end Sys2Proof.Machine
end

