-- ==== Sys2Proof/Machine/Integrity.lean ====
section
/-! DEFINITION. Background work: Nightwatch, calibration, lane rotation, Starlog and debug captures (15 R365-R373, 01 R24, R25, R34,
R41, 18 R419). -/

namespace Sys2Proof.Machine

open Sys2Proof

/-! ### Nightwatch (15 R365-R367) -/

/-- Units of a scrub pass. -/
def scrubUnits : Nat := 7424

/-- Storage of a scrub unit, and its number within the storage. -/
def scrubPlace (u : Nat) : Nat × Nat :=
  if u < 3072 then (0, u) else if u < 3200 then (2, u - 3072) else if u < 7296 then (4, u - 3200) else (5, u - 7296)

/-- What a scrub read met, with requester 4 (R363); the words of every scrubbed storage run 16 to a unit. -/
def scrubHit (u : Nat) (h : ScrubHit) : EccHit :=
  let (st, k) := scrubPlace u
  if st = 0 && h.inTag then ⟨1, 4, BitVec.ofNat 16 k, h.kind⟩
  else ⟨BitVec.ofNat 3 st, 4, BitVec.ofNat 16 (16 * k + h.word.toNat), h.kind⟩

/-- The hit was corrected. -/
def ScrubHit.isCorrected (h : ScrubHit) : Bool := match h.kind with | .corrected .. => true | .uncorrectable _ => false

/-- The TRF bank of a scrub unit: that of its row (01 R32). -/
def bankOf (u : Nat) : Option Nat := if u < 3072 then some (u % 32) else none

/-- Nightwatch is granted the bank of unit `u`: its starvation count returns to zero (01 R34). -/
def Nightwatch.granted (n : Nightwatch) (u : Nat) : Nightwatch :=
  match bankOf u with
  | some b => { n with starved := sset 0 n.starved b 0 }
  | none => n

/-- Nightwatch reads the next unit: corrections ask for a write-back (`State.logCorrected`), uncorrectable words mark their granule;
the last unit ends the pass. -/
def scrubStep (s : State) (hits : List ScrubHit) : State :=
  if !s.night.enable || !s.clocked then s else
  let u := s.night.pos.toNat
  let s := hits.foldl (fun s h => s.eccHit (scrubHit u h)) s
  let last := decide (u + 1 ≥ scrubUnits)
  let s := if last then s.count cSCRUB else s
  { s with night := { s.night.granted u with pos := if last then 0 else BitVec.ofNat 13 (u + 1) } }

/-- Unit `u` has been written back, or its write-back was dropped because newer data stands: in both cases data and tag stay as they
read (R366). -/
def Nightwatch.wroteBack (n : Nightwatch) (u : BitVec 13) : Nightwatch :=
  { n.granted u.toNat with writebacks := n.writebacks.filter (· != u) }

/-- The oldest corrected unit takes a write slot. -/
def writebackStep (s : State) : State :=
  if !s.clocked then s
  else match s.night.writebacks with
    | [] => s
    | u :: _ => { s with night := s.night.wroteBack u }

/-- Unit `u` lies on a bank. -/
def onBank (bank : BitVec 5) (u : Nat) : Bool := bankOf u = some bank.toNat

/-- A bank's starvation count has reached 255, and Nightwatch is granted the bank ahead of every other requester (01 R34): its WP
for a write-back that waits there, or its RP1 for the next scrub read. -/
def starvationGrant (s : State) (bank : BitVec 5) (wb : Bool) (hits : List ScrubHit) : State :=
  if !s.night.enable || !s.clocked then s
  else if wb then
    match s.night.writebacks.find? (fun u => onBank bank u.toNat) with
    | some u => { s with night := s.night.wroteBack u }
    | none => s
  else if onBank bank s.night.pos.toNat then scrubStep s hits
  else s

/-! ### Calibration and lane rotation (15 R368-R370) -/

/-- A periodic trim: new codes, or the last good ones when a new one would leave its range. -/
def trimStep (s : State) (ok : Bool) (ro : BitVec 16) (droop roT : BitVec 6) : State :=
  if !s.cal.enable || s.pow.state != .run then s
  else if ok then
    { s with cal := { s.cal with roCount := ro, lastFailed := false, droopTrim := droop, roTrim := roT } }
  else (({ s with cal := { s.cal with roCount := ro, lastFailed := true } }).count cCALFAIL).raiseErr 10

/-- A droop detector trips: only the counts change (R369). -/
def droopStep (s : State) : State :=
  if !s.clocked then s
  else { s with star := { s.star with droops := BitVec.ofNat 16 (Nat.min 0xFFFF (s.star.droops.toNat + 1)) } }.count cDROOP

/-- The spare column after a rotation (01 R25). -/
def nextSpare (x : BitVec 6) : BitVec 6 := BitVec.ofNat 6 ((x.toNat + 1) % 33)

/-- A pending rotation runs at a command boundary at which no command executes (R370); it is dropped while a column is pinned
(16 R386). -/
def rotationStep (s : State) : State :=
  if s.cal.rotPending && s.dawn.pinned != 0x3F then { s with cal := { s.cal with rotPending := false } }
  else if s.cal.rotPending && s.run.isNone && s.pow.state = .run then
    { s with cal := { s.cal with rotPending := false, spare := nextSpare s.cal.spare } }.count cLANEROT
  else s

/-! ### Starlog (15 R371-R373) -/

/-- Words 0 to 13 of a record, and word 14 without its drop count. -/
def State.starWords (s : State) (x : StarlogSample) : List Word :=
  let (tag, who) := match s.run with
    | some r => if r.stolen.isSome then (0, 0xFF <<< 16) else (pTag r.ws, r.queue.toNat <<< 30 + r.op <<< 16)
    | none => (0, 0xFF <<< 16)
  [0x53540031, w32 (s.num.package.toNat <<< 14 + s.straps.instanceId.toNat <<< 2 + s.pair.mode.code),
   x.time.extractLsb' 0 32, x.time.extractLsb' 32 32, s.star.serial + 1, x.busy, x.laneIssue, x.arrayOpen, s.star.readBeats,
   s.star.writeBeats, x.throttled, w32 (s.star.droops.toNat <<< 16 + s.star.corrected.toNat),
   w32 (s.cal.roCount.toNat <<< 16 + s.pow.throttle.toNat <<< 6 + s.cal.spare.toNat), w32 tag, w32 who]

/-- The Starlog ring is full (R372). -/
def Starlog.full (x : Starlog) : Bool := (x.head.toNat + 1) % x.base.entries = x.tail.toNat

/-- A record falls due: it waits for its write or is dropped; the interval counts restart. Twin B of LOCKSTEP drops each (R373). -/
def starRecord (s : State) (x : StarlogSample) : State :=
  if !s.star.enable || s.pow.state != .run then s else
  let ws := s.starWords x
  let drop := s.star.waiting.isSome || s.star.full || (s.pair.mode = .lockstep && !s.isA)
  let s := { s with
    star := { s.star with serial := s.star.serial + 1, droops := 0, corrected := 0, readBeats := 0, writeBeats := 0 } }
  if drop then s.starDropped else { s with star := { s.star with waiting := some ws } }

/-- The bytes of the waiting record: the drops since the previous written record, and the CRC. -/
def Starlog.bytes (x : Starlog) (ws : List Word) : Nat :=
  let l := nats (ws.take 14) ++ [nth (nats ws) 14 + x.dropped.toNat]
  pack 32 (l ++ [crcWords l])

/-- The waiting record's beat: one write of the background class at STARLOG_HEAD. -/
def Starlog.beat (x : Starlog) (ws : List Word) : WriteBeat :=
  plainBeat x.addr 64 (x.bytes ws) 2 ownStar 0xFF

/-- The oldest waiting reply could be written now. -/
def State.replyReady (s : State) : Bool :=
  match s.ring.waiting with
  | [] => false
  | r :: _ => !s.ring.faulted && !s.ring.issued && s.ring.room && (s.writeTag (s.ring.beat r).vline).isSome

/-- Nothing of a higher class is ready for the port, or the record has waited its 1,024 PCLK (01 R41). -/
def State.backgroundTurn (s : State) : Bool := s.mayIssue 2 && (s.star.promoted || !s.replyReady)

/-- Write the waiting record; a fenced instance keeps it (R372, 13 R315), and twin B of LOCKSTEP, which writes none, drops it
(R373). -/
def starWrite (s : State) : State :=
  match s.star.waiting with
  | none => s
  | some ws =>
    if s.pair.mode = .lockstep && !s.isA then s.dropStarlog
    else if s.pow.fence || !s.clocked || !s.backgroundTurn then s
    else
      match s.issueWrite (s.star.beat ws) with
      | (t, true) =>
        { t with star := { t.star with
          waiting := none, promoted := false, dropped := 0
          head := BitVec.ofNat 16 ((t.star.head.toNat + 1) % t.star.base.entries) } }
      | (t, false) => t

/-- A background request that has waited 1,024 PCLK goes next, ahead of both other classes (01 R41, `State.mayIssue`): at once when it
can. -/
def promoteStep (s : State) : State :=
  if s.star.waiting.isSome then starWrite { s with star := { s.star with promoted := true } } else s

/-! ### Debug captures (18 R419) -/

/-- A row tag as 64 bits (01 Row tags). -/
def RowTag.asBits (t : RowTag) : BitVec 64 :=
  BitVec.ofNat 64 (t.producer.toNat <<< 48 + t.format.toNat <<< 44 + (if t.poison then 1 <<< 43 else 0) +
    (if t.valid then 1 <<< 42 else 0) + t.check.toNat)

/-- The 64-bit word that a capture names: of the row or of its tag. -/
def Debug.word64 (d : Debug) (a : Arch) : BitVec 64 :=
  let t := a.row d.register.toNat d.row.toNat
  if d.tag then t.tag.asBits else BitVec.ofNat 64 (t.bytes >>> (64 * (d.word.toNat / 2)))

/-- The capture reads nothing: a register above 95, or a tag word above 1. -/
def Debug.void (d : Debug) : Bool := decide (d.register.toNat > 95) || (d.tag && decide (d.word.toNat > 1))

/-- The word error that a capture met, as a hit of requester 5. -/
def Debug.hit (d : Debug) (e : EccKind) : EccHit :=
  let key := rowKey d.register.toNat d.row.toNat
  if d.tag then ⟨1, 5, BitVec.ofNat 16 key, e⟩ else ⟨0, 5, BitVec.ofNat 16 (16 * key + d.word.toNat / 2), e⟩

/-- A pending capture completes; ACLK runs in every state but OFF (16 R388). -/
def captureStep (s : State) (e : Option EccKind) : State :=
  if !s.dbg.busy || s.pow.state = .off then s
  else if s.dbg.void then { s with dbg := { s.dbg with busy := false, poison := false, data := 0 } }
  else
    let half (v : BitVec 64) : Word := v.extractLsb' (32 * (s.dbg.word.toNat % 2)) 32
    let good := half (s.dbg.word64 s.arch)
    match e with
    | none => { s with dbg := { s.dbg with busy := false, poison := false, data := good } }
    | some k =>
      let (bad, v) := match k with | .corrected .. => (false, good) | .uncorrectable r => (true, half r)
      { s.eccHit (s.dbg.hit k) with dbg := { s.dbg with busy := false, poison := bad, data := v } }

/-! ### Meanings -/

/-- SCRUB_UNIT (15 R365, R367). -/
def execScrubUnit (hits : List ScrubHit) (s : State) : Host.Outcome State Fault Refusal := functional s (scrubStep s hits)

/-- SCRUB_WRITEBACK (15 R366). -/
def execScrubWriteback (s : State) : Host.Outcome State Fault Refusal := functional s (writebackStep s)

/-- SCRUB_STARVATION_GRANT (01 R34). -/
def execScrubStarvationGrant (bank : BitVec 5) (wb : Bool) (s : State) (hits : List ScrubHit := []) :
    Host.Outcome State Fault Refusal :=
  functional s (starvationGrant s bank wb hits)

/-- BACKGROUND_AGE_PROMOTE (01 R41). -/
def execBackgroundAgePromote (s : State) : Host.Outcome State Fault Refusal := functional s (promoteStep s)

/-- CALIBRATION_TRIM (15 R368). -/
def execCalibrationTrim (ok : Bool) (roCount : BitVec 16) (droop ro : BitVec 6) (s : State) :
    Host.Outcome State Fault Refusal :=
  functional s (trimStep s ok roCount droop ro)

/-- DROOP_EVENT (15 R369). -/
def execDroopEvent (s : State) : Host.Outcome State Fault Refusal := functional s (droopStep s)

/-- STARLOG_RECORD (15 R371-R373). -/
def execStarlogRecord (x : StarlogSample) (s : State) : Host.Outcome State Fault Refusal := functional s (starRecord s x)

/-- STARLOG_RECORD_WRITE (15 R371, R372). -/
def execStarlogRecordWrite (s : State) : Host.Outcome State Fault Refusal := functional s (starWrite s)

/-- DEBUG_CAPTURE (18 R419). -/
def execDebugCapture (e : Option EccKind) (s : State) : Host.Outcome State Fault Refusal := functional s (captureStep s e)

/-- LANE_ROTATION (15 R370). -/
def execLaneRotation (s : State) : Host.Outcome State Fault Refusal := functional s (rotationStep s)

end Sys2Proof.Machine
end

