-- ==== Sys2Proof/Machine/Power.lean ====
section
/-! DEFINITION. Pins, resets, Dawn and Dusk (16 R374-R393; 13 R306, R315, R326; 12 R291). -/

namespace Sys2Proof.Machine

open Sys2Proof

/-! ### Dawn (R383-R387) -/

/-- Dawn begins: the log counts it, a rotation that still waits is dropped (15 R370). -/
def State.startDawn (s : State) : State :=
  { s with
    pow := { s.pow with state := .dawn, step := 0, wakeLatched := false, dawnDone := false
                        syncWait := false, syncPassed := false, syncFailed := false, duskStep := 0 }
    dawn := { s.dawn with
      serial := s.dawn.serial + 1, step := 0
      steps := ssetAll {} s.dawn.steps ((List.range 10).map fun k =>
        (k, { marked := (sget {} s.dawn.steps k).marked })) }
    cal := { s.cal with rotPending := false }
    star := { s.star with serial := 0 } }

/-- Record the outcome of step `k`. -/
def State.logStep (s : State) (k : Nat) (x : StepLog) : State :=
  { s with dawn := { s.dawn with steps := sset {} s.dawn.steps k x } }

/-- Step `k` is marked. -/
def State.marked (s : State) (k : Nat) : Bool := (sget {} s.dawn.steps k).marked

/-- Go on to step `k`; D4 then waits for its pulse, unless it is marked and runs the two-pulse method (R377, R387). -/
def State.toStep (s : State) (k : Nat) : State :=
  { s with pow := { s.pow with step := BitVec.ofNat 4 k, syncWait := k = 4 && !s.marked 4 }
           dawn := { s.dawn with step := BitVec.ofNat 4 k } }

/-- Step `k` ends with an outcome, and the next begins. -/
def State.stepDone (s : State) (k result method attempts : Nat) (mark : Bool) : State :=
  (s.logStep k ⟨mark, BitVec.ofNat 2 result, BitVec.ofNat 2 method, BitVec.ofNat 8 attempts⟩).toStep (k + 1)

/-- Step `k` passes by its primary method. -/
def State.stepPassed (s : State) (k : Nat) : State := s.stepDone k 1 0 1 (s.marked k)

/-- Dawn ends FAILED (R384). -/
def State.dawnFailed (s : State) (k attempts : Nat) : State :=
  let s := s.logStep k ⟨s.marked k, 2, 0, BitVec.ofNat 8 attempts⟩
  { s with pow := { s.pow with failed := true, dawnDone := false }
           dawn := { s.dawn with failed := true, lastExit := 2 } }

/-- D3: the storages hold zero, tags and dirty bits are clear, no program is registered; scrubbing starts over (01 R12,
13 R329, 15 R365). -/
def State.initStorages (s : State) : State :=
  { s with arch := Arch.cleared, night := { s.night with pos := 0, writebacks := [] } }.stepPassed 3

/-- D4: the pulse, or the two-pulse method when no pulse was acknowledged in time or when the step began marked; in that case the mark
stays as it then stands (R377, R378, R387). -/
def State.alignClocks (s : State) : State :=
  if s.pow.syncPassed then s.stepDone 4 1 0 1 false
  else if s.pow.syncFailed then s.stepDone 4 1 1 2 true
  else if s.pow.syncWait then s
  else s.stepDone 4 1 1 1 (s.marked 4)

/-- FW_STATUS of the firmware that runs. -/
def State.setFirmware (s : State) (rom : Bool) (v : BitVec 16) : State := { s with pow := { s.pow with fwRom := rom, fwVersion := v } }

/-- The image's address (R385): a multiple of 4,096. -/
def DawnLog.fwAddr (d : DawnLog) : Nat := d.fwHi.toNat <<< 32 + d.fwLo.toNat / 4096 * 4096

/-- The lines of an image of `n` lines at FW_ADDR. -/
def DawnLog.imageLines (d : DawnLog) (n : Nat) : List (Nat × Nat) := (List.range n).map fun k => (d.fwAddr / 128 + k, 0xFF)

/-- D5 is over: what its reads left is dropped, and so are its translations. -/
def State.firmwareDone (s : State) (method attempts : Nat) (mark : Bool) : State :=
  ((s.dropReads ownFirmware).dropXlats).stepDone 5 1 method attempts mark

/-- D5: the image is read at FW_ADDR and authenticated, or the ROM golden image runs: when the step is marked or no address is valid,
and when a fetch faults or returns poison or the image does not authenticate (R385, R426; log 60). -/
def State.loadFirmware (s : State) (o : DawnOutcome) : State :=
  let rom (s : State) : State := s.setFirmware true 0x0310
  if s.marked 5 then (rom s).firmwareDone 1 1 true
  else if !s.dawn.fwValid then (rom s).firmwareDone 1 1 false
  else match s.ask ownFirmware 0 0 (s.dawn.imageLines (o.imageLines.toNat + 1)) with
    | .wait s => s
    | .fault _ => (rom s).firmwareDone 1 2 true
    | .ready s ls =>
      match (if ls.any (·.2.poison) then none else o.firmware) with
      | some v => (s.setFirmware false v).firmwareDone 0 1 false
      | none => (rom s).firmwareDone 1 2 true

/-- Set the spare column. -/
def State.setSpare (s : State) (x : BitVec 6) : State := { s with cal := { s.cal with spare := x } }

/-- A column is pinned. -/
def State.isPinned (s : State) : Bool := s.dawn.pinned != 0x3F

/-- The spare column that D6 starts with: the pinned one, else the lane record's (R386). -/
def State.startSpare (s : State) : BitVec 6 :=
  if s.isPinned then s.dawn.pinned else if s.dawn.laneValid then s.dawn.savedSpare else s.cal.spare

/-- D6: the golden chain, once more over a failing column; that column is pinned when the retry passes (R386). -/
def State.testLanes (s : State) (o : DawnOutcome) : State :=
  let s := s.setSpare s.startSpare
  match o.failedColumn with
  | none => s.stepDone 6 1 (if s.marked 6 then 1 else 0) 1 (s.marked 6)
  | some c =>
    let s := s.setSpare c
    if o.retryPasses then { s with dawn := { s.dawn with pinned := c } }.stepDone 6 1 1 2 true
    else s.dawnFailed 6 2

/-- Leave a spare in the lane record. -/
def State.recordSpare (s : State) (x : BitVec 6) : State :=
  { s.setSpare x with dawn := { s.dawn with laneValid := true, savedSpare := x } }

/-- D7: the lane record and the Dawn rotation, a pinned column, or the default (R386, 01 R25). -/
def State.restoreLanes (s : State) (o : DawnOutcome) : State :=
  if s.marked 7 then
    (if s.isPinned then s else s.setSpare 0).stepDone 7 3 2 0 true
  else if s.isPinned then (s.recordSpare s.dawn.pinned).stepDone 7 1 0 1 false
  else if !s.dawn.laneValid then (s.recordSpare 0).stepDone 7 1 2 1 false
  else if !o.laneParityOk then (s.recordSpare 0).stepDone 7 2 2 1 true
  else (s.recordSpare (nextSpare s.dawn.savedSpare)).stepDone 7 1 0 1 false

/-- D8: measured trims, or the reset codes (R387, 15). -/
def State.calibrate (s : State) (o : DawnOutcome) : State :=
  if s.marked 8 then
    { s with cal := { s.cal with droopTrim := 0x20, roTrim := 0x20 } }.stepDone 8 3 2 0 true
  else if o.trimOk then
    { s with cal := { s.cal with roCount := o.roCount, lastFailed := false, droopTrim := o.droopTrim, roTrim := o.roTrim } }.stepDone 8 1 0 1 false
  else
    { s with cal := { s.cal with roCount := o.roCount, lastFailed := true, droopTrim := 0x20, roTrim := 0x20 } }.stepDone 8 2 2 1 true

/-- The pair as it is at DAWN_DONE (13 R306, 01 R36, R37): SPLIT without stealing, or SOLO when the partner has FAILED; the token is
held by neither. -/
def Pair.dawned (p : Pair) : Pair :=
  let p := p.enter (if p.partner = .failed then .solo else .split)
  { p with
    stealing := false, token := false, request := false, grant := false, release := false, grantUsed := false
    lastSelf := false, everGranted := false, entering := false, partnerFailed := p.partner = .failed
    autoSolo := p.autoSolo || p.partner = .failed, arrayBarred := p.partner = .solo }

/-- Each latched DAWN is accepted and owed its reply, its tag the first of its queue's window (12 R291). -/
def State.answerDawn (s : State) : State :=
  let s := s.pow.latchedDawn.foldl (fun s x =>
    { s.setQueue x.1 ((s.queue x.1).accept (x.2.getD 1 0)) with
      ring := { s.ring with owed := s.ring.owed ++ [packetReply x.1 (nats x.2) { status := 0x00, deferred := true }] } }) s
  { s with pow := { s.pow with latchedDawn := [] } }.nextReply

/-- D9: windows empty, rings from 0, DAWN_DONE; a latched sleep or EN low starts Dusk at once (R382, R383). -/
def State.dawnReady (s : State) : State :=
  let s := s.logStep 9 ⟨s.marked 9, 1, 0, 1⟩
  let s := { s with
    queues := s.queues.map fun x => { x with window := [], newest := none, fenceTag := none }
    ring := { s.ring with head := 0, tail := 0, serial := 0, phase := true, issued := false }
    star := { s.star with head := 0, tail := 0 }
    pair := s.pair.dawned
    pow := { s.pow with state := .run, dawnDone := true }
    dawn := { s.dawn with failed := false, lastExit := 1 } }
  let s := s.answerDawn
  if s.pow.sleepLatched || !s.pow.en then s.startDusk else s

/-- One step of Dawn. -/
def dawnStep (s : State) (o : DawnOutcome) : State :=
  if s.pow.state != .dawn || s.pow.failed then s else
  match s.pow.step.toNat with
  | 0 => s.stepPassed 0
  | 1 => if o.memoryOk then s.stepPassed 1 else s.dawnFailed 1 1
  | 2 => s.stepPassed 2
  | 3 => s.initStorages
  | 4 => s.alignClocks
  | 5 => s.loadFirmware o
  | 6 => s.testLanes o
  | 7 => s.restoreLanes o
  | 8 => s.calibrate o
  | _ => s.dawnReady

/-! ### Dusk (R388) -/

/-- Every write of the block has its response and no reply waits that can be written. -/
def State.quiet (s : State) : Bool :=
  s.port.outbox.isEmpty && s.port.writes.isEmpty && s.pair.held.isEmpty && (s.ring.waiting.isEmpty || s.pow.fence)

/-- The waiting Starlog record is written, or dropped when fenced or when the ring is full (R388). -/
def State.duskStarlog (s : State) : State :=
  if s.star.waiting.isNone then s
  else if s.pow.fence || s.star.full then s.dropStarlog
  else starWrite { s with star := { s.star with promoted := true } }

/-- The clocks are gated: OFF, or Dawn when a wake is latched (R382). -/
def State.turnOff (s : State) : State :=
  let s := allQ.foldl State.discardFetch s
  let s := { s with pow := { s.pow with state := .off, duskStep := 0 } }
  if s.pow.wakeLatched then s.startDawn else s

/-- One step of Dusk: the head packets have been read and a DAWN there latched, and the executing command has suspended or ended
(COMMAND_SUSPEND); then Starlog, the last writes, the DUSK reply, OFF. -/
def duskStep (s : State) : State :=
  if s.pow.state != .dusk then s else
  match s.pow.duskStep.toNat with
  | 0 =>
    if s.run.any (·.final.isNone) || s.headsUnread then s
    else { s.releaseToken with pow := { s.pow with duskStep := 1 } }
  | 1 =>
    let t := s.duskStarlog
    if t.star.waiting.isSome then t else { t with pow := { t.pow with duskStep := 2 } }
  | 2 =>
    if !s.quiet then s
    else match s.pow.duskCommand with
      | some (q, ws) =>
        let y := packetReply q (nats ws) { status := 0x00 }
        let s := { s with pow := { s.pow with duskCommand := none, duskStep := 3 } }
        (s.tell y).push y
      | none => { s with pow := { s.pow with duskStep := 3 } }
  | _ => if s.quiet then s.turnOff else s

/-! ### Pins (R382, R391-R393; 13 R315, R326) -/

/-- EN qualifies high. -/
def enRise (s : State) : State :=
  let s := { s with pow := { s.pow with en := true } }
  match s.pow.state with
  | .off => s.startDawn
  | .dusk => { s with pow := { s.pow with wakeLatched := true } }
  | _ => s

/-- EN qualifies low. -/
def enFall (s : State) : State :=
  let s := { s with pow := { s.pow with en := false } }
  match s.pow.state with
  | .run => s.startDusk
  | .dawn => if s.pow.failed then s else { s with pow := { s.pow with sleepLatched := true } }
  | _ => s

/-- A qualified PREEMPT_REQ edge: coalesced while the latch is set, without effect when nothing that can suspend executes; during
a save or a restore it acts on the command that executes next. -/
def preemptEdge (s : State) : State :=
  if s.pow.preempt then s.count cPRECOAL
  else if s.pair.mode = .lockstep && !s.isA then s
  else match s.run with
    | none => s
    | some r =>
      match r.stage with
      | .saving _ | .restoring _ =>
        if suspends r.op || r.op = oRESUME then { s with pow := { s.pow with preempt := true, preemptKeep := true } } else s
      | .trailer _ | .done => s
      | _ => if suspends r.op && r.stolen.isNone then { s with pow := { s.pow with preempt := true } } else s

/-- FENCE qualifies high (13 R315): a stolen band is abandoned and an idle instance gives the token up; the executing command
suspends by COMMAND_SUSPEND, also when the pin falls before it has (R393). -/
def fenceUp (s : State) : State :=
  let s := { s with pow := { s.pow with fence := true }, pair := { s.pair with claim := none } }
  match s.run with
  | some r =>
    if r.stolen.isSome then s.abandonBand r
    else { s with pow := { s.pow with fenceStop := suspends r.op && r.final.isNone && s.pow.state = .run } }
  | none => s.releaseToken

/-- FENCE qualifies low: the instance rejoins in the mode it left (13 R315, R314). -/
def fenceDown (s : State) : State :=
  let p := s.pair
  { s with
    pow := { s.pow with fence := false }
    pair := { p with arrayBarred := p.arrayBarred || (p.partner = PartnerState.solo && p.mode != PairModeKind.solo) } }

/-- A SYNC_IN pulse: the first in D4 acts; every other is counted (R379). -/
def syncPulse (s : State) : State :=
  if s.pow.syncWait then { s with pow := { s.pow with syncWait := false, syncPassed := true } }
  else s.count cSYNCIGN

/-- D4's primary method fails (R377). -/
def syncLate (s : State) : State :=
  if s.pow.state = .dawn && s.pow.step = 4 && (s.pow.syncWait || s.pow.syncPassed) then
    { s with pow := { s.pow with syncWait := false, syncPassed := false, syncFailed := true } }
  else s

/-! ### Resets (R381, 17 R395) -/

/-- What a reset leaves of what is not the block's: the partner's presence, the EN level, the record of transfers, the index of
free values and the waiting commands. -/
def State.keepOutside (s t : State) : State :=
  { t with
    pair := { t.pair with partner := s.pair.partner }
    pow := { t.pow with en := s.pow.en }
    wires := s.wires
    freeIx := s.freeIx
    pending := s.pending }

/-- Dawn begins when a reset is released with EN high. -/
def State.released (s : State) : State := if s.pow.en then s.startDawn else s

/-- Cold reset: every register at its reset value, the Dawn log clear, the straps sampled (R381, 17 R412, R413). -/
def coldReset (s : State) (p : StrapPins) : State :=
  (s.keepOutside { State.reset with straps := p, wrap := { wir := s.wrap.wir } }).released

/-- Warm reset: the same but for the HCLK domain and the straps; a Dawn cut short is recorded (R381, R417). -/
def warmReset (s : State) : State :=
  let cut := s.pow.state = .dawn && !s.pow.failed
  (s.keepOutside { State.reset with
    straps := s.straps, wrap := s.wrap
    dawn := { s.dawn with lastExit := if cut then 3 else s.dawn.lastExit, failed := s.dawn.failed && !cut } }).released

/-! ### Meanings -/

/-- EN_HIGH (16 R382). -/
def execEnHigh (s : State) : Host.Outcome State Fault Refusal := functional s (enRise s)

/-- EN_LOW (16 R382). -/
def execEnLow (s : State) : Host.Outcome State Fault Refusal := functional s (enFall s)

/-- PREEMPT_REQ (16 R391, 13 R326). -/
def execPreemptReq (s : State) : Host.Outcome State Fault Refusal := functional s (preemptEdge s)

/-- FENCE_RISE (13 R315, 16 R393). -/
def execFenceRise (s : State) : Host.Outcome State Fault Refusal := functional s (fenceUp s)

/-- FENCE_FALL (13 R315, 16 R393). -/
def execFenceFall (s : State) : Host.Outcome State Fault Refusal := functional s (fenceDown s)

/-- THROTTLE_CHANGE: the level is reported; its effect is timing (16 R392). -/
def execThrottleChange (level : BitVec 2) (s : State) : Host.Outcome State Fault Refusal :=
  functional s { s with pow := { s.pow with throttle := level } }

/-- SYNC_IN_PULSE (16 R377, R379). -/
def execSyncInPulse (s : State) : Host.Outcome State Fault Refusal := functional s (syncPulse s)

/-- SYNC_TIMEOUT (16 R377). -/
def execSyncTimeout (s : State) : Host.Outcome State Fault Refusal := functional s (syncLate s)

/-- PORESET: cold reset, which ends whatever a wrapper instruction left undefined (16 R381, 17 R413). -/
def execPoreset (p : StrapPins) (s : State) : Host.Outcome State Fault Refusal := .next (coldReset s p)

/-- WRESET: warm reset (16 R381). -/
def execWreset (s : State) : Host.Outcome State Fault Refusal := functional s (warmReset s)

/-- DAWN_SEQUENCE: one Dawn step (16 R384-R387). -/
def execDawnSequence (o : DawnOutcome) (s : State) : Host.Outcome State Fault Refusal := functional s (dawnStep s o)

/-- DUSK_SEQUENCE: one Dusk step (16 R388). -/
def execDuskSequence (s : State) : Host.Outcome State Fault Refusal := functional s (duskStep s)

end Sys2Proof.Machine
end

