-- ==== Sys2Proof/Machine/RegCmds.lean ====
section
/-! DEFINITION. The register-port commands (17 R396, R397; 18 R414-R427). The port answers in every power state,
and also where functional behaviour is undefined (00 R4). -/

namespace Sys2Proof.Machine

open Sys2Proof

/-- What a queue whose enable has fallen still waits for arrives unnoticed (12 R275, R277). -/
def State.dropStopped (s t : State) : State :=
  allQ.foldl (fun t q => if (s.queue q).enable && !(t.queue q).enable then t.dropReads (ownFetch q) else t) t

/-- A register-port write, with what follows when it stops a queue. -/
def State.regPort (s : State) (a : BitVec 16) (v : Word) : State := s.dropStopped (portWrite s a v)

/-- Address of the register at offset `o` of queue `q` (18 R420). -/
def queueAddr (q : BitVec 2) (o : Nat) : BitVec 16 := BitVec.ofNat 16 (0x0800 + 0x100 * q.toNat + o)

/-- DOORBELL: a write to Qn_TAIL (12 R274, R275). -/
def execDoorbell (q : BitVec 2) (v : Word) (s : State) : Host.Outcome State Fault Refusal :=
  .next (s.regPort (queueAddr q 0x08) v)

/-- REPLY_TAIL_WRITE (12 R274, R280). -/
def execReplyTailWrite (v : Word) (s : State) : Host.Outcome State Fault Refusal := .next (s.regPort 0x0C08 v)

/-- QUEUE_ENABLE_WRITE: a write to Qn_CTRL (12 R277, R444). -/
def execQueueEnableWrite (q : BitVec 2) (v : Word) (s : State) : Host.Outcome State Fault Refusal :=
  .next (s.regPort (queueAddr q 0x10) v)

/-- NUM_CFG_WRITE (18 R421, R422; 03 R68). -/
def execNumCfgWrite (v : Word) (s : State) : Host.Outcome State Fault Refusal := .next (s.regPort 0x1000 v)

/-- TRAP_RECORD_CLEAR: a write to TRAP_REC0 (03 R92). -/
def execTrapRecordClear (v : Word) (s : State) : Host.Outcome State Fault Refusal := .next (s.regPort 0x1400 v)

/-- ERR_STATUS_CLEAR (15 R362). -/
def execErrStatusClear (v : Word) (s : State) : Host.Outcome State Fault Refusal := .next (s.regPort 0x2000 v)

/-- ECC_LOG_CLEAR: a write to ECC_LOG0 (15 R363). -/
def execEccLogClear (v : Word) (s : State) : Host.Outcome State Fault Refusal := .next (s.regPort 0x2010 v)

/-- ECC_CE_LOG_READ: a read of ECC_CE_LOG0 (15 R363, 18 R415). -/
def execEccCeLogRead (s : State) : Host.Outcome State Fault Refusal := .next (portRead s 0x2020)

/-- ERR_RECORD_CLEAR: a write to ERR_REC0 (15 R364). -/
def execErrRecordClear (v : Word) (s : State) : Host.Outcome State Fault Refusal := .next (s.regPort 0x2040 v)

/-- PAIR_DIVERGE_CLEAR: a write to PAIR_DIVERGE0 (13 R312). -/
def execPairDivergeClear (v : Word) (s : State) : Host.Outcome State Fault Refusal := .next (s.regPort 0x0444 v)

/-- PAIR_STATUS_CLEAR: a write to PAIR_STATUS (13, 18 R416). -/
def execPairStatusClear (v : Word) (s : State) : Host.Outcome State Fault Refusal := .next (s.regPort 0x0440 v)

/-- CTX_LOG_READ: a read of CTX_LOG (13 R333, 18 R415). -/
def execCtxLogRead (s : State) : Host.Outcome State Fault Refusal := .next (portRead s 0x0460)

/-- COUNTER_READ: a register-port read; that of a counter's low word loads the snapshot (18 R423). -/
def execCounterRead (addr : BitVec 16) (s : State) : Host.Outcome State Fault Refusal := .next (portRead s addr)

/-- COUNTER_CLEAR: a write to a counter's high word (18 R423). -/
def execCounterClear (addr : BitVec 16) (v : Word) (s : State) : Host.Outcome State Fault Refusal :=
  .next (s.regPort addr v)

/-- CLEAR_ALL: a write to CNT_CTRL (18 R424). -/
def execClearAll (v : Word) (s : State) : Host.Outcome State Fault Refusal := .next (s.regPort 0x1800 v)

/-- DBG_SEL_WRITE (18 R419). -/
def execDbgSelWrite (v : Word) (s : State) : Host.Outcome State Fault Refusal := .next (s.regPort 0x0480 v)

/-- ROTATE: a write to LANE_MAP (15 R370). -/
def execRotate (v : Word) (s : State) : Host.Outcome State Fault Refusal := .next (s.regPort 0x3800 v)

/-- FORGET: a write to DAWN_LOG_CTRL (16 R387). -/
def execForget (v : Word) (s : State) : Host.Outcome State Fault Refusal := .next (s.regPort 0x3040 v)

/-- REGISTER_WRITE: a write to any register, field by field (18 R414, R415). -/
def execRegisterWrite (addr : BitVec 16) (v : Word) (s : State) : Host.Outcome State Fault Refusal :=
  .next (s.regPort addr v)

end Sys2Proof.Machine
end

