-- ==== Sys2Proof/Machine/Wrapper.lean ====
section
/-! DEFINITION. The IEEE 1500 wrapper (17 R413). These rows run in every state. -/

namespace Sys2Proof.Machine

open Sys2Proof

/-- Update the wrapper instruction register. After an instruction other than WS_BYPASS functional behaviour is undefined until
PORESET_N. -/
def State.updateWir (s : State) (code : BitVec 8) : State :=
  { s with wrap := { s.wrap with wir := code, undefinedUntilCold := s.wrap.undefinedUntilCold || code != 0 } }

/-- WRAPPER_RESET: WRSTN low holds the wrapper at WS_BYPASS. -/
def execWrapperReset (s : State) : Host.Outcome State Fault Refusal := .next (s.updateWir 0x00)

/-- WS_BYPASS. -/
def execWsBypass (s : State) : Host.Outcome State Fault Refusal := .next (s.updateWir 0x00)

/-- WS_EXTEST. -/
def execWsExtest (s : State) : Host.Outcome State Fault Refusal := .next (s.updateWir 0x01)

/-- WS_INTEST. -/
def execWsIntest (s : State) : Host.Outcome State Fault Refusal := .next (s.updateWir 0x02)

/-- MBIST_RUN: the march test starts. -/
def execMbistRun (s : State) : Host.Outcome State Fault Refusal :=
  .next { s.updateWir 0x10 with wrap := { (s.updateWir 0x10).wrap with mbistBusy := true } }

/-- MBIST_RESULT: the result register is selected. -/
def execMbistResult (s : State) : Host.Outcome State Fault Refusal := .next (s.updateWir 0x11)

/-- The result register after a march test. -/
def mbistWord (fail : Bool) (memory : BitVec 6) (addr : BitVec 56) : BitVec 64 :=
  BitVec.ofNat 64 (1 <<< 63 + (if fail then 1 <<< 62 else 0) + memory.toNat <<< 56 + addr.toNat)

/-- MBIST_DONE: the march test that MBIST_RUN started ends. -/
def execMbistDone (fail : Bool) (memory : BitVec 6) (addr : BitVec 56) (s : State) : Host.Outcome State Fault Refusal :=
  .next (if s.wrap.mbistBusy then
    { s with wrap := { s.wrap with mbistBusy := false, mbistResult := mbistWord fail memory addr } } else s)

end Sys2Proof.Machine
end

