-- ==== Sys2Proof/Machine/Dispatch.lean ====
section
/-! DEFINITION. One arm per row of the opcode table: each is one call of its meaning. -/

namespace Sys2Proof.Machine

open Sys2Proof

/-- The effect of a command on everything but the queue of waiting commands. -/
def exec (i : Instr) (s : State) : Host.Outcome State Fault Refusal :=
  match i with
  | .nop => Sys2Proof.Machine.execNop s
  | .config => Sys2Proof.Machine.execConfig s
  | .chainLoad => Sys2Proof.Machine.execChainLoad s
  | .chainRun m => Sys2Proof.Machine.execChainRun m s
  | .productRun m => Sys2Proof.Machine.execProductRun m s
  | .linkRun m => Sys2Proof.Machine.execLinkRun m s
  | .quantize m => Sys2Proof.Machine.execQuantize m s
  | .copy m => Sys2Proof.Machine.execCopy m s
  | .partialExport m => Sys2Proof.Machine.execPartialExport m s
  | .partialMerge m => Sys2Proof.Machine.execPartialMerge m s
  | .seal => Sys2Proof.Machine.execSeal s
  | .fence => Sys2Proof.Machine.execFence s
  | .pairMode => Sys2Proof.Machine.execPairMode s
  | .resume => Sys2Proof.Machine.execResume s
  | .abort => Sys2Proof.Machine.execAbort s
  | .ctxSave ecc => Sys2Proof.Machine.execCtxSave s ecc
  | .ctxRestore => Sys2Proof.Machine.execCtxRestore s
  | .query => Sys2Proof.Machine.execQuery s
  | .dusk => Sys2Proof.Machine.execDusk s
  | .dawn => Sys2Proof.Machine.execDawn s
  | .doorbell q v => Sys2Proof.Machine.execDoorbell q v s
  | .replyTailWrite v => Sys2Proof.Machine.execReplyTailWrite v s
  | .queueEnableWrite q v => Sys2Proof.Machine.execQueueEnableWrite q v s
  | .numCfgWrite v => Sys2Proof.Machine.execNumCfgWrite v s
  | .trapRecordClear v => Sys2Proof.Machine.execTrapRecordClear v s
  | .errStatusClear v => Sys2Proof.Machine.execErrStatusClear v s
  | .eccLogClear v => Sys2Proof.Machine.execEccLogClear v s
  | .eccCeLogRead => Sys2Proof.Machine.execEccCeLogRead s
  | .errRecordClear v => Sys2Proof.Machine.execErrRecordClear v s
  | .pairDivergeClear v => Sys2Proof.Machine.execPairDivergeClear v s
  | .pairStatusClear v => Sys2Proof.Machine.execPairStatusClear v s
  | .ctxLogRead => Sys2Proof.Machine.execCtxLogRead s
  | .counterRead addr => Sys2Proof.Machine.execCounterRead addr s
  | .counterClear addr v => Sys2Proof.Machine.execCounterClear addr v s
  | .clearAll v => Sys2Proof.Machine.execClearAll v s
  | .dbgSelWrite v => Sys2Proof.Machine.execDbgSelWrite v s
  | .debugCapture e => Sys2Proof.Machine.execDebugCapture e s
  | .rotate v => Sys2Proof.Machine.execRotate v s
  | .laneRotation => Sys2Proof.Machine.execLaneRotation s
  | .forget v => Sys2Proof.Machine.execForget v s
  | .registerWrite addr v => Sys2Proof.Machine.execRegisterWrite addr v s
  | .packetFetch q => Sys2Proof.Machine.execPacketFetch q s
  | .commandBegin => Sys2Proof.Machine.execCommandBegin s
  | .commandResume => Sys2Proof.Machine.execCommandResume s
  | .commandSuspend ecc => Sys2Proof.Machine.execCommandSuspend s ecc
  | .tileCommit m => Sys2Proof.Machine.execTileCommit m s
  | .replyWrite => Sys2Proof.Machine.execReplyWrite s
  | .fenceSatisfied q => Sys2Proof.Machine.execFenceSatisfied q s
  | .pairModeJoin mode ecc => Sys2Proof.Machine.execPairModeJoin mode s ecc
  | .pairModeTimeout => Sys2Proof.Machine.execPairModeTimeout s
  | .tokenHandover => Sys2Proof.Machine.execTokenHandover s
  | .pairTokenSignal tok gnt => Sys2Proof.Machine.execPairTokenSignal tok gnt s
  | .memReadData tag idx data check info poison => Sys2Proof.Machine.execMemReadData tag idx data check info poison s
  | .writeResponse tag => Sys2Proof.Machine.execWriteResponse tag s
  | .atpResponse id pa size fault => Sys2Proof.Machine.execAtpResponse id pa size fault s
  | .mxaDrainBeat hdr data m => Sys2Proof.Machine.execMxaDrainBeat hdr data m s
  | .pairDataBeat data sb => Sys2Proof.Machine.execPairDataBeat data sb s
  | .pairCredit => Sys2Proof.Machine.execPairCredit s
  | .pairCheck chk => Sys2Proof.Machine.execPairCheck chk s
  | .lockstepCheckTimeout => Sys2Proof.Machine.execLockstepCheckTimeout s
  | .pairAliveChange p => Sys2Proof.Machine.execPairAliveChange p s
  | .bandSteal o => Sys2Proof.Machine.execBandSteal o s
  | .stealClaim band => Sys2Proof.Machine.execStealClaim band s
  | .stealBandDone r => Sys2Proof.Machine.execStealBandDone r s
  | .scrubUnit hits => Sys2Proof.Machine.execScrubUnit hits s
  | .scrubWriteback => Sys2Proof.Machine.execScrubWriteback s
  | .scrubStarvationGrant bank wb hits => Sys2Proof.Machine.execScrubStarvationGrant bank wb s hits
  | .backgroundAgePromote => Sys2Proof.Machine.execBackgroundAgePromote s
  | .calibrationTrim ok roCount droop ro => Sys2Proof.Machine.execCalibrationTrim ok roCount droop ro s
  | .droopEvent => Sys2Proof.Machine.execDroopEvent s
  | .starlogRecord x => Sys2Proof.Machine.execStarlogRecord x s
  | .starlogRecordWrite => Sys2Proof.Machine.execStarlogRecordWrite s
  | .enHigh => Sys2Proof.Machine.execEnHigh s
  | .enLow => Sys2Proof.Machine.execEnLow s
  | .preemptReq => Sys2Proof.Machine.execPreemptReq s
  | .fenceRise => Sys2Proof.Machine.execFenceRise s
  | .fenceFall => Sys2Proof.Machine.execFenceFall s
  | .throttleChange level => Sys2Proof.Machine.execThrottleChange level s
  | .syncInPulse => Sys2Proof.Machine.execSyncInPulse s
  | .syncTimeout => Sys2Proof.Machine.execSyncTimeout s
  | .poreset p => Sys2Proof.Machine.execPoreset p s
  | .wreset => Sys2Proof.Machine.execWreset s
  | .dawnSequence o => Sys2Proof.Machine.execDawnSequence o s
  | .duskSequence => Sys2Proof.Machine.execDuskSequence s
  | .wrapperReset => Sys2Proof.Machine.execWrapperReset s
  | .wsBypass => Sys2Proof.Machine.execWsBypass s
  | .wsExtest => Sys2Proof.Machine.execWsExtest s
  | .wsIntest => Sys2Proof.Machine.execWsIntest s
  | .mbistRun => Sys2Proof.Machine.execMbistRun s
  | .mbistResult => Sys2Proof.Machine.execMbistResult s
  | .mbistDone fail memory addr => Sys2Proof.Machine.execMbistDone fail memory addr s

end Sys2Proof.Machine
end

