-- ==== Sys2Proof/WellFormed.lean ====
section
/-! DEFINITION. Which commands and events can occur at all: operands within the ranges that the ports and the records give. -/

namespace Sys2Proof

/-- Corrected positions lie in the 80-bit codeword (15 R355). -/
def EccKind.wf : EccKind → Bool
  | .corrected p none => decide (p.toNat < 80)
  | .corrected p (some q) => decide (p.toNat < q.toNat) && decide (q.toNat < 80)
  | .uncorrectable _ => true

/-- Storage code 7 and requester codes 6 and 7 are reserved (15 R363). -/
def EccHit.wf (h : EccHit) : Bool := decide (h.storage ≠ 7) && decide (h.requester.toNat ≤ 5) && h.kind.wf

/-- A scrub hit's code. -/
def ScrubHit.wf (h : ScrubHit) : Bool := h.kind.wf

/-- Each retry unit fails its first evaluation, or that and its rerun, and is named once (15 R353, R354). -/
def Mishap.wf (m : Mishap) : Bool :=
  ((m.residue.zip (m.residue.drop 1)).all fun p => decide (p.1.unit < p.2.unit)) && m.ecc.all EccHit.wf

/-- D6 names one of 33 physical columns (01 R24, 16 R386). -/
def DawnOutcome.wf (o : DawnOutcome) : Bool :=
  match o.failedColumn with
  | some c => decide (c.toNat ≤ 32)
  | none => true

/-- Only a CHAIN_RUN or a LINK_RUN is offered; a program identifier is 0x00 to 0x1F, 0x3F where there is none (13 R316,
04 R122). -/
def StealOffer.wf (o : StealOffer) : Bool :=
  (decide (o.opcode = 0x03) || decide (o.opcode = 0x05)) && (decide (o.prog.toNat < 32) || decide (o.prog = 0x3F))

/-- Counter slots that exist and may rise with a band, fields of an S register (13 R318, 18 R425, 01 R16). -/
def StealReport.wf (r : StealReport) : Bool :=
  r.counts.all (fun c => decide (c.1.toNat < 65) && decide (c.1 ≠ 13)) && r.sdata.all (fun x => decide (x.2.2.1.toNat < 5))

/-- The high word of a counter (18 R423, R425). -/
def counterHigh (a : BitVec 16) : Bool :=
  decide (0x1880 ≤ a.toNat) && decide (a.toNat < 0x1A98) && decide (a.toNat % 8 = 4)

/-- A pair beat's kind is 0 to 6 (17 R406, log 10). -/
def pairKindWf (sb : BitVec 112) : Bool := decide ((sb.extractLsb' 108 4).toNat ≤ 6)

/-- The command or event can occur. -/
def Instr.wf : Instr → Bool
  | .chainRun m | .productRun m | .linkRun m | .quantize m | .copy m | .partialExport m | .partialMerge m | .tileCommit m => m.wf
  | .mxaDrainBeat _ _ m => m.wf
  | .ctxSave e | .commandSuspend e => e.all EccHit.wf
  | .counterClear a _ => counterHigh a
  | .debugCapture (some e) => e.wf
  | .pairModeJoin mode e => decide (mode.toNat ≤ 1) && e.all EccHit.wf
  | .pairDataBeat _ sb => pairKindWf sb
  | .bandSteal o => o.wf
  | .stealBandDone r => r.wf
  | .scrubUnit hits | .scrubStarvationGrant _ _ hits => hits.all ScrubHit.wf
  | .dawnSequence o => o.wf
  | .nop | .config | .chainLoad | .seal | .fence | .pairMode | .resume | .abort | .ctxRestore | .query | .dusk
  | .dawn | .doorbell .. | .replyTailWrite _ | .queueEnableWrite .. | .numCfgWrite _ | .trapRecordClear _
  | .errStatusClear _ | .eccLogClear _ | .eccCeLogRead | .errRecordClear _ | .pairDivergeClear _ | .pairStatusClear _
  | .ctxLogRead | .counterRead _ | .clearAll _ | .dbgSelWrite _ | .debugCapture none | .rotate _ | .laneRotation | .forget _
  | .registerWrite .. | .packetFetch _ | .commandBegin | .commandResume | .replyWrite
  | .fenceSatisfied _ | .pairModeTimeout | .tokenHandover | .pairTokenSignal .. | .memReadData .. | .writeResponse _
  | .atpResponse .. | .pairCredit | .pairCheck _ | .lockstepCheckTimeout | .pairAliveChange _ | .stealClaim _
  | .scrubWriteback | .backgroundAgePromote | .calibrationTrim .. | .droopEvent
  | .starlogRecord _ | .starlogRecordWrite | .enHigh | .enLow | .preemptReq | .fenceRise | .fenceFall | .throttleChange _
  | .syncInPulse | .syncTimeout | .poreset _ | .wreset | .duskSequence | .wrapperReset | .wsBypass | .wsExtest | .wsIntest
  | .mbistRun | .mbistResult | .mbistDone .. => true

end Sys2Proof
end

