-- ==== Sys2Proof/Safety.lean ====
section
/-! DEFINITION. What claims about the block speak of: the well-formed states, the functional state, and how a command ends. -/

namespace Sys2Proof

/-- A row of the wrapper's own port, which runs in every state (17 R413). -/
def Instr.isWrapper (c : Instr) : Bool :=
  match c with
  | .wrapperReset | .wsBypass | .wsExtest | .wsIntest | .mbistRun | .mbistResult | .mbistDone .. => true
  | _ => false

/-- A row of the register port, which answers in every state (00 R4, 17 R397). -/
def Instr.isRegPort (c : Instr) : Bool :=
  match c with
  | .doorbell .. | .replyTailWrite _ | .queueEnableWrite .. | .numCfgWrite _ | .trapRecordClear _ | .errStatusClear _ | .eccLogClear _
  | .eccCeLogRead | .errRecordClear _ | .pairDivergeClear _ | .pairStatusClear _ | .ctxLogRead | .counterRead _ | .counterClear ..
  | .clearAll _ | .dbgSelWrite _ | .rotate _ | .forget _ | .registerWrite .. => true
  | _ => false

/-- The cold reset. -/
def Instr.isCold (c : Instr) : Bool :=
  match c with
  | .poreset _ => true
  | _ => false

end Sys2Proof

namespace Sys2Proof.Machine

open Sys2Proof

/-- The block's functional behaviour is defined (17 R413). -/
def State.Live (s : State) : Prop := s.wrap.undefinedUntilCold = false

/-- Every storage is in its canonical form: rising keys, and no entry equal to what an unlisted key reads as. -/
structure Arch.Canonical (a : Arch) : Prop where
  trf : sparseWf {} a.trf = true
  masks : sparseWf {} a.masks = true
  sregs : sparseWf {} a.sregs = true
  was : sparseWf {} a.was = true
  granules : sparseWf 0 a.granules = true

/-- Counters are canonical and none is above 0xFF_FFFF_FFFF (00 R9). -/
structure Counters.Ok (c : Counters) : Prop where
  vals : sparseWf 0 c.vals = true
  snaps : sparseWf 0 c.snaps = true
  bounded : ∀ k, c.value k ≤ counterMax

/-- NUM_CFG: reserved bits read as zero, and no rounding field holds 7 (03 R68, 18 R421, R422). -/
structure NumRegs.Ok (n : NumRegs) : Prop where
  low : n.numCfg.extractLsb' 0 2 = 0
  high : n.numCfg.extractLsb' 21 11 = 0
  act : n.numCfg.extractLsb' 9 3 ≠ 7
  weight : n.numCfg.extractLsb' 12 3 ≠ 7
  grad : n.numCfg.extractLsb' 15 3 ≠ 7
  state : n.numCfg.extractLsb' 18 3 ≠ 7

/-- A queue's window holds at most 256 tags, and its ring's size is legal (12 R273, R297). -/
structure Queue.Ok (x : Queue) : Prop where
  window : x.window.length ≤ 256
  size : x.base.size.toNat ≤ 12

/-- The well-formed states: what every step keeps and every reset establishes. -/
structure State.Ok (s : State) : Prop where
  arch : s.arch.Canonical
  cnt : s.cnt.Ok
  num : s.num.Ok
  q0 : s.queues.q0.Ok
  q1 : s.queues.q1.Ok
  q2 : s.queues.q2.Ok
  q3 : s.queues.q3.Ok
  reply : s.ring.base.size.toNat ≤ 12
  starRing : s.star.base.size.toNat ≤ 12
  starPeriod : 500 ≤ s.star.period.toNat
  calPeriod : 5000 ≤ s.cal.period.toNat
  scrubInterval : 16 ≤ s.night.interval.toNat
  scrubPos : s.night.pos.toNat < scrubUnits
  dawnSteps : sparseWf {} s.dawn.steps = true
  starved : sparseWf 0 s.night.starved = true

/-- `r` is the executing command and a command of this twin's own, of opcode `op`: no mirrored one (13 R310), no stolen band (13 R317), and
not at its end with a reply that waits its turn (log 40). -/
structure State.Runs (s : State) (r : Running) (op : Nat) : Prop where
  run : s.run = some r
  op : r.op = op
  own : r.mirror = false
  whole : r.stolen = none
  works : r.final = none

/-- Raise each counter of a list once. -/
def Counters.raiseEach (c : Counters) (ks : List Nat) : Counters := ks.foldl (fun c k => c.raise k 1) c

/-- The executing command `r` has ended and says `x` (12 R278, R304). Where no other reply waits, or the command is mirrored, nothing
executes and its reply waits; else it stands at the end of its work with that reply until its turn (log 40). The counters `ks` rose by one each, and STEALS_ABORTED by the bands that the partner still had (13 R319); the pre-emption and
fence latches are spent (16 R391, R393). Every storage, every configuration, record and log register, every queue, the clocks, straps, wrapper and the
commands that wait are as they were. -/
structure State.EndedWith (s : State) (r : Running) (t : State) (x : Say) (ks : List Nat) : Prop where
  run : t.run = if r.mirror || s.ring.waiting.isEmpty then none
    else some { (s.recallBands r).2 with stage := .done, final := some (r.reply x) }
  ring : t.ring = if r.mirror || s.ring.waiting.isEmpty then { s.ring with waiting := s.ring.waiting ++ [r.reply x] } else s.ring
  cnt : t.cnt = (if r.claimed.isEmpty then s.cnt else s.cnt.raise cSTEALAB r.claimed.length).raiseEach ks
  pow : t.pow = { s.pow with preempt := s.pow.preemptKeep, preemptKeep := false, fenceStop := false }
  mode : t.pair.mode = s.pair.mode
  arch : t.arch = s.arch
  num : t.num = s.num
  queues : t.queues = s.queues
  trap : t.trap = s.trap
  err : t.err = s.err
  night : t.night = s.night
  star : t.star = s.star
  cal : t.cal = s.cal
  dawn : t.dawn = s.dawn
  clk : t.clk = s.clk
  dbg : t.dbg = s.dbg
  straps : t.straps = s.straps
  wrap : t.wrap = s.wrap
  freeIx : t.freeIx = s.freeIx
  pending : t.pending = s.pending

end Sys2Proof.Machine
end

