-- ==== Sys2Proof/Certificates/Slice0/Obligations.lean ====
section
/-! DEFINITION. What is claimed of the block, for the provers. -/

open Sys2Proof Sys2Proof.Machine

/-! ### Commands, the queue and the functional state -/

/-- The model's queue (log 3): a step runs the front command on the state with the queue's rest, and idles on an empty queue. -/
def Obligations.StepRunsFrontCommand : Prop :=
  ∀ s : State, (s.pending = [] → step s = .next s) ∧
    ∀ c rest, s.pending = c :: rest → step s = exec c { s with pending := rest }

/-- Log 3: the queue of waiting commands belongs to `step`. -/
def Obligations.ExecLeavesQueue : Prop :=
  ∀ c s t, exec c s = .next t → t.pending = s.pending

/-- 17 R413, 00 R4: after EXTEST, INTEST or MBIST functional rows stop until a cold reset, but the register port goes on answering: the Dawn
log keeps its contents and reads as it stands, every other register reads as a value that nothing fixes, and a write changes nothing. In
every other state every row answers.
Of this, the stop itself, and what the port answers then, are the model's choice (log 46). -/
def Obligations.FunctionalRowsAnswerWhileLive : Prop :=
  (∀ c s, (s.Live ∨ c.isWrapper = true ∨ c.isCold = true ∨ c.isRegPort = true → ∃ t, exec c s = .next t) ∧
    (¬s.Live → c.isWrapper = false → c.isCold = false → c.isRegPort = false → exec c s = .fault .functionalUndefined)) ∧
  ∀ (s : State) (a : BitVec 16) (v : Word), ¬s.Live → a.toNat % 4 = 0 →
    exec (.registerWrite a v) s = .next { s with wires := .reg 0 false :: s.wires } ∧
    exec (.counterRead a) s = .next (if 0x3000 ≤ a.toNat ∧ a.toNat ≤ 0x3034 then { s with wires := .reg (regRead s a.toNat) false :: s.wires }
      else { s with freeIx := s.freeIx + 1, wires := .reg (Config.freeRegister s.freeIx) false :: s.wires })

/-- 17 R413: the wrapper's own rows, and the cold reset that ends what they leave undefined.
Of this, that WRAPPER_RESET and WS_BYPASS leave the undefined state standing is the model's reading (log 46), and that MBIST_DONE with no
test running answers the state itself is the model's choice (log 2). -/
def Obligations.WrapperRows : Prop :=
  (∀ s, exec .wrapperReset s = .next { s with wrap := { s.wrap with wir := 0x00 } }) ∧
  (∀ s, exec .wsBypass s = .next { s with wrap := { s.wrap with wir := 0x00 } }) ∧
  (∀ s, exec .wsExtest s = .next { s with wrap := { s.wrap with wir := 0x01, undefinedUntilCold := true } }) ∧
  (∀ s, exec .wsIntest s = .next { s with wrap := { s.wrap with wir := 0x02, undefinedUntilCold := true } }) ∧
  (∀ s, exec .mbistRun s = .next { s with wrap := { s.wrap with wir := 0x10, undefinedUntilCold := true, mbistBusy := true } }) ∧
  (∀ s, exec .mbistResult s = .next { s with wrap := { s.wrap with wir := 0x11, undefinedUntilCold := true } }) ∧
  (∀ s fail memory addr, s.wrap.mbistBusy = true → exec (.mbistDone fail memory addr) s = .next { s with wrap := { s.wrap with
    mbistBusy := false
    mbistResult := BitVec.ofNat 64 (2 ^ 63 + (if fail then 2 ^ 62 else 0) + memory.toNat * 2 ^ 56 + addr.toNat) } }) ∧
  (∀ s fail memory addr, s.wrap.mbistBusy = false → exec (.mbistDone fail memory addr) s = .next s) ∧
  (∀ s p, ∃ t, exec (.poreset p) s = .next t ∧ t.Live)

/-- No row but the wrapper's and the cold reset touches the wrapper (17 R413). -/
def Obligations.FunctionalRowsLeaveWrapper : Prop :=
  ∀ c s t, c.isWrapper = false → c.isCold = false → exec c s = .next t → t.wrap = s.wrap

/-- 17 R412: the straps are sampled at the cold reset only. -/
def Obligations.StrapsChangeOnlyAtColdReset : Prop :=
  (∀ s p, ∃ t, exec (.poreset p) s = .next t ∧ t.straps = p) ∧
  ∀ s t, (∀ p rest, s.pending ≠ .poreset p :: rest) → step s = .next t → t.straps = s.straps

/-- The state after reset is well-formed. -/
def Obligations.ResetStateOk : Prop := State.reset.Ok

/-- Every step keeps the state well-formed: storages canonical, counters saturated at 0xFF_FFFF_FFFF (00 R9), no reserved bit of
NUM_CFG set and no rounding field 7 (18 R421, R422), windows of at most 256 tags (12 R297), rings of a legal size (12 R273), and the
minima of the periods (15 R365, R368, R371). -/
def Obligations.StepKeepsOk : Prop := ∀ s t, s.Ok → step s = .next t → t.Ok

/-! ### The register port -/

/-- 12 R274: the ring registers, and what the doorbell and REPLY_TAIL refuse. A reserved size is in `PlainRegisterWrites`. -/
def Obligations.RingRegisterWrites : Prop :=
  ∀ (s : State) (v : Word), s.Live →
  (∀ q, exec (.doorbell q v) s = .next ((if (v.extractLsb' 0 16).toNat ≥ (s.queue q).base.entries then s.count cCFGIGN
      else s.setQueue q { s.queue q with tail := v.extractLsb' 0 16 }).drive (.reg 0 false))) ∧
  exec (.replyTailWrite v) s = .next ((if (v.extractLsb' 0 16).toNat ≥ s.ring.base.entries then s.count cCFGIGN
      else { s with ring := { s.ring with tail := v.extractLsb' 0 16, irq := s.ring.irq && v.extractLsb' 0 16 != s.ring.head } }).drive
        (.reg 0 false)) ∧
  (∀ q, exec (.registerWrite (queueAddr q 0x00) v) s = .next ((if (s.queue q).enable then s.count cCFGIGN
      else s.setQueue q { s.queue q with base := { (s.queue q).base with lo := v.extractLsb' 12 20 } }).drive (.reg 0 false))) ∧
  (∀ q, (s.queue q).enable = true ∨ (v.extractLsb' 28 4).toNat < 13 →
    exec (.registerWrite (queueAddr q 0x04) v) s = .next ((if (s.queue q).enable then s.count cCFGIGN
      else s.setQueue q { s.queue q with base := { (s.queue q).base with hi := v.extractLsb' 0 20, size := v.extractLsb' 28 4 } }).drive
        (.reg 0 false))) ∧
  exec (.registerWrite 0x0C00 v) s = .next ((if s.anyEnabled then s.count cCFGIGN
      else { s with ring := { s.ring with base := { s.ring.base with lo := v.extractLsb' 12 20 } } }).drive (.reg 0 false)) ∧
  (s.anyEnabled = true ∨ (v.extractLsb' 28 4).toNat < 13 →
    exec (.registerWrite 0x0C04 v) s = .next ((if s.anyEnabled then s.count cCFGIGN
      else { s with ring := { s.ring with base := { s.ring.base with hi := v.extractLsb' 0 20, size := v.extractLsb' 28 4 } } }).drive
        (.reg 0 false)))

/-- 12 R277, R275: enable set lets the queue fetch again; enable cleared stops it, discards the packet that was fetched and not begun, and
leaves what executes or is suspended. A reply that faulted may be retried once a queue is enabled (12 R444). -/
def Obligations.QueueControlWrite : Prop :=
  ∀ (q : BitVec 2) (v : Word) (s : State), s.Live →
  (v.getLsbD 31 = true → exec (.queueEnableWrite q v) s = .next
    ({ s.setQueue q { s.queue q with enable := true, preemptLower := v.getLsbD 30 } with ring := { s.ring with faulted := false } }.drive
      (.reg 0 false))) ∧
  (v.getLsbD 31 = false → (s.queue q).enable = true → exec (.queueEnableWrite q v) s = .next
    (((s.setQueue q { s.queue q with enable := false, preemptLower := v.getLsbD 30, fetch := .idle }).drive (.reg 0 false)).dropReads
      (1 + q.toNat))) ∧
  (v.getLsbD 31 = false → (s.queue q).enable = false → exec (.queueEnableWrite q v) s = .next
    ((s.setQueue q { s.queue q with preemptLower := v.getLsbD 30, fetch := .idle }).drive (.reg 0 false)))

/-- 18 R421, R422: each rounding field takes its new value but 7; bits 8 to 2 take theirs; reserved bits read as zero; one ignored write
is counted when some field held 7. -/
def Obligations.NumCfgWrite : Prop :=
  ∀ (v : Word) (s : State), s.Live → ∃ n : Word,
    exec (.numCfgWrite v) s = .next { s with
      num := { s.num with numCfg := n }
      cnt := if [9, 12, 15, 18].any (fun k => v.extractLsb' k 3 = 7) then s.cnt.raise 24 1 else s.cnt
      wires := .reg 0 false :: s.wires } ∧
    (∀ k ∈ [9, 12, 15, 18], n.extractLsb' k 3 = if v.extractLsb' k 3 = 7 then s.num.numCfg.extractLsb' k 3 else v.extractLsb' k 3) ∧
    n.extractLsb' 2 7 = v.extractLsb' 2 7 ∧ n.extractLsb' 0 2 = 0 ∧ n.extractLsb' 21 11 = 0

/-- 03 R92, 13 R312, 15 R363, R364: writing 1 to the valid bit clears the record; that of the trap record also lets every halted queue
fetch again. Writing 0 leaves it. -/
def Obligations.RecordClears : Prop :=
  ∀ (v : Word) (s : State), s.Live →
  exec (.trapRecordClear v) s = .next { s with
    trap := if v.getLsbD 31 then {} else s.trap
    queues := if v.getLsbD 31 then s.queues.map (fun x => { x with halted := false }) else s.queues
    wires := .reg 0 false :: s.wires } ∧
  exec (.eccLogClear v) s = .next { s with
    err := { s.err with eccLog0 := if v.getLsbD 31 then 0 else s.err.eccLog0 }, wires := .reg 0 false :: s.wires } ∧
  exec (.errRecordClear v) s = .next { s with
    err := { s.err with record := if v.getLsbD 31 then {} else s.err.record }, wires := .reg 0 false :: s.wires } ∧
  exec (.pairDivergeClear v) s = .next { s with
    pair := { s.pair with diverge := if v.getLsbD 31 then {} else s.pair.diverge }, wires := .reg 0 false :: s.wires }

/-- 15 R362, 13 PAIR_STATUS: a bit of the status is cleared by writing 1 to it, and no other bit changes. -/
def Obligations.StatusClears : Prop :=
  ∀ (v : Word) (s : State), s.Live →
  (∃ t, exec (.errStatusClear v) s = .next t ∧
    t = { s with err := { s.err with status := t.err.status }, wires := .reg 0 false :: s.wires } ∧
    ∀ k, k < 13 → t.err.status.getLsbD k = (s.err.status.getLsbD k && !v.getLsbD k)) ∧
  exec (.pairStatusClear v) s = .next { s with
    pair := { s.pair with diverged := s.pair.diverged && !v.getLsbD 7, autoSolo := s.pair.autoSolo && !v.getLsbD 2 }
    wires := .reg 0 false :: s.wires }

/-- 18 R424: a write to CNT_CTRL with bit 0 set clears every counter and every snapshot at once, and nothing else. -/
def Obligations.ClearAllCounters : Prop :=
  ∀ (v : Word) (s : State), s.Live → ∃ t, exec (.clearAll v) s = .next t ∧
    t = { s with cnt := t.cnt, wires := .reg 0 false :: s.wires } ∧
    ∀ k, t.cnt.value k = (if v.getLsbD 0 then 0 else s.cnt.value k) ∧
      sget 0 t.cnt.snaps k = if v.getLsbD 0 then 0 else sget 0 s.cnt.snaps k

/-- 18 R423: one counter is cleared, with its snapshot, through bit 31 of its high word, and no other counter changes. The two stall counters
are first brought up to date together, and a write that clears one leaves it zero.
Of this, when the stall counters are brought up to date is the model's (log 7). -/
def Obligations.CounterClearedAlone : Prop :=
  ∀ (k : Nat) (v : Word) (s : State), s.Live → s.Ok →
  (k < 65 → ∃ t, exec (.counterClear (BitVec.ofNat 16 (0x1880 + 8 * k + 4)) v) s = .next t ∧
      t = { s with cnt := t.cnt, wires := .reg 0 false :: s.wires } ∧
      ∀ j, t.cnt.value j = (if v.getLsbD 31 ∧ j = k then 0 else s.cnt.value j) ∧
        sget 0 t.cnt.snaps j = if v.getLsbD 31 ∧ j = k then 0 else sget 0 s.cnt.snaps j) ∧
  (k = 65 ∨ k = 66 → ∃ t, exec (.counterClear (BitVec.ofNat 16 (0x1880 + 8 * k + 4)) v) s = .next t ∧
      t = { s with cnt := t.cnt, freeIx := t.freeIx, wires := .reg 0 false :: s.wires } ∧
      (v.getLsbD 31 → t.cnt.value k = 0) ∧ (∀ j, j ≠ 65 → j ≠ 66 → t.cnt.value j = s.cnt.value j) ∧
      ∀ j, sget 0 t.cnt.snaps j = if v.getLsbD 31 ∧ j = k then 0 else sget 0 s.cnt.snaps j)

/-- 18 R423, R425: a read of the low word answers bits 31 to 0 and keeps bits 39 to 32, which a read of the high word answers, whatever
the counter has done since; no counter changes. Slot 13 is reserved and reads as zero. The two stall counters read so while nothing can
have stalled since they were brought up to date; a read while something may have raises each by a number that nothing fixes.
Of this, the last sentence is the model's choice (log 7). -/
def Obligations.CounterReads : Prop :=
  ∀ (k : Nat) (s : State), s.Live → s.Ok →
  (k < 65 ∨ (k < 67 ∧ s.run = none ∧ s.dbg.busy = false ∧ s.cnt.stalls = false) →
    (∃ t, exec (.counterRead (BitVec.ofNat 16 (0x1880 + 8 * k))) s = .next t ∧
      t = { s with cnt := t.cnt, wires := t.wires } ∧ t.cnt.vals = s.cnt.vals ∧
      t.wires = .reg (BitVec.ofNat 32 (if k = 13 then 0 else s.cnt.value k)) false :: s.wires ∧
      ∀ j, sget 0 t.cnt.snaps j = if j = k then (if k = 13 then 0 else s.cnt.value k) / 2 ^ 32 else sget 0 s.cnt.snaps j) ∧
    exec (.counterRead (BitVec.ofNat 16 (0x1880 + 8 * k + 4))) s = .next
      { s with wires := .reg (BitVec.ofNat 32 (sget 0 s.cnt.snaps k)) false :: s.wires }) ∧
  (k = 65 ∨ k = 66 → s.run ≠ none ∨ s.dbg.busy = true → ∃ t, exec (.counterRead (BitVec.ofNat 16 (0x1880 + 8 * k))) s = .next t ∧
    t = { s with cnt := t.cnt, wires := t.wires, freeIx := s.freeIx + 1 } ∧
    t.wires = .reg (BitVec.ofNat 32 (t.cnt.value k)) false :: s.wires ∧ sget 0 t.cnt.snaps k = t.cnt.value k / 2 ^ 32 ∧
    t.cnt.value 65 = Nat.min 0xFFFFFFFFFF (s.cnt.value 65 + (Config.freeStallCount (2 * s.freeIx)).toNat) ∧
    t.cnt.value 66 = Nat.min 0xFFFFFFFFFF (s.cnt.value 66 + (Config.freeStallCount (2 * s.freeIx + 1)).toNat) ∧
    ∀ j, j ≠ 65 → j ≠ 66 → t.cnt.value j = s.cnt.value j)

/-- 13 R333, 15 R363, 18 R415: the reads that clear what they answer: CTX_LOG whole, and the valid bit of ECC_CE_LOG0. -/
def Obligations.ReadsThatClear : Prop :=
  ∀ (s : State), s.Live →
  exec .ctxLogRead s = .next { s with
    pair := { s.pair with ctxReason := 0 }, wires := .reg (BitVec.ofNat 32 s.pair.ctxReason.toNat) false :: s.wires } ∧
  exec .eccCeLogRead s = .next { s with
    err := { s.err with eccCe0 := s.err.eccCe0 &&& 0x7FFFFFFF }, wires := .reg s.err.eccCe0 false :: s.wires }

/-- 18 R419, 15 R356, R357: a write to DBG_SEL starts a capture and is ignored while one is pending; the capture reads half a word of the row,
or of its tag, and nothing of the row changes. A corrected word is captured corrected; an uncorrectable word of a row is captured as read and
poisons its row; both are counted and reported. A register above 95, or a tag word above 1, captures zero.
Of this, a capture is a row (log 43), and with none pending that row answers the state itself (log 2). -/
def Obligations.DebugCaptures : Prop :=
  ∀ (s : State), s.Live →
  (∀ v, s.dbg.busy = true → exec (.dbgSelWrite v) s = .next { s with cnt := s.cnt.raise 24 1, wires := .reg 0 false :: s.wires }) ∧
  (∀ v, s.dbg.busy = false → exec (.dbgSelWrite v) s = .next { s with
    dbg := { s.dbg with busy := true, tag := v.getLsbD 30, register := v.extractLsb' 23 7, row := v.extractLsb' 18 5, word := v.extractLsb' 0 5 }
    cnt := { s.cnt with stalls := true }
    wires := .reg 0 false :: s.wires }) ∧
  (s.dbg.busy = false → exec (.debugCapture none) s = .next s) ∧
  (s.dbg.busy = true → s.pow.state ≠ .off →
    (s.dbg.tag = false → s.dbg.register.toNat < 96 → exec (.debugCapture none) s = .next { s with dbg := { s.dbg with
      busy := false, poison := false
      data := BitVec.ofNat 32 ((s.arch.row s.dbg.register.toNat s.dbg.row.toNat).bytes / 2 ^ (32 * s.dbg.word.toNat)) } }) ∧
    (s.dbg.tag = true → s.dbg.register.toNat < 96 → s.dbg.word.toNat < 2 → exec (.debugCapture none) s = .next { s with dbg := { s.dbg with
      busy := false, poison := false
      data := BitVec.ofNat 32 ((s.arch.row s.dbg.register.toNat s.dbg.row.toNat).tag.asBits.toNat / 2 ^ (32 * s.dbg.word.toNat)) } }) ∧
    (∀ p0 p1, s.dbg.tag = false → s.dbg.register.toNat < 96 → ∃ t, exec (.debugCapture (some (.corrected p0 p1))) s = .next t ∧
      t.dbg = { s.dbg with
        busy := false, poison := false
        data := BitVec.ofNat 32 ((s.arch.row s.dbg.register.toNat s.dbg.row.toNat).bytes / 2 ^ (32 * s.dbg.word.toNat)) } ∧
      t.arch = s.arch ∧ t.cnt = s.cnt.raise 55 1 ∧ t.err.status = s.err.status ||| 1 ∧ t.run = s.run ∧ t.queues = s.queues) ∧
    (∀ v, s.dbg.tag = false → s.dbg.register.toNat < 96 → ∃ t, exec (.debugCapture (some (.uncorrectable v))) s = .next t ∧
      t.dbg = { s.dbg with busy := false, poison := true, data := v.extractLsb' (32 * (s.dbg.word.toNat % 2)) 32 } ∧
      t.arch = s.arch.poisonWord 0 (16 * (32 * s.dbg.register.toNat + s.dbg.row.toNat) + s.dbg.word.toNat / 2) v ∧
      t.cnt = s.cnt.raise 56 1 ∧ t.err.status = s.err.status ||| 2 ∧ t.run = s.run ∧ t.queues = s.queues) ∧
    (∀ e, 96 ≤ s.dbg.register.toNat ∨ (s.dbg.tag = true ∧ 2 ≤ s.dbg.word.toNat) → exec (.debugCapture e) s = .next { s with dbg := { s.dbg with
      busy := false, poison := false, data := 0 } }))

/-- 15 R370, 01 R25, 16 R386, R387: a rotation is requested, waits while a command executes, and then moves the spare column, unless a column
has been pinned since, which drops the request; FORGET clears the marks of all ten steps and the pinned column, and nothing else.
Of this, that a pinned column takes no request and drops one is the model's reading (log 37), and with none due the row answers the state
itself (log 2). -/
def Obligations.LaneRotationAndForget : Prop :=
  ∀ (s : State), s.Live →
  (∀ v, exec (.rotate v) s = .next { s with
    cal := { s.cal with rotPending := s.cal.rotPending || v.getLsbD 8 && s.dawn.pinned = 0x3F }, wires := .reg 0 false :: s.wires }) ∧
  (s.cal.rotPending = true → s.run = none → s.pow.state = .run → s.dawn.pinned = 0x3F → exec .laneRotation s = .next { s with
    cal := { s.cal with rotPending := false, spare := BitVec.ofNat 6 ((s.cal.spare.toNat + 1) % 33) }, cnt := s.cnt.raise 60 1 }) ∧
  (s.cal.rotPending = true → s.run = none → s.pow.state = .run → s.dawn.pinned ≠ 0x3F → exec .laneRotation s = .next { s with
    cal := { s.cal with rotPending := false } }) ∧
  (s.cal.rotPending = false ∨ s.run ≠ none → exec .laneRotation s = .next s) ∧
  (∀ v : Word, v.getLsbD 0 = false → exec (.forget v) s = .next { s with wires := .reg 0 false :: s.wires }) ∧
  (∀ v : Word, v.getLsbD 0 = true → s.Ok → ∃ t, exec (.forget v) s = .next t ∧
    t = { s with dawn := { s.dawn with pinned := 0x3F, steps := t.dawn.steps }, wires := .reg 0 false :: s.wires } ∧
    ∀ k, k < 10 → sget {} t.dawn.steps k = { sget {} s.dawn.steps k with marked := false })

/-- 18 R414, R415, 00 R10, 17 R396: registers sit at multiples of 4; an address that no table assigns reads as zero and ignores writes, and
such a write counts nothing. A request at an address that is no multiple of 4 writes nothing, reads zero and answers with an error (R396).
An assigned register answers the fields it holds, its reserved bits as zero, and keeps them. The first pairs are the first and the last
register of each run of addresses that chapter 18 assigns. -/
def Obligations.PortAddressRules : Prop :=
  ∀ (s : State) (a : BitVec 16) (v : Word), s.Live →
  (a.toNat % 4 ≠ 0 →
    exec (.registerWrite a v) s = .next { s with wires := .reg 0 true :: s.wires } ∧
    exec (.counterRead a) s = .next { s with wires := .reg 0 true :: s.wires }) ∧
  (a.toNat % 4 = 0 →
    (∀ p ∈ ([(0x0000, 0x0044), (0x0400, 0x0404), (0x0410, 0x041C), (0x0440, 0x0454), (0x0460, 0x0460), (0x0480, 0x0484),
        (0x0800, 0x0818), (0x0900, 0x0918), (0x0A00, 0x0A18), (0x0B00, 0x0B18), (0x0C00, 0x0C0C), (0x1000, 0x1008),
        (0x1010, 0x1018), (0x1020, 0x1024), (0x1400, 0x1410), (0x1800, 0x1800), (0x1880, 0x1A94), (0x2000, 0x2004),
        (0x2010, 0x2010), (0x2020, 0x2024), (0x2040, 0x2050), (0x2080, 0x2084), (0x2800, 0x2810), (0x3000, 0x3004),
        (0x3010, 0x3034), (0x3040, 0x3040), (0x3080, 0x3084), (0x3800, 0x3800), (0x3810, 0x3814)] : List (Nat × Nat)),
      a.toNat < p.1 ∨ p.2 < a.toNat) →
    exec (.registerWrite a v) s = .next { s with wires := .reg 0 false :: s.wires } ∧
    exec (.counterRead a) s = .next { s with wires := .reg 0 false :: s.wires }) ∧
  (∀ x : Word,
    (a, x) ∈ ([(0x0000, 0x5542D703), (0x0004, 0x00030100),
      (0x000C, 0#19 ++ BitVec.ofBool s.straps.twinSide ++ s.straps.instanceId),
      (0x0400, 0#20 ++ BitVec.ofBool s.pow.failed ++ BitVec.ofBool s.pow.wakeLatched ++ BitVec.ofBool s.pow.sleepLatched ++
        BitVec.ofBool s.pow.fence ++ s.pow.step ++ 0#2 ++ BitVec.ofNat 2 s.pow.state.code),
      (0x0440, 0#24 ++ BitVec.ofBool s.pair.diverged ++ BitVec.ofBool s.pair.partnerFailed ++ BitVec.ofBool s.pair.arrayBarred ++
        BitVec.ofBool s.pair.detached ++ BitVec.ofBool s.pair.stealing ++ BitVec.ofBool s.pair.autoSolo ++ BitVec.ofNat 2 s.pair.mode.code),
      (0x0C0C, s.ring.head.setWidth 32), (0x1000, s.num.numCfg), (0x1004, s.num.seedLo), (0x1008, s.num.seedHi),
      (0x1400, s.trap.w0 ||| if s.queues.q0.halted || s.queues.q1.halted || s.queues.q2.halted || s.queues.q3.halted then 0x40000000 else 0),
      (0x1404, s.trap.w1), (0x1408, s.trap.w2), (0x140C, s.trap.w3), (0x1410, s.trap.w4),
      (0x2000, s.err.status.setWidth 32), (0x2010, s.err.eccLog0), (0x2040, s.err.record.w0), (0x2044, s.err.record.w1),
      (0x2048, s.err.record.w2), (0x204C, s.err.record.w3), (0x2050, s.err.record.w4), (0x2084, s.night.pos.setWidth 32),
      (0x280C, s.star.head.setWidth 32)] : List (BitVec 16 × Word)) ∨
      (∃ q : BitVec 2, (a, x) ∈ ([(queueAddr q 0x08, (s.queue q).tail.setWidth 32), (queueAddr q 0x0C, (s.queue q).head.setWidth 32)] :
        List (BitVec 16 × Word))) →
    exec (.counterRead a) s = .next { s with wires := .reg x false :: s.wires })

/-- 18 R414, R415, 15 R365, R368, R371, R362, 16 R376, R385, 13 R324: plain registers take the fields written, below their minima the minimum.
Setting STARLOG_CTRL.enable restarts the interval counts. The address of a save area does not change while its command is suspended.
A ring size of 13 to 15 leaves the size as it was, which is the model's choice (log 44). -/
def Obligations.PlainRegisterWrites : Prop :=
  ∀ (s : State) (v : Word), s.Live →
  exec (.registerWrite 0x0410 v) s = .next { s with clk := { s.clk with aclk := v }, wires := .reg 0 false :: s.wires } ∧
  exec (.registerWrite 0x0414 v) s = .next { s with clk := { s.clk with pclk := v }, wires := .reg 0 false :: s.wires } ∧
  exec (.registerWrite 0x0418 v) s = .next { s with clk := { s.clk with cclk := v }, wires := .reg 0 false :: s.wires } ∧
  exec (.registerWrite 0x041C v) s = .next { s with clk := { s.clk with hclk := v }, wires := .reg 0 false :: s.wires } ∧
  exec (.registerWrite 0x1004 v) s = .next { s with num := { s.num with seedLo := v }, wires := .reg 0 false :: s.wires } ∧
  exec (.registerWrite 0x1008 v) s = .next { s with num := { s.num with seedHi := v }, wires := .reg 0 false :: s.wires } ∧
  exec (.registerWrite 0x1020 v) s = .next { s with num := { s.num with package := v.extractLsb' 0 18 }, wires := .reg 0 false :: s.wires } ∧
  exec (.registerWrite 0x1024 v) s = .next { s with num := { s.num with stepWindow := v.extractLsb' 0 8 }, wires := .reg 0 false :: s.wires } ∧
  exec (.registerWrite 0x1010 v) s = .next { s with num := { s.num with almanacMask := v.extractLsb' 0 14 }, wires := .reg 0 false :: s.wires } ∧
  exec (.registerWrite 0x2004 v) s = .next { s with err := { s.err with enable := v.extractLsb' 0 12 &&& 0xC21 }, wires := .reg 0 false :: s.wires } ∧
  exec (.registerWrite 0x2080 v) s = .next { s with
    night := { s.night with enable := v.getLsbD 31, interval := if (v.extractLsb' 0 16).toNat < 16 then 16 else v.extractLsb' 0 16 }
    wires := .reg 0 false :: s.wires } ∧
  (∃ t, exec (.registerWrite 0x2810 v) s = .next t ∧ t = { s with star := t.star, wires := .reg 0 false :: s.wires } ∧
    t.star = { s.star with
      enable := v.getLsbD 31, period := if (v.extractLsb' 0 24).toNat < 500 then 500 else v.extractLsb' 0 24
      droops := if v.getLsbD 31 ∧ s.star.enable = false then 0 else s.star.droops
      corrected := if v.getLsbD 31 ∧ s.star.enable = false then 0 else s.star.corrected
      readBeats := if v.getLsbD 31 ∧ s.star.enable = false then 0 else s.star.readBeats
      writeBeats := if v.getLsbD 31 ∧ s.star.enable = false then 0 else s.star.writeBeats }) ∧
  exec (.registerWrite 0x3080 v) s = .next { s with dawn := { s.dawn with fwLo := v }, wires := .reg 0 false :: s.wires } ∧
  exec (.registerWrite 0x3810 v) s = .next { s with
    cal := { s.cal with enable := v.getLsbD 31, period := if (v.extractLsb' 0 24).toNat < 5000 then 5000 else v.extractLsb' 0 24 }
    wires := .reg 0 false :: s.wires } ∧
  exec (.registerWrite 0x3084 v) s = .next { s with
    dawn := { s.dawn with fwValid := v.getLsbD 31, fwHi := v.extractLsb' 0 20 }
    wires := .reg 0 false :: s.wires } ∧
  (s.star.enable = true → exec (.registerWrite 0x2800 v) s = .next { s with cnt := s.cnt.raise 24 1, wires := .reg 0 false :: s.wires }) ∧
  (∀ q, (s.queue q).susp ≠ none →
    exec (.registerWrite (queueAddr q 0x14) v) s = .next { s with cnt := s.cnt.raise 24 1, wires := .reg 0 false :: s.wires }) ∧
  (∀ q, (s.queue q).enable = false → 13 ≤ (v.extractLsb' 28 4).toNat → exec (.registerWrite (queueAddr q 0x04) v) s = .next
    ((s.setQueue q { s.queue q with base := { (s.queue q).base with hi := v.extractLsb' 0 20 } }).drive (.reg 0 false))) ∧
  (s.anyEnabled = false → 13 ≤ (v.extractLsb' 28 4).toNat → exec (.registerWrite 0x0C04 v) s = .next
    ({ s with ring := { s.ring with base := { s.ring.base with hi := v.extractLsb' 0 20 } } }.drive (.reg 0 false))) ∧
  (∀ q, (s.queue q).susp = none → exec (.registerWrite (queueAddr q 0x14) v) s = .next
    ((s.setQueue q { s.queue q with ctxLo := v.extractLsb' 12 20 }).drive (.reg 0 false))) ∧
  (∀ q, (s.queue q).susp = none → exec (.registerWrite (queueAddr q 0x18) v) s = .next
    ((s.setQueue q { s.queue q with ctxValid := v.getLsbD 31, ctxHi := v.extractLsb' 0 20 }).drive (.reg 0 false)))

/-! ### Background work -/

/-- 15 R365–R367, 01 R34: Nightwatch reads the unit at its position and goes to the next of the 7,424; the last ends the pass. A correction is
reported and asks for a write-back of that unit; an uncorrectable word marks its granule. Being granted a bank clears its starvation
count. Whatever the read met, no command, queue, reply or configuration changes.
Of this, what a read meets is an operand (log 6), and with the block not clocked the row answers the state itself (log 2). -/
def Obligations.ScrubReadsOneUnit : Prop :=
  ∀ (hits : List ScrubHit) (s : State), s.Live →
  (s.night.enable = false ∨ s.clocked = false → exec (.scrubUnit hits) s = .next s) ∧
  (s.night.enable = true → s.clocked = true → ∃ t, exec (.scrubUnit hits) s = .next t ∧
    t.night = { s.night with
      pos := if s.night.pos.toNat + 1 ≥ 7424 then 0 else s.night.pos + 1
      starved := t.night.starved
      writebacks := if hits.any ScrubHit.isCorrected ∧ s.night.pos ∉ s.night.writebacks then s.night.writebacks ++ [s.night.pos]
        else s.night.writebacks } ∧
    (s.Ok → ∀ b, sget 0 t.night.starved b = if s.night.pos.toNat < 3072 ∧ b = s.night.pos.toNat % 32 then 0 else sget 0 s.night.starved b) ∧
    t = { s with night := t.night, cnt := t.cnt, err := t.err, star := { s.star with corrected := t.star.corrected }, arch := t.arch } ∧
    (hits = [] → t = { s with night := t.night, cnt := if s.night.pos.toNat + 1 ≥ 7424 then s.cnt.raise 57 1 else s.cnt }) ∧
    (∀ h p0 p1, hits = [h] → h.kind = .corrected p0 p1 → t.err.status = s.err.status ||| 1 ∧ t.arch = s.arch ∧
      t.star.corrected = if s.star.corrected = 0xFFFF then 0xFFFF else s.star.corrected + 1) ∧
    (∀ h v, hits = [h] → h.kind = .uncorrectable v → t.err.status = s.err.status ||| 2 ∧
      t.arch = s.arch.poisonWord (scrubHit s.night.pos.toNat h).storage.toNat (scrubHit s.night.pos.toNat h).word.toNat v))

/-- 15 R366, R369, 01 R34, R41: the oldest unit that waits is written back, which changes nothing that can be read and clears its bank's
starvation count; a forced grant does the same for a write-back that waits on the starved bank, or else the scrub read itself; a Starlog
record that has waited goes next; a droop is counted and changes nothing else.
Of this, the write-back row is the model's choice (log 45), when a count reaches 255 is its sender's (log 7), and with nothing to do, or
with the block not clocked, a row answers the state itself (log 2). -/
def Obligations.BackgroundHousekeeping : Prop :=
  ∀ (s : State), s.Live →
  (s.clocked = false ∨ s.night.writebacks = [] → exec .scrubWriteback s = .next s) ∧
  (∀ u us, s.clocked = true → s.night.writebacks = u :: us → s.Ok → ∃ t, exec .scrubWriteback s = .next t ∧
    t = { s with night := { s.night with starved := t.night.starved, writebacks := us.filter (· != u) } } ∧
    ∀ b, sget 0 t.night.starved b = if u.toNat < 3072 ∧ b = u.toNat % 32 then 0 else sget 0 s.night.starved b) ∧
  (∀ bank wb hits, s.night.enable = false ∨ s.clocked = false → exec (.scrubStarvationGrant bank wb hits) s = .next s) ∧
  (∀ (bank : BitVec 5) hits u, s.night.enable = true → s.clocked = true → s.Ok →
    s.night.writebacks.find? (fun u => u.toNat < 3072 && u.toNat % 32 = bank.toNat) = some u →
    ∃ t, exec (.scrubStarvationGrant bank true hits) s = .next t ∧
    t = { s with night := { s.night with starved := t.night.starved, writebacks := s.night.writebacks.filter (· != u) } } ∧
    ∀ k, sget 0 t.night.starved k = if k = bank.toNat then 0 else sget 0 s.night.starved k) ∧
  (∀ (bank : BitVec 5) hits, (∀ u ∈ s.night.writebacks, u.toNat < 3072 → u.toNat % 32 ≠ bank.toNat) →
    exec (.scrubStarvationGrant bank true hits) s = .next s) ∧
  (∀ (bank : BitVec 5) hits, exec (.scrubStarvationGrant bank false hits) s =
    if s.night.pos.toNat < 3072 ∧ s.night.pos.toNat % 32 = bank.toNat then exec (.scrubUnit hits) s else .next s) ∧
  (s.star.waiting = none → exec .backgroundAgePromote s = .next s) ∧
  (s.star.waiting ≠ none → exec .backgroundAgePromote s = exec .starlogRecordWrite { s with star := { s.star with promoted := true } }) ∧
  (s.clocked = true → exec .droopEvent s = .next { s with
    cnt := s.cnt.raise 59 1
    star := { s.star with droops := if s.star.droops = 0xFFFF then 0xFFFF else s.star.droops + 1 } }) ∧
  (s.clocked = false → exec .droopEvent s = .next s)

/-- 15 R368: new trims take effect; a trim out of its range keeps the last good codes and is counted and reported.
Of this, what a failed trim shows as its count is the model's reading (log 37), that trims fall due only in RUN is too (log 34), and with none
due the row answers the state itself (log 2). -/
def Obligations.CalibrationTrims : Prop :=
  ∀ (ro : BitVec 16) (d x : BitVec 6) (s : State), s.Live →
  (s.cal.enable = true → s.pow.state = .run →
    exec (.calibrationTrim true ro d x) s = .next { s with
      cal := { s.cal with roCount := ro, lastFailed := false, droopTrim := d, roTrim := x } } ∧
    exec (.calibrationTrim false ro d x) s = .next { s with
      cal := { s.cal with roCount := ro, lastFailed := true }, cnt := s.cnt.raise 58 1
      err := { s.err with status := s.err.status ||| 0x400 } }) ∧
  (∀ ok, s.cal.enable = false ∨ s.pow.state ≠ .run → exec (.calibrationTrim ok ro d x) s = .next s)

/-- 15 R371–R373: a record is formed and waits, or is dropped because one waits, the ring is full, or this is twin B of LOCKSTEP. In both
cases the interval counts restart and nothing but Starlog, its counter and its error bit changes.
Of this, the first serial number, the moment of the sums, and that records fall due only in RUN are the model's reading (log 34); with none due
the row answers the state itself (log 2). -/
def Obligations.StarlogRecords : Prop :=
  ∀ (x : StarlogSample) (s : State), s.Live →
  (s.star.enable = false ∨ s.pow.state ≠ .run → exec (.starlogRecord x) s = .next s) ∧
  (s.star.enable = true → s.pow.state = .run →
    (s.star.waiting = none → (s.star.head.toNat + 1) % s.star.base.entries ≠ s.star.tail.toNat → s.pair.mode ≠ .lockstep ∨ s.straps.twinSide = false →
      ∃ ws : List Word, exec (.starlogRecord x) s = .next { s with
        star := { s.star with serial := s.star.serial + 1, droops := 0, corrected := 0, readBeats := 0, writeBeats := 0, waiting := some ws } } ∧
      ws.length = 15 ∧ ws[0]? = some 0x53540031 ∧ ws[2]? = some (x.time.extractLsb' 0 32) ∧ ws[3]? = some (x.time.extractLsb' 32 32) ∧
      ws[4]? = some (s.star.serial + 1) ∧ ws[5]? = some x.busy ∧ ws[6]? = some x.laneIssue ∧ ws[7]? = some x.arrayOpen ∧
      ws[8]? = some s.star.readBeats ∧ ws[9]? = some s.star.writeBeats ∧ ws[10]? = some x.throttled ∧
      ws[11]? = some (s.star.droops ++ s.star.corrected)) ∧
    (s.star.waiting ≠ none ∨ (s.star.head.toNat + 1) % s.star.base.entries = s.star.tail.toNat ∨
        (s.pair.mode = .lockstep ∧ s.straps.twinSide = true) →
      exec (.starlogRecord x) s = .next { s with
        star := { s.star with serial := s.star.serial + 1, droops := 0, corrected := 0, readBeats := 0, writeBeats := 0
                              dropped := if s.star.dropped = 0xFFFF then 0xFFFF else s.star.dropped + 1 }
        cnt := s.cnt.raise 61 1
        err := { s.err with status := s.err.status ||| 0x800 } }))

/-- 15 R371–R373, 13 R315, 01 R41: the waiting record is one background write of 64 bytes at STARLOG_HEAD, which then advances; a fenced
instance keeps it, and twin B of LOCKSTEP, which writes none, drops it and counts the drop. It goes when nothing of another class can,
unless its age has promoted it.
Of this, when the background write has its turn is the model's reading (log 34); with no record, or while it may not go, the row answers the
state itself (log 2). -/
def Obligations.StarlogWrites : Prop :=
  ∀ (s : State), s.Live →
  (s.star.waiting = none → exec .starlogRecordWrite s = .next s) ∧
  (s.star.waiting ≠ none → s.pair.mode = .lockstep → s.straps.twinSide = true → exec .starlogRecordWrite s = .next { s with
    star := { s.star with waiting := none, promoted := false, dropped := if s.star.dropped = 0xFFFF then 0xFFFF else s.star.dropped + 1 }
    cnt := s.cnt.raise 61 1
    err := { s.err with status := s.err.status ||| 0x800 } }) ∧
  (s.pair.mode ≠ .lockstep ∨ s.straps.twinSide = false →
    (s.pow.fence = true ∨ s.clocked = false → exec .starlogRecordWrite s = .next s) ∧
    (s.star.promoted = false → s.classWaits 0 = true ∨ s.classWaits 1 = true → exec .starlogRecordWrite s = .next s) ∧
    (∀ ws ph tag, s.star.waiting = some ws → s.pow.fence = false → s.clocked = true →
      s.star.promoted = true ∨ (s.classWaits 0 = false ∧ s.classWaits 1 = false ∧ s.replyReady = false) →
      s.port.translate ((s.star.base.addr + 64 * s.star.head.toNat) / 4096) true = some ph → lowestFree 64 s.writeTags = some tag →
      exec .starlogRecordWrite s = .next ({ s with
        star := { s.star with waiting := none, promoted := false, dropped := 0
                              head := BitVec.ofNat 16 ((s.star.head.toNat + 1) % s.star.base.entries) } }.driveWrite
          (plainBeat (s.star.base.addr + 64 * s.star.head.toNat) 64 (s.star.bytes ws) 2 6 0xFF) (BitVec.ofNat 6 tag)
          (physLine ph ((s.star.base.addr + 64 * s.star.head.toNat) / 128)))))

/-! ### Pins -/

/-- 16 R382, R388: EN high starts Dawn from OFF and is latched during Dusk; EN low starts Dusk from RUN and is latched during Dawn, unless Dawn
has FAILED. Dusk discards the packets that were fetched and not begun, gives a claim of a band up, and, with nothing executing, the array
token; a command that executes goes on to its suspension. -/
def Obligations.EnLevels : Prop :=
  ∀ (s : State), s.Live →
  (s.pow.state = .off → exec .enHigh s = .next ({ s with pow := { s.pow with en := true } }.startDawn)) ∧
  (s.pow.state = .dusk → exec .enHigh s = .next { s with pow := { s.pow with en := true, wakeLatched := true } }) ∧
  (s.pow.state = .dawn ∨ s.pow.state = .run → exec .enHigh s = .next { s with pow := { s.pow with en := true } }) ∧
  (s.pow.state = .run → ∃ t, exec .enLow s = .next t ∧ t.pow.state = .dusk ∧ t.pow.dawnDone = false ∧ t.pow.en = false ∧
    t.arch = s.arch ∧ t.num = s.num ∧ t.cnt = s.cnt ∧ t.trap = s.trap ∧ t.err = s.err ∧ t.ring = s.ring ∧ t.pair.claim = none ∧
    (s.run = none → t.pair.token = false ∧ t.pair.request = false) ∧ (∀ r, s.run = some r → r.stolen = none → t.run = some r) ∧
    (∀ q, t.queue q = { s.queue q with fetch := .idle })) ∧
  (s.pow.state = .dawn → s.pow.failed = false →
    exec .enLow s = .next { s with pow := { s.pow with en := false, sleepLatched := true } }) ∧
  (s.pow.state = .off ∨ s.pow.state = .dusk ∨ (s.pow.state = .dawn ∧ s.pow.failed = true) →
    exec .enLow s = .next { s with pow := { s.pow with en := false } })

/-- 16 R391, 13 R326, R327: an edge while the latch is set is counted; otherwise it sets the latch when a command executes that can suspend, and
has no effect when none executes, for a band stolen from the partner (13 R316), and after the last unit. During a save or a restore it is
kept for the command that executes next. In LOCKSTEP it has no effect on twin B.
Of this, the corners are the model's reading (log 41). -/
def Obligations.PreemptRequests : Prop :=
  ∀ (s : State), s.Live →
  (s.pow.preempt = true → exec .preemptReq s = .next { s with cnt := s.cnt.raise 63 1 }) ∧
  (s.pow.preempt = false → s.run = none → exec .preemptReq s = .next s) ∧
  (s.pow.preempt = false → s.pair.mode = .lockstep → s.straps.twinSide = true → exec .preemptReq s = .next s) ∧
  (∀ r, s.pow.preempt = false → (s.pair.mode = .lockstep → s.straps.twinSide = false) → s.run = some r →
    ((∃ b, r.stage = .saving b) ∨ (∃ k, r.stage = .restoring k) → exec .preemptReq s =
      .next (if suspends r.op = true ∨ r.op = 0x0D then { s with pow := { s.pow with preempt := true, preemptKeep := true } } else s)) ∧
    ((∃ b, r.stage = .trailer b) ∨ r.stage = .done → exec .preemptReq s = .next s) ∧
    ((∀ b, r.stage ≠ .saving b) → (∀ k, r.stage ≠ .restoring k) → (∀ b, r.stage ≠ .trailer b) → r.stage ≠ .done → exec .preemptReq s =
      .next (if suspends r.op = true ∧ r.stolen = none then { s with pow := { s.pow with preempt := true } } else s)))

/-- 13 R315, R320, 16 R393: the filtered FENCE level. A rise withdraws a steal this twin has asked for and abandons a stolen band; with nothing
executing it gives the array token up; a command that can suspend will, also when the level falls before it has. Neither edge changes any
storage, queue, reply or counter.
Of this, pin levels come as rows (log 42). -/
def Obligations.FencePin : Prop :=
  ∀ (s : State), s.Live →
  (s.run = none → ∃ t, exec .fenceRise s = .next t ∧ t = { s with pow := { s.pow with fence := true }, pair := t.pair } ∧
    t.pair.token = false ∧ t.pair.request = false ∧ t.pair.claim = none ∧ t.pair.mode = s.pair.mode) ∧
  (∀ r, s.run = some r → r.stolen = none → exec .fenceRise s = .next { s with
    pow := { s.pow with fence := true, fenceStop := suspends r.op && r.final.isNone && s.pow.state = .run }
    pair := { s.pair with claim := none } }) ∧
  (∀ r b, s.run = some r → r.stolen = some b → ∃ t, exec .fenceRise s = .next t ∧ t.run = none ∧ t.pow.fence = true ∧
    t.pair.token = false ∧ t.pair.claim = none ∧ t.arch = s.arch ∧ t.queues = s.queues ∧ t.ring = s.ring ∧ t.cnt = s.cnt ∧ t.num = s.num) ∧
  (∃ t, exec .fenceFall s = .next t ∧
    t = { s with pow := { s.pow with fence := false }, pair := { s.pair with arrayBarred := t.pair.arrayBarred } } ∧
    t.pair.arrayBarred = (s.pair.arrayBarred || (decide (s.pair.partner = .solo) && decide (s.pair.mode ≠ .solo))))

/-- 16 R379, R377, R392: in the D4 that waits, the first pulse acts; every other pulse, one in FAILED too, is ignored and counted. A D4 whose
pulse does not come in time is marked for its second method. The throttle level only shows: its effect is timing (log 7).
Of this, that a pulse in FAILED is counted and the throttle are the model's reading (logs 39 and 7), and a time limit outside a D4 that waits
leaves the state itself (log 2). -/
def Obligations.SyncAndThrottle : Prop :=
  ∀ (s : State), s.Live →
  (s.pow.syncWait = true → exec .syncInPulse s = .next { s with pow := { s.pow with syncWait := false, syncPassed := true } }) ∧
  (s.pow.failed = true → s.pow.syncWait = false → exec .syncInPulse s = .next { s with cnt := s.cnt.raise 62 1 }) ∧
  (s.pow.failed = false → s.pow.syncWait = false → exec .syncInPulse s = .next { s with cnt := s.cnt.raise 62 1 }) ∧
  (s.pow.state = .dawn → s.pow.step = 4 → s.pow.syncWait = true ∨ s.pow.syncPassed = true → exec .syncTimeout s = .next { s with
    pow := { s.pow with syncWait := false, syncPassed := false, syncFailed := true } }) ∧
  (s.pow.state ≠ .dawn ∨ s.pow.step ≠ 4 → exec .syncTimeout s = .next s) ∧
  (∀ n, exec (.throttleChange n) s = .next { s with pow := { s.pow with throttle := n } })

/-! ### Resets, Dawn and Dusk -/

/-- 16 R381, 18 R417, 17 R412: a cold reset leaves every register at its reset value and samples the straps; a warm reset keeps the HCLK
domain and the straps, and records a Dawn that it cuts short. With EN high Dawn begins at the release. What is not the block's stays: the
partner's presence, the EN level and the record of transfers (logs 1 and 5). -/
def Obligations.ResetsLeave : Prop :=
  ∀ (s : State) (p : StrapPins), s.pow.en = false →
  exec (.poreset p) s = .next { State.reset with
    straps := p, wrap := { wir := s.wrap.wir }, pair := { partner := s.pair.partner }, wires := s.wires, freeIx := s.freeIx, pending := s.pending } ∧
  (s.Live → exec .wreset s = .next { State.reset with
    straps := s.straps, wrap := s.wrap, pair := { partner := s.pair.partner }, wires := s.wires, freeIx := s.freeIx, pending := s.pending
    dawn := { s.dawn with
      lastExit := if s.pow.state = .dawn ∧ s.pow.failed = false then 3 else s.dawn.lastExit
      failed := if s.pow.state = .dawn ∧ s.pow.failed = false then false else s.dawn.failed } })

/-- 16 R382, R387: what a reset with EN high leaves is a Dawn at step 0. -/
def Obligations.ResetWithEnStartsDawn : Prop :=
  ∀ (s : State) (p : StrapPins), s.pow.en = true → s.Live →
  (∃ t, exec (.poreset p) s = .next t ∧ t.pow.state = .dawn ∧ t.pow.step = 0 ∧ t.pow.failed = false ∧ t.dawn.serial = 1) ∧
  (∃ t, exec .wreset s = .next t ∧ t.pow.state = .dawn ∧ t.pow.step = 0 ∧ t.pow.failed = false ∧ t.dawn.serial = s.dawn.serial + 1 ∧
    t.dawn.pinned = s.dawn.pinned ∧ t.straps = s.straps)

/-- 16 R384, R385, R377, R387, 01 R12: Dawn steps run only in a Dawn that has not FAILED. D1 fails Dawn when a memory cannot be repaired; D3 leaves
the storages zero (01 R12); D4 passes on its pulse, by its second method when no pulse came in time, which marks it, or when it began
marked; D5 runs the image at FW_ADDR when it arrives whole and authenticates, and the ROM image otherwise, marking the step when an image
failed; each other step that passes goes on to the next. Each step leaves its outcome in the Dawn log.
Of this, what the Dawn log shows in its corners is the model's reading (log 38); outcomes and the image's length are operands (logs 6 and 60);
a row outside Dawn answers the state itself (log 2). -/
def Obligations.DawnEarlySteps : Prop :=
  ∀ (o : DawnOutcome) (s : State), s.Live →
  (s.pow.state ≠ .dawn ∨ s.pow.failed = true → exec (.dawnSequence o) s = .next s) ∧
  (s.pow.state = .dawn → s.pow.failed = false → s.Ok →
    (s.pow.step = 1 → o.memoryOk = false → ∃ t, exec (.dawnSequence o) s = .next t ∧ t.pow = { s.pow with failed := true, dawnDone := false } ∧
      t.dawn.failed = true ∧ t.dawn.lastExit = 2 ∧ t = { s with pow := t.pow, dawn := t.dawn } ∧
      sget {} t.dawn.steps 1 = ⟨s.marked 1, 2, 0, 1⟩) ∧
    (s.pow.step = 0 ∨ s.pow.step = 2 ∨ (s.pow.step = 1 ∧ o.memoryOk = true) → ∃ t, exec (.dawnSequence o) s = .next t ∧
      t = { s with pow := t.pow, dawn := t.dawn } ∧ t.pow.step = s.pow.step + 1 ∧ t.pow.state = .dawn ∧ t.pow.failed = false ∧
      sget {} t.dawn.steps s.pow.step.toNat = ⟨s.marked s.pow.step.toNat, 1, 0, 1⟩) ∧
    (s.pow.step = 3 → ∃ t, exec (.dawnSequence o) s = .next t ∧ t.pow.step = 4 ∧ t.pow.syncWait = !s.marked 4 ∧
      t = { s with arch := {}, night := { s.night with pos := 0, writebacks := [] }, pow := t.pow, dawn := t.dawn }) ∧
    (s.pow.step = 4 →
      (s.pow.syncPassed = false → s.pow.syncFailed = false → s.pow.syncWait = true → exec (.dawnSequence o) s = .next s) ∧
      (s.pow.syncPassed = true ∨ s.pow.syncFailed = true ∨ s.pow.syncWait = false → ∃ t, exec (.dawnSequence o) s = .next t ∧
        t = { s with pow := t.pow, dawn := t.dawn } ∧ t.pow = { s.pow with step := 5, syncWait := false } ∧
        sget {} t.dawn.steps 4 = if s.pow.syncPassed then ⟨false, 1, 0, 1⟩ else if s.pow.syncFailed then ⟨true, 1, 1, 2⟩
          else ⟨s.marked 4, 1, 1, 1⟩)) ∧
    (s.pow.step = 5 →
      (∀ u, s.marked 5 = false → s.dawn.fwValid = true → s.ask 7 0 0 (s.dawn.imageLines (o.imageLines.toNat + 1)) = .wait u →
        exec (.dawnSequence o) s = .next u) ∧
      (∀ u ls v, s.marked 5 = false → s.dawn.fwValid = true → s.ask 7 0 0 (s.dawn.imageLines (o.imageLines.toNat + 1)) = .ready u ls →
        (∀ l ∈ ls, l.2.poison = false) → o.firmware = some v → ∃ t, exec (.dawnSequence o) s = .next t ∧
        t = { s with pow := t.pow, dawn := t.dawn, port := t.port } ∧ t.port.xlats = [] ∧
        t.pow = { s.pow with fwRom := false, fwVersion := v, step := 6, syncWait := false } ∧ sget {} t.dawn.steps 5 = ⟨false, 1, 0, 1⟩) ∧
      (∀ x : StepLog, (s.marked 5 = true ∧ x = ⟨true, 1, 1, 1⟩) ∨ (s.marked 5 = false ∧ s.dawn.fwValid = false ∧ x = ⟨false, 1, 1, 1⟩) ∨
          (s.marked 5 = false ∧ s.dawn.fwValid = true ∧ x = ⟨true, 1, 1, 2⟩ ∧
            ((∃ f, s.port.faultOf 7 = some f) ∨ (∃ u ls, s.ask 7 0 0 (s.dawn.imageLines (o.imageLines.toNat + 1)) = .ready u ls ∧
              ((∃ l ∈ ls, l.2.poison = true) ∨ o.firmware = none)))) →
        ∃ t, exec (.dawnSequence o) s = .next t ∧ t = { s with pow := t.pow, dawn := t.dawn, port := t.port } ∧ t.port.xlats = [] ∧
        t.pow = { s.pow with fwRom := true, fwVersion := 0x0310, step := 6, syncWait := false } ∧ sget {} t.dawn.steps 5 = x)))

/-- 16 R386, R387, 01 R25, 15 R368: D6 starts with the pinned column, else the lane record's, and retries once over a failing column; it pins that
column when the retry passes and FAILS Dawn when it does not. D7 keeps a pinned column, rotates a good lane record's spare, and takes
column 0 when there is no record or its parity fails; a marked D7 or D8 takes its default. D8 takes the measured trims, or the reset codes when
a trim would leave its range, which marks it.
Of this, outcomes are operands (log 6) and the log's corners are the model's reading (log 38). -/
def Obligations.DawnLaneSteps : Prop :=
  ∀ (o : DawnOutcome) (s : State), s.Live → s.pow.state = .dawn → s.pow.failed = false → s.Ok →
  (s.pow.step = 6 → o.failedColumn = none → ∃ t, exec (.dawnSequence o) s = .next t ∧ t.pow.step = 7 ∧ t.pow.failed = false ∧
    t.cal = { s.cal with spare := if s.dawn.pinned ≠ 0x3F then s.dawn.pinned else if s.dawn.laneValid then s.dawn.savedSpare else s.cal.spare } ∧
    t = { s with pow := t.pow, dawn := t.dawn, cal := t.cal } ∧ t.dawn.pinned = s.dawn.pinned ∧
    sget {} t.dawn.steps 6 = ⟨s.marked 6, 1, if s.marked 6 then 1 else 0, 1⟩) ∧
  (∀ c, s.pow.step = 6 → o.failedColumn = some c → ∃ t, exec (.dawnSequence o) s = .next t ∧ t.cal.spare = c ∧
    (o.retryPasses = true → t.dawn.pinned = c ∧ t.pow.step = 7 ∧ t.pow.failed = false ∧ sget {} t.dawn.steps 6 = ⟨true, 1, 1, 2⟩) ∧
    (o.retryPasses = false → t.pow.failed = true ∧ t.dawn.pinned = s.dawn.pinned ∧ t.dawn.failed = true ∧ t.dawn.lastExit = 2)) ∧
  (s.pow.step = 7 → ∃ t, exec (.dawnSequence o) s = .next t ∧ t.pow.step = 8 ∧ t = { s with pow := t.pow, dawn := t.dawn, cal := t.cal } ∧
    t.dawn.pinned = s.dawn.pinned ∧
    (s.marked 7 = true → t.dawn.savedSpare = s.dawn.savedSpare ∧ t.dawn.laneValid = s.dawn.laneValid ∧
      t.cal.spare = (if s.dawn.pinned ≠ 0x3F then s.cal.spare else 0) ∧ sget {} t.dawn.steps 7 = ⟨true, 3, 2, 0⟩) ∧
    (s.marked 7 = false → t.dawn.savedSpare = t.cal.spare ∧ t.dawn.laneValid = true ∧
      (s.dawn.pinned ≠ 0x3F → t.cal.spare = s.dawn.pinned ∧ sget {} t.dawn.steps 7 = ⟨false, 1, 0, 1⟩) ∧
      (s.dawn.pinned = 0x3F → s.dawn.laneValid = false → t.cal.spare = 0 ∧ sget {} t.dawn.steps 7 = ⟨false, 1, 2, 1⟩) ∧
      (s.dawn.pinned = 0x3F → s.dawn.laneValid = true → o.laneParityOk = false →
        t.cal.spare = 0 ∧ sget {} t.dawn.steps 7 = ⟨true, 2, 2, 1⟩) ∧
      (s.dawn.pinned = 0x3F → s.dawn.laneValid = true → o.laneParityOk = true →
        t.cal.spare = BitVec.ofNat 6 ((s.dawn.savedSpare.toNat + 1) % 33) ∧ sget {} t.dawn.steps 7 = ⟨false, 1, 0, 1⟩))) ∧
  (s.pow.step = 8 → ∃ t, exec (.dawnSequence o) s = .next t ∧ t.pow.step = 9 ∧ t = { s with pow := t.pow, dawn := t.dawn, cal := t.cal } ∧
    (s.marked 8 = true → t.cal = { s.cal with droopTrim := 0x20, roTrim := 0x20 } ∧ sget {} t.dawn.steps 8 = ⟨true, 3, 2, 0⟩) ∧
    (s.marked 8 = false → o.trimOk = true →
      t.cal = { s.cal with roCount := o.roCount, lastFailed := false, droopTrim := o.droopTrim, roTrim := o.roTrim } ∧
      sget {} t.dawn.steps 8 = ⟨false, 1, 0, 1⟩) ∧
    (s.marked 8 = false → o.trimOk = false →
      t.cal = { s.cal with roCount := o.roCount, lastFailed := true, droopTrim := 0x20, roTrim := 0x20 } ∧
      sget {} t.dawn.steps 8 = ⟨true, 2, 2, 1⟩))

/-- 16 R382, R383, R387, 13 R306, 12 R291, R297: D9 empties the windows, starts both rings at entry 0, sets DAWN_DONE and enters SPLIT without
stealing, or SOLO when the partner has FAILED. A DAWN command latched in Dusk is accepted and its reply, marked deferred, waits. A sleep that
was latched, or EN low, starts Dusk at once.
Of this, that nothing else of the queues changes is the model's reading (log 38). -/
def Obligations.DawnCompletes : Prop :=
  ∀ (o : DawnOutcome) (s : State), s.Live → s.pow.state = .dawn → s.pow.failed = false → s.pow.step = 9 → ∃ t, exec (.dawnSequence o) s = .next t ∧
    t.pair.mode = (if s.pair.partner = .failed then .solo else .split) ∧ t.pair.stealing = false ∧ t.pair.token = false ∧
    t.pair.partnerFailed = decide (s.pair.partner = .failed) ∧ t.star = { s.star with head := 0, tail := 0 } ∧
    t.ring.head = 0 ∧ t.ring.tail = 0 ∧ t.ring.serial = 0 ∧ t.ring.phase = true ∧ t.ring.issued = false ∧ t.pow.latchedDawn = [] ∧
    t.arch = s.arch ∧ t.num = s.num ∧ t.cnt = s.cnt ∧ t.trap = s.trap ∧ t.err = s.err ∧ t.clk = s.clk ∧
    t.dawn.failed = false ∧ t.dawn.lastExit = 1 ∧
    (s.pow.en = true → s.pow.sleepLatched = false →
      t.pow = { s.pow with state := .run, dawnDone := true, latchedDawn := [] } ∧
      (s.pow.latchedDawn = [] → (∀ q, t.queue q = { s.queue q with window := [], newest := none, fenceTag := none })) ∧
      (s.pow.latchedDawn = [] → s.ring.owed = [] → (∀ r, s.run = some r → r.final = none) →
        t.ring = { s.ring with head := 0, tail := 0, serial := 0, phase := true, issued := false } ∧ t.run = s.run) ∧
      (∀ q ws, s.pow.latchedDawn = [(q, ws)] → s.ring.owed = [] → s.ring.waiting = [] →
        t.ring.waiting = [packetReply q (nats ws) { status := 0, deferred := true }] ∧ t.ring.owed = [] ∧ t.run = s.run ∧
        t.queue q = { s.queue q with window := [], newest := some (ws.getD 1 0), fenceTag := none })) ∧
    (s.pow.en = false ∨ s.pow.sleepLatched = true → t.pow.state = .dusk ∧ t.pow.dawnDone = false ∧ t.pow.sleepLatched = false ∧
      t.pow.duskStep = 0)

/-- 16 R388, 12 R291: Dusk waits for the executing command and until each head packet has been read, gives the array token up, writes or drops
the Starlog record, waits until every write has its response, writes the DUSK command's reply last, and turns off; a wake that was latched
starts Dawn at once (16 R382).
Of this, the division into steps is the model's (log 4), and a row outside Dusk answers the state itself (log 2). -/
def Obligations.DuskSteps : Prop :=
  ∀ (s : State), s.Live →
  (s.pow.state ≠ .dusk → exec .duskSequence s = .next s) ∧
  (s.pow.state = .dusk →
    (∀ r, s.pow.duskStep = 0 → s.run = some r → r.final = none → exec .duskSequence s = .next s) ∧
    (s.pow.duskStep = 0 → s.headsUnread = true → exec .duskSequence s = .next s) ∧
    (s.pow.duskStep = 0 → s.run = none → s.headsUnread = false → ∃ t, exec .duskSequence s = .next t ∧ t.pow = { s.pow with duskStep := 1 } ∧
      t.pair.token = false ∧ t.pair.request = false ∧ t = { s with pow := t.pow, pair := t.pair }) ∧
    (s.pow.duskStep = 1 → s.star.waiting = none → exec .duskSequence s = .next { s with pow := { s.pow with duskStep := 2 } }) ∧
    (s.pow.duskStep = 1 → s.star.waiting ≠ none → s.pow.fence = true ∨ s.star.full = true → exec .duskSequence s = .next { s with
      pow := { s.pow with duskStep := 2 }
      star := { s.star with waiting := none, promoted := false, dropped := if s.star.dropped = 0xFFFF then 0xFFFF else s.star.dropped + 1 }
      cnt := s.cnt.raise 61 1
      err := { s.err with status := s.err.status ||| 0x800 } }) ∧
    (s.pow.duskStep = 2 → s.quiet = false → exec .duskSequence s = .next s) ∧
    (s.pow.duskStep = 2 → s.quiet = true → s.pow.duskCommand = none → exec .duskSequence s = .next { s with pow := { s.pow with duskStep := 3 } }) ∧
    (∀ q ws, s.pow.duskStep = 2 → s.quiet = true → s.pow.duskCommand = some (q, ws) → s.pair.mode ≠ .lockstep →
      exec .duskSequence s = .next { s with
        pow := { s.pow with duskCommand := none, duskStep := 3 }
        ring := { s.ring with waiting := s.ring.waiting ++ [packetReply q (nats ws) { status := 0 }] } }) ∧
    (s.pow.duskStep = 3 → s.quiet = true → s.pow.wakeLatched = false → ∃ t, exec .duskSequence s = .next t ∧
      t.pow = { s.pow with state := .off, duskStep := 0 } ∧ t.arch = s.arch ∧ t.num = s.num ∧ t.cnt = s.cnt ∧ t.dawn = s.dawn) ∧
    (s.pow.duskStep = 3 → s.quiet = true → s.pow.wakeLatched = true → ∃ t, exec .duskSequence s = .next t ∧
      t.pow.state = .dawn ∧ t.pow.step = 0 ∧ t.pow.wakeLatched = false ∧ t.arch = s.arch ∧ t.num = s.num ∧ t.cnt = s.cnt))

/-! ### The ports -/

/-- 17 R395: a returned line, a write response or a translation response whose tag or identifier is not in use is discarded and counted,
and has no other effect. -/
def Obligations.StrayTransfers : Prop :=
  ∀ (s : State), s.Live →
  (∀ tag idx d c i p, (∀ r ∈ s.port.reads, r.tag ≠ tag) → exec (.memReadData tag idx d c i p) s = .next { s with cnt := s.cnt.raise 64 1 }) ∧
  (∀ tag, (∀ w ∈ s.port.writes, w.tag ≠ tag) → exec (.writeResponse tag) s = .next { s with cnt := s.cnt.raise 64 1 }) ∧
  (∀ id pa sz f, (∀ a ∈ s.port.atps, a.id ≠ id) → exec (.atpResponse id pa sz f) s = .next { s with cnt := s.cnt.raise 64 1 })

/-- 17 R398, R400, 15 R371: a returned line frees its tag and is kept for whoever asked for it, or dropped when nobody waits any more, and
counts for Starlog; a write response frees its tag. Twin A of LOCKSTEP forwards the line as well (13 R310), which this does not state.
Of this, the owner number that drops a line is the model's own (log 1). -/
def Obligations.LinesAndResponses : Prop :=
  ∀ (s : State), s.Live →
  (∀ tag idx d c i p r, s.port.reads.find? (fun r => r.tag = tag) = some r → s.pair.mode ≠ .lockstep → r.owner ≠ 15 →
    exec (.memReadData tag idx d c i p) s = .next { s with
      port := { s.port with
        reads := s.port.reads.filter (fun x => x.tag != tag), buf := s.port.buf ++ [(r.owner, r.vline, ⟨d, c, i, p⟩)] }
      star := { s.star with readBeats := s.star.readBeats + 1 } }) ∧
  (∀ tag idx d c i p r, s.port.reads.find? (fun r => r.tag = tag) = some r → s.pair.mode ≠ .lockstep → r.owner = 15 →
    exec (.memReadData tag idx d c i p) s = .next { s with
      port := { s.port with reads := s.port.reads.filter (fun x => x.tag != tag) }
      star := { s.star with readBeats := s.star.readBeats + 1 } }) ∧
  (∀ tag w, w ∈ s.port.writes → w.tag = tag →
    exec (.writeResponse tag) s = .next { s with port := { s.port with writes := s.port.writes.filter (fun x => x.tag != tag) } })

/-- 17 R402, R403, 12 R444, 10 R259: a translation is kept for the whole aligned region that it maps, behind those kept already; while 64 are held the
oldest leaves. A fault waits for its command or fetch. A fault of a reply's translation disables every queue, discards what they
fetched, and is counted and reported; one of a Starlog record drops the record.
Of this, the reported address is that of the line (log 35), and the record's drop is the model's reading (log 21). -/
def Obligations.TranslationResponses : Prop :=
  ∀ (id : BitVec 6) (pa : BitVec 40) (sz : BitVec 2) (a : AtpReq) (s : State), s.Live → s.port.atps.find? (fun a => a.id = id) = some a →
  (∀ n x, a.owner ≠ 15 → n = (if sz = 0 then 1 else if sz = 1 then 16 else if sz = 2 then 512 else 262144) →
    x = (⟨a.page / n * n, n, pa.toNat / n * n, decide (a.kind = 1)⟩ : Xlat) →
    exec (.atpResponse id pa sz false) s = .next { s with port := { s.port with
      atps := s.port.atps.filter (fun x => x.id != id)
      xlats := if s.port.xlats.length < 64 then s.port.xlats ++ [x] else s.port.xlats.drop 1 ++ [x] } }) ∧
  (a.owner < 5 ∨ a.owner = 7 → exec (.atpResponse id pa sz true) s = .next { s with port := { s.port with
    atps := s.port.atps.filter (fun x => x.id != id), faults := s.port.faults ++ [⟨a.owner, a.va, a.kind, a.pos⟩] } }) ∧
  (∀ f, a.owner = 15 → exec (.atpResponse id pa sz f) s = .next { s with port := { s.port with
    atps := s.port.atps.filter (fun x => x.id != id) } }) ∧
  (a.owner = 5 → ∃ t, exec (.atpResponse id pa sz true) s = .next t ∧ t.cnt = s.cnt.raise 22 1 ∧
    t.err = { s.err with status := s.err.status ||| 0x1000 } ∧ t.ring = { s.ring with faulted := true } ∧
    (∀ q, t.queue q = { s.queue q with enable := false, fetch := .idle }) ∧ t.run = s.run ∧ t.arch = s.arch) ∧
  (a.owner = 6 → exec (.atpResponse id pa sz true) s = .next { s with
    port := { s.port with atps := s.port.atps.filter (fun x => x.id != id) }
    star := { s.star with waiting := none, promoted := false, dropped := if s.star.dropped = 0xFFFF then 0xFFFF else s.star.dropped + 1 }
    cnt := s.cnt.raise 61 1
    err := { s.err with status := s.err.status ||| 0x800 } })

/-- 17 R405, 08 R203, R205: a drained beat is taken only by the holder of the array token. When no drain is awaited, or the beat is not of the
drain awaited, the block sends ABANDON, whether a segment is open or not, and the command ends with ST_MXA_ERROR, which is counted and
reported; a beat of the drain lands. The beat that completes a sub-tile spills it, and what its staging counted and its own events commit then.
Of this, one beat is one row, and a drain resolves when its last beat lands (log 4); a beat with no holder to take it answers the state itself
(log 2). -/
def Obligations.DrainBeats : Prop :=
  ∀ (hdr : BitVec 64) (data : BitVec 4096) (s : State), s.Live →
  (s.run = none ∨ s.pair.token = false → exec (.mxaDrainBeat hdr data .none) s = .next s) ∧
  (∀ r g k, s.Runs r 0x04 → g = r.prodSeg (geomOf s.straps.mxaGeom) → s.pair.token = true → s.pair.mode ≠ .lockstep →
    (r.stage ≠ .draining ∨ (g.drain r).accept r.prod.seen (drnHdr hdr) = none →
      ∃ t ws, exec (.mxaDrainBeat hdr data .none) s = .next t ∧ t.err = { s.err with status := s.err.status ||| 0x80 } ∧
        t.wires = .ctl (ctlWord 4 0 false false false false 0 0 r.prod.kseg 0) :: ws ∧
        s.EndedWith { r with prod := { r.prod with segOpen := true } } { t with err := s.err } { status := 0x33 } [43]) ∧
    (r.stage = .draining → (g.drain r).accept r.prod.seen (drnHdr hdr) = some k → bit r.prod.resolved k = false →
      ((r.prod.land k (drnHdr hdr) data).whole k = none →
        exec (.mxaDrainBeat hdr data .none) s = .next { s with run := some { r with prod := r.prod.land k (drnHdr hdr) data } }) ∧
      (∀ bs a r1, (r.prod.land k (drnHdr hdr) data).whole k = some bs → (∀ b ∈ bs, b.ovf = false) → r.prod.kseg = 0 →
        (g.drain r).complete (r.prod.land k (drnHdr hdr) data).seen = false →
        r1 = { r with pend := {}, nanSeen := r.nanSeen || r.pend.nan.isSome, prod := { (r.prod.land k (drnHdr hdr) data).clearTile k with
          landings := r.prod.landings + 1 } } →
        a = landTile s.arch (g.landing r + r.prod.landings % 2) r.producer (if r.isIntClass then 15 else 0) bs →
        ∃ t, exec (.mxaDrainBeat hdr data .none) s = .next t ∧ t.arch = (spillTile g r1 a k k bs).1 ∧
          t.cnt = (s.cnt.raiseAll r.pend.counts).raiseAll (spillTile g r1 a k k bs).2.1.counts ∧ t.queues = s.queues ∧ t.ring = s.ring ∧
          ∃ r2, t.run = some r2 ∧ r2.stage = .draining ∧ bit r2.prod.resolved k = true ∧ r2.pend = {})))

/-- 17 R406, R407, 13 R309, R314, R319, R320, 15 R350: a beat of the pair channel is freed as it is taken, which returns its credit. Twin B of
LOCKSTEP keeps forwarded lines and drain quarters in arrival order; on its way into LOCKSTEP it takes the copy's lines, and one whose check
fails ends the change. A thief whose staged line fails its check abandons its band. A message withdraws a claim, abandons a claimed band,
tells the partner's steal bit, or parts the pair; a forwarded command is kept beat by beat. A twin in SOLO, executing or not, and a FAILED
one ignore the channel. A credit that comes back sends the oldest beat that waits for one, or is held, 16 at most.
Of this, kinds 2 to 7 and the message codes are the block's own encoding (log 10). -/
def Obligations.PairChannel : Prop :=
  ∀ (s u : State) (d : Line) (sb : BitVec 112) (kind hdr : Nat) (c : Word), s.Live → u = { s with wires := .pairCredit :: s.wires } →
  kind = (sb.extractLsb' 108 4).toNat → hdr = (sb.extractLsb' 44 64).toNat → c = sb.extractLsb' 12 32 →
  (s.pow.failed = true ∨ (s.pair.mode = .solo ∧ s.run = none) ∨ (∃ r, s.pair.mode = .solo ∧ s.run = some r ∧ r.op ≠ 0x0C) →
    exec (.pairDataBeat d sb) s = .next s) ∧
  (s.pow.failed = true → exec .pairCredit s = .next s) ∧
  (s.pow.failed = false → s.pair.mode ≠ .solo →
    (6 ≤ kind → exec (.pairDataBeat d sb) s = .next u) ∧
    (s.pair.mode ≠ .lockstep ∨ s.straps.twinSide = false → kind < 2 → exec (.pairDataBeat d sb) s = .next u) ∧
    (s.pair.mode = .lockstep → s.straps.twinSide = true →
      (kind = 0 → exec (.pairDataBeat d sb) s = .next (if hdr < 2 ^ 43 then { u with pair := { s.pair with rx := s.pair.rx ++ [(d, sb)] } } else u)) ∧
      (kind = 1 → exec (.pairDataBeat d sb) s = .next { u with
        pair := { s.pair with quarters := s.pair.quarters ++ [(sb.extractLsb' 44 64, sb.extractLsb' 9 2, d)] } })) ∧
    (kind = 2 →
      (s.straps.twinSide = false ∨ s.joining = none → exec (.pairDataBeat d sb) s = .next u) ∧
      (∀ r, s.straps.twinSide = true → s.joining = some r → r.stolen = none →
        (copyBad hdr d c (sb.getLsbD 11) = true → ∃ t, u.EndedWith r t { status := 0x34 } [52] ∧
          exec (.pairDataBeat d sb) s = .next ((t.raiseErr 3).sendBeat 0 (sideband 4 11 (rowCheck 0) false 0))) ∧
        (copyBad hdr d c (sb.getLsbD 11) = false → hdr % 2 ^ 16 ≠ 7583 → exec (.pairDataBeat d sb) s = .next { u with
          arch := s.arch.takeCopy hdr d c (sb.getLsbD 11) }))) ∧
    (kind = 3 →
      (sb.getLsbD 11 = true ∨ c = rowCheck d ∨ s.run = none → exec (.pairDataBeat d sb) s = .next u) ∧
      (∀ r b, s.run = some r → r.stolen = some b → sb.getLsbD 11 = false → c ≠ rowCheck d → ∃ t, exec (.pairDataBeat d sb) s = .next t ∧
        t.run = none ∧ t.cnt = s.cnt.raise 52 1 ∧ t.err = { s.err with status := s.err.status ||| 8 } ∧ t.arch = s.arch ∧ t.queues = s.queues)) ∧
    (kind = 4 →
      (∀ b r, hdr = 3 + 256 * b → s.run = some r → r.claimed.contains b = true → exec (.pairDataBeat d sb) s = .next { u with
        cnt := s.cnt.raise 49 1
        run := some { r with claimed := r.claimed.filter (· != b), skipped := if b < r.front then r.skipped ++ [b] else r.skipped } }) ∧
      (hdr % 256 = 4 → exec (.pairDataBeat d sb) s = .next { u with pair := { s.pair with claim := none } }) ∧
      (hdr % 256 = 6 → s.run = none → ∃ t, exec (.pairDataBeat d sb) s = .next t ∧ t.pair.mode = .split ∧ t.pair.stealing = false ∧
        t.pair.diverged = true ∧ t.pair.held = [] ∧ t.err = { s.err with status := s.err.status ||| 0x40 } ∧ t.arch = s.arch ∧
        t.queues = s.queues ∧ t.cnt = s.cnt ∧ t.run = none) ∧
      (∀ b, b < 2 → hdr = 9 + 256 * b → exec (.pairDataBeat d sb) s = .next { u with pair := { s.pair with partnerStealing := decide (b = 1) } })) ∧
    (kind = 5 → bits hdr 16 16 + 1 < hdr % 2 ^ 16 →
      exec (.pairDataBeat d sb) s = .next { u with pair := { s.pair with fwd := sput s.pair.fwd (bits hdr 16 16) d } })) ∧
  (s.pow.failed = false →
    (s.pair.tx = [] → exec .pairCredit s = .next { s with pair := { s.pair with credits := if s.pair.credits.toNat < 16 then s.pair.credits + 1 else 16 } }) ∧
    (∀ d sb rest, s.pair.tx = (d, sb) :: rest → s.pair.credits = 0 → exec .pairCredit s = .next { s with
      pair := { s.pair with tx := rest }, wires := .pairData d sb :: s.wires }))

/-! ### The pair -/

/-- 13 R311: a check that equals that of the oldest held beat lets A write it, and a reply is then written, with all that its writing does; one that
comes before its beat is kept. A twin that does not lead a LOCKSTEP pair ignores it.
Of this, a check that comes early is kept by the model's choice (log 10), and a check or a time limit with no one to compare leaves the state
itself (log 2). -/
def Obligations.EqualChecksWrite : Prop :=
  ∀ (c : Word) (s : State), s.Live →
  (s.pair.mode ≠ .lockstep ∨ s.straps.twinSide = true → exec (.pairCheck c) s = .next s ∧ exec .lockstepCheckTimeout s = .next s) ∧
  (s.pair.mode = .lockstep → s.straps.twinSide = false →
    (s.pair.held = [] → exec (.pairCheck c) s = .next { s with pair := { s.pair with checks := s.pair.checks ++ [c] } }) ∧
    (∀ b tag line hs, s.pair.held = (b, tag, line) :: hs → s.pair.checks = [] → c = beatCheck b.data b.ben →
      (b.owner ≠ 5 → exec (.pairCheck c) s = .next ({ s with pair := { s.pair with held := hs } }.driveWrite b tag line)) ∧
      (b.owner = 5 → exec (.pairCheck c) s = .next ({ s with pair := { s.pair with held := hs } }.driveWrite b tag line).replyWritten)) ∧
    (s.pair.held = [] → exec .lockstepCheckTimeout s = .next s))

/-- 13 R312, R311: a check that differs, or does not come in time, ends the command that the beat belongs to with ST_LOCKSTEP_DIVERGE; nothing of
the beat is written; both sums are recorded unless the record is full; the pair goes to SPLIT without stealing. When the beat is that of a
reply, that reply takes the status and is written uncompared, a command that it would have left suspended is over, and the beats
behind it are written; when no command executes, nothing ends.
Of this, an early check is found at its comparison (log 10), and a reply waits while another does (log 40). -/
def Obligations.UnequalChecksDiverge : Prop :=
  ∀ (c : Word) (b : WriteBeat) (tag : BitVec 6) (line : BitVec 45) (hs : List (WriteBeat × BitVec 6 × BitVec 45)) (s : State),
    s.Live → s.pair.mode = .lockstep → s.straps.twinSide = false → s.pair.held = (b, tag, line) :: hs → s.pair.checks = [] →
    ∀ (e : Instr) (k own : Word) (late : Bool), (e = .pairCheck c ∧ c ≠ beatCheck b.data b.ben ∧ k = c ∧ late = false) ∨
        (e = .lockstepCheckTimeout ∧ k = 0 ∧ late = true) →
      ((∃ y rest, b.owner = 5 ∧ s.ring.waiting = y :: rest ∧ own = y.w1) ∨
        (∃ r, b.owner ≠ 5 ∧ s.run = some r ∧ r.final = none ∧ r.mirror = false ∧ r.stolen = none ∧ r.claimed = [] ∧
          own = BitVec.ofNat 32 (pTag r.ws)) ∨ (b.owner ≠ 5 ∧ s.run = none ∧ own = 0)) →
    ∃ t, exec e s = .next t ∧ t.cnt = s.cnt.raise 50 1 ∧ t.err = { s.err with status := s.err.status ||| 0x40 } ∧ t.arch = s.arch ∧
      t.pair.mode = .split ∧ t.pair.stealing = false ∧ t.pair.diverged = true ∧ t.pair.held = [] ∧ t.ring.issued = false ∧
      t.pair.diverge = (if s.pair.diverge.w0.getLsbD 31 then s.pair.diverge else
        ⟨0x80000000 ||| (if late then 0x40000000 else 0) ||| BitVec.ofNat 32 (128 * line.toNat / 2 ^ 32), BitVec.ofNat 32 (128 * line.toNat),
          own, beatCheck b.data b.ben, k⟩) ∧
      (b.owner ≠ 5 → t.port.writes = s.port.writes ∧ t.queues = s.queues ∧
        (∀ r, s.run = some r → s.ring.waiting = [] → t.run = none ∧ t.ring.waiting = [r.reply { status := 0x34 }]) ∧
        (s.run = none → t.run = none ∧ t.ring.waiting = s.ring.waiting)) ∧
      (∀ y rest, b.owner = 5 → s.ring.waiting = y :: rest → (∀ r, s.run = some r → r.mirror = false) → t.run = s.run ∧
        t.ring.waiting = divergedReply y :: rest ∧ t.port.writes = s.port.writes ++ hs.map (fun h => ⟨h.2.1, h.1.owner, h.2.2⟩) ∧
        ∀ q, t.queue q = if y.w0.getLsbD 23 ∧ q = y.queue then { s.queue q with susp := none } else s.queue q)

/-- 13 R306, R307, R313, R314, R319, R320: what the partner's presence decides. A SOLO partner bars the array to a twin that is not in SOLO; an
attached one ends that. When a twin in LOCKSTEP loses its partner it goes on in SOLO: twin A writes what it held, uncompared, and goes on
with its command; twin B drops the mirrored one. So does any twin whose partner has FAILED. A band that this twin has stolen is dropped, and
one that the partner had claimed is counted as abandoned and run by its owner.
Of this, the moments of the status bits are the model's reading (log 26). -/
def Obligations.PartnerPresence : Prop :=
  ∀ (s : State), s.Live →
  exec (.pairAliveChange .solo) s = .next { s with pair := { s.pair with
    partner := .solo, partnerFailed := false, arrayBarred := decide (s.pair.mode ≠ .solo) } } ∧
  (s.pair.mode ≠ .split → exec (.pairAliveChange .attached) s = .next { s with pair := { s.pair with
    partner := .attached, partnerFailed := false, arrayBarred := false } }) ∧
  (s.pair.mode = .split → ∃ t, exec (.pairAliveChange .attached) s = .next t ∧ t.pair.partner = .attached ∧ t.pair.arrayBarred = false ∧
    t.pair.stealing = s.pair.stealing ∧ t = { s with pair := t.pair, wires := t.wires }) ∧
  (∀ p, p = .detached ∨ p = .failed → (∀ h ∈ s.pair.held, h.1.owner ≠ 5) → ∃ t, exec (.pairAliveChange p) s = .next t ∧
    t.pair.partner = p ∧ t.pair.claim = none ∧ t.pair.partnerReq = false ∧ t.pair.partnerHeld = false ∧ t.pair.tx = [] ∧
    t.arch = s.arch ∧ t.queues = s.queues ∧ t.ring = s.ring ∧ t.err = s.err ∧ t.pair.partnerFailed = decide (p = .failed) ∧
    t.pair.mode = (if p = .failed ∨ s.pair.mode = .lockstep then .solo else s.pair.mode) ∧
    t.pair.autoSolo = (s.pair.autoSolo || decide (s.pair.mode = .lockstep) || (decide (p = .failed) && decide (s.pair.mode ≠ .solo))) ∧
    (p = .failed ∨ s.pair.mode = .lockstep → t.pair.stealing = false) ∧
    t.pair.arrayBarred = (if p = .failed then false else s.pair.arrayBarred) ∧
    t.port.writes = (if s.pair.mode = .lockstep ∧ s.straps.twinSide = false then
      s.port.writes ++ s.pair.held.map (fun h => ⟨h.2.1, h.1.owner, h.2.2⟩) else s.port.writes) ∧
    (s.run = none → t.run = none ∧ t.cnt = s.cnt) ∧
    (∀ r b, s.run = some r → r.stolen = some b → t.run = none ∧ t.cnt = s.cnt) ∧
    (∀ r, s.run = some r → s.pair.mode = .lockstep → s.straps.twinSide = true → r.mirror = true → t.run = none) ∧
    (∀ r, s.run = some r → r.stolen = none → r.mirror = false → r.claimed = [] → t.run = some r ∧ t.cnt = s.cnt) ∧
    (∀ r b, s.run = some r → r.stolen = none → r.mirror = false → r.claimed = [b] → t.cnt = s.cnt.raise 49 1 ∧
      t.run = some { r with claimed := [], skipped := if b < r.front then r.skipped ++ [b] else r.skipped }))

/-- 01 R36–R38, 17 R409, 13 R314: in SPLIT twin A grants a partner that asks while nobody holds or wants the token, and lowers the grant when the
partner's held signal has fallen; twin B holds the token from the edge at which it sees the grant, unless it has withdrawn its request; the
holder hands over at a K-segment boundary to a partner of strictly higher priority. A twin in SOLO, and one that has FAILED, ignores
the signals.
Of this, the signals come as rows (log 1), and with no boundary to hand over at the row answers the state itself (log 2). -/
def Obligations.ArrayToken : Prop :=
  ∀ (s : State), s.Live →
  (∀ tok gnt, s.pair.mode = .solo ∨ s.pow.failed = true → exec (.pairTokenSignal tok gnt) s = .next s) ∧
  (s.pair.mode = .split → s.pow.failed = false →
    (∀ tok gnt, s.straps.twinSide = false → s.pair.token = false → s.pair.request = false → s.pair.grant = false →
      s.pair.partnerHeld = false → tok.getLsbD 3 = true → tok.getLsbD 2 = false → exec (.pairTokenSignal tok gnt) s = .next { s with pair := { s.pair with
        partnerReq := true, partnerHeld := false, partnerQueue := tok.extractLsb' 0 2, grant := true, lastSelf := false, release := false } }) ∧
    (∀ tok gnt, s.straps.twinSide = false → s.pair.grant = true → s.pair.partnerHeld = true → tok.getLsbD 2 = false →
      exec (.pairTokenSignal tok gnt) s = .next { s with pair := { s.pair with
        partnerReq := tok.getLsbD 3, partnerHeld := false, partnerQueue := tok.extractLsb' 0 2, grant := false, release := false } }) ∧
    (∀ tok gnt, s.straps.twinSide = true → s.pair.token = false → s.pair.grantUsed = false → gnt.getLsbD 1 = true →
      (s.pair.request = true → exec (.pairTokenSignal tok gnt) s = .next { s with pair := { s.pair with
        partnerReq := tok.getLsbD 3, partnerHeld := tok.getLsbD 2, partnerQueue := tok.extractLsb' 0 2, grantSeen := true
        releaseSeen := gnt.getLsbD 0, grantUsed := false, token := true, everGranted := true, lastSelf := true } }) ∧
      (s.pair.request = false → exec (.pairTokenSignal tok gnt) s = .next { s with pair := { s.pair with
        partnerReq := tok.getLsbD 3, partnerHeld := tok.getLsbD 2, partnerQueue := tok.extractLsb' 0 2, grantSeen := true
        releaseSeen := gnt.getLsbD 0, grantUsed := true } }))) ∧
  (∀ r, s.run = some r → r.stage = .token → s.pair.mode = .split → s.pair.partner = .attached → s.pair.token = true →
    (s.straps.twinSide = false → s.pair.partnerReq = true → s.pair.partnerQueue.toNat < r.queue.toNat →
      exec .tokenHandover s = .next { s with pair := { s.pair with
        token := false, request := true, grant := true, release := false, grantUsed := false, lastSelf := false } }) ∧
    (s.straps.twinSide = true → s.pair.releaseSeen = true → exec .tokenHandover s = .next { s with pair := { s.pair with
        token := false, request := true, release := false, grantUsed := s.pair.grantSeen, lastSelf := true } })) ∧
  (s.run = none → exec .tokenHandover s = .next s)

/-- 13 R308, R309, 12 R275: the partner's matching PAIR_MODE completes a joint change to SPLIT at once. On the way to LOCKSTEP twin A sends the 7,584
lines of its copy, once; when the last has reached twin B both twins discard what their queues fetched, end the command and enter LOCKSTEP as
its reply is written. When the partner's command does not come in time the waiting command is refused with ST_WRONG_MODE and the mode stays.
Of this, the partner's answer and the time limit are rows (logs 7 and 10), the copy's messages are the block's own (log 10), and with no
command waiting a row answers the state itself (log 2). -/
def Obligations.JointModeChanges : Prop :=
  ∀ (s : State), s.Live →
  (∀ r, s.Runs r 0x0C → r.stage = .waiting →
    (r.why = 0 → pf r.ws 6 0 2 = 0 → s.ring.waiting = [] → ∃ t, exec (.pairModeJoin 0 []) s = .next t ∧ t.run = none ∧ t.pair.mode = .split ∧
      t.pair.stealing = bit (nth r.ws 6) 2 ∧ t.pair.arrayBarred = false ∧ t.ring.waiting = [r.reply { status := 0 }] ∧
      t.arch = s.arch ∧ t.queues = s.queues) ∧
    (r.why = 0 → ∃ t, exec .pairModeTimeout s = .next t ∧ s.EndedWith { r with tilesDone := 0 } t { status := 0x17 } [16]) ∧
    (r.why = 0 → pf r.ws 6 0 2 = 1 →
      (s.straps.twinSide = true → exec (.pairModeJoin 1 []) s = .next { s with run := some { r with why := 1 } }) ∧
      (s.straps.twinSide = false → ∃ t, exec (.pairModeJoin 1 []) s = .next t ∧ t.run = some { r with why := 1 } ∧ t.arch = s.arch ∧
        t.queues = s.queues ∧ t.ring = s.ring ∧ t.cnt = s.cnt ∧ t.pair.mode = s.pair.mode ∧
        t.wires.length + t.pair.tx.length = s.wires.length + s.pair.tx.length + 7584)) ∧
    (∀ d sb x, pf r.ws 6 0 2 = 1 → s.pair.mode = .split → s.pow.failed = false → s.ring.waiting = [] →
      (s.straps.twinSide = true ∧ sb.extractLsb' 108 4 = 2 ∧ (sb.extractLsb' 44 64).toNat % 2 ^ 16 = 7583 ∧
        copyBad (sb.extractLsb' 44 64).toNat d (sb.extractLsb' 12 32) (sb.getLsbD 11) = false ∧
        x = s.arch.takeCopy (sb.extractLsb' 44 64).toNat d (sb.extractLsb' 12 32) (sb.getLsbD 11)) ∨
      (sb.extractLsb' 108 4 = 4 ∧ (sb.extractLsb' 44 64).toNat % 256 = 10 ∧ x = s.arch) →
      ∃ t, exec (.pairDataBeat d sb) s = .next t ∧ t.arch = x ∧ t.run = none ∧ t.ring.waiting = [r.reply { status := 0 }] ∧
        t.pair.entering = true ∧ t.pair.stealing = false ∧ (∀ q, t.queue q = { s.queue q with fetch := .idle }) ∧ (r.claimed = [] → t.cnt = s.cnt))) ∧
  (∀ y rest, s.pair.entering = true → s.ring.waiting = y :: rest → s.replyWritten.pair.mode = .lockstep) ∧
  (s.run = none → ∀ m, exec (.pairModeJoin m []) s = .next s ∧ exec .pairModeTimeout s = .next s)

/-- 13 R316, R317, 17 R410, 16 R384: a twin that may steal claims one band at a time with a steal message; the owner grants the highest band that it
has not begun, by forwarding its command, and refuses any other, or any band while nothing that may be stolen executes. A FAILED twin
answers no claim.
Of this, the message codes are the block's own encoding (log 10), and a claim that cannot be made or answered leaves the state itself (log 2). -/
def Obligations.BandClaims : Prop :=
  ∀ (s : State), s.Live →
  (∀ o, s.maySteal o = true → exec (.bandSteal o) s = .next ({ s with pair := { s.pair with claim := some o } }.sendBeat 0
    (sideband 4 (1 + o.band.toNat <<< 8) (rowCheck 0) false 0))) ∧
  (∀ o, s.pair.stealing = false ∨ s.run ≠ none ∨ s.pair.mode ≠ .split ∨ s.pair.partner ≠ .attached → exec (.bandSteal o) s = .next s) ∧
  (∀ b, s.pair.mode ≠ .split ∨ s.pow.failed = true → exec (.stealClaim b) s = .next s) ∧
  (∀ b, s.pair.mode = .split → s.pow.failed = false →
    s.run = none ∨ (∃ r, s.run = some r ∧ (r.stealable = false ∨ r.claimed ≠ [] ∨ r.unbegun b.toNat = false)) →
    exec (.stealClaim b) s = .next (s.sendBeat 0 (sideband 4 4 (rowCheck 0) false 0))) ∧
  (∀ b r, s.pair.mode = .split → s.pow.failed = false → s.run = some r → r.stealable = true → r.claimed = [] →
    ((List.range (r.bandCount (geomOf s.straps.mxaGeom))).filter r.unbegun).getLast? = some b.toNat →
    ∃ t, exec (.stealClaim b) s = .next t ∧ t.run = some { r with claimed := [b.toNat] } ∧ t.arch = s.arch ∧ t.cnt = s.cnt ∧ t.queues = s.queues ∧
      t.wires.length + t.pair.tx.length = s.wires.length + s.pair.tx.length + cdiv (forwardWords s r 4 b.toNat).length 32)

/-- 13 R318, R319, 06 R168: a band that its thief reports done is counted in the owner and no longer awaited; its report waits for its place in band
order. The S data of a CHAIN_RUN that keeps no chunk records are folded in at once, and what the folds report waits with the report.
A report of a band that was not claimed changes nothing.
Of this, which counts come with a report is the model's reading (log 31), and that a report of no claimed band leaves the state itself is its
choice (log 2). -/
def Obligations.StolenBandsReported : Prop :=
  ∀ (x : StealReport) (s : State), s.Live →
  (∀ r, s.run = some r → r.claimed.contains x.band.toNat = true → r.op = 0x05 ∨ r.meridian = true →
    exec (.stealBandDone x) s = .next { s with
      cnt := s.cnt.raise 48 1
      run := some { r with claimed := r.claimed.filter (· != x.band.toNat), reports := insertReport x r.reports } }) ∧
  (∀ r, s.run = some r → r.claimed.contains x.band.toNat = true → r.op = 0x03 → r.meridian = false →
    ∃ y, exec (.stealBandDone x) s = .next { s with
      cnt := s.cnt.raise 48 1
      arch := (foldStolen s.arch r r.walk x).1
      run := some { r with claimed := r.claimed.filter (· != x.band.toNat), reports := insertReport y r.reports } } ∧
    y.band = x.band ∧ y.sdata = [] ∧ y.crcs = x.crcs ∧ (x.sdata = [] → y = x) ∧
    y.counts = x.counts ++ (foldStolen s.arch r r.walk x).2.counts.map (fun c => (BitVec.ofNat 7 c.1, BitVec.ofNat 40 c.2))) ∧
  (∀ r, s.run = some r → r.claimed.contains x.band.toNat = false → exec (.stealBandDone x) s = .next s) ∧
  (s.run = none → exec (.stealBandDone x) s = .next s)

/-! ### The sequencer -/

/-- 12 R273, R275, R277, R295, R296, R299, 17 R398, R402, 01 R41: a queue that may fetch translates and then reads the line of its head packet; a
line that a request of another class goes before is wanted and asked for again. A packet that passes the checks becomes ready, or has its
descriptor table read; one with an undefined opcode is accepted and refused with 0x03; the tag of a reply in the window has that reply
written again; a poisoned line disables the queue.
Of this, the division into pieces and the moment of an answer are the model's (logs 4 and 40), and a queue that fetches nothing leaves the
state itself (log 2). -/
def Obligations.PacketFetches : Prop :=
  ∀ (q : BitVec 2) (s : State), s.Live →
  (s.mayFetch q = false → exec (.packetFetch q) s = .next s) ∧
  (∀ pkt ds, (s.queue q).fetch = .ready pkt ds → exec (.packetFetch q) s = .next s) ∧
  (∀ a p, s.mayFetch q = true → (s.queue q).fetch = .idle → s.port.faultOf (1 + q.toNat) = none → a = (s.queue q).packetAddr →
    p = { s.port with wants := s.port.wants.filter (fun w => w.owner != 1 + q.toNat) } →
    (s.port.line? (1 + q.toNat) (a / 128) = none → s.port.reads.any (fun r => r.owner = 1 + q.toNat && r.vline = a / 128) = true →
      exec (.packetFetch q) s = .next { s with port := p }) ∧
    (s.port.line? (1 + q.toNat) (a / 128) = none → s.port.reads.any (fun r => r.owner = 1 + q.toNat && r.vline = a / 128) = false →
      (∀ i, s.port.translate (a / 4096) false = none →
        s.port.atps.any (fun x => x.page = a / 4096 && x.kind = 3 && x.owner = 1 + q.toNat) = false →
        lowestFree 64 (s.port.atps.map (fun x => x.id.toNat)) = some i → exec (.packetFetch q) s = .next { s with
          port := { p with
            wants := p.wants ++ [⟨1 + q.toNat, 0, a / 128⟩]
            atps := s.port.atps ++ [⟨BitVec.ofNat 6 i, 1 + q.toNat, a / 4096, 3, 0xFF, 128 * (a / 128)⟩] }
          wires := .atp (BitVec.ofNat 6 i) (BitVec.ofNat 40 (a / 4096)) 3 :: s.wires }) ∧
      (s.port.translate (a / 4096) false ≠ none → State.mayIssue { s with port := p } 0 = false →
        exec (.packetFetch q) s = .next { s with port := { p with wants := p.wants ++ [⟨1 + q.toNat, 0, a / 128⟩] } }) ∧
      (∀ ph i, s.port.translate (a / 4096) false = some ph → State.mayIssue { s with port := p } 0 = true →
        s.port.writes.any (fun w => w.line = physLine ph (a / 128)) = false →
        s.port.reads.length < 120 → lowestFree 128 (s.port.reads.map (fun r => r.tag.toNat)) = some i →
        exec (.packetFetch q) s = .next { s with
          port := { p with reads := s.port.reads ++ [⟨BitVec.ofNat 7 i, 1 + q.toNat, a / 128, 0⟩] }
          wires := .readReq (BitVec.ofNat 7 i) (physLine ph (a / 128)) 0 0 :: s.wires })) ∧
    (∀ l ws u, s.port.line? (1 + q.toNat) (a / 128) = some l → ws = lineWords l (a % 128) 16 →
      u = { s with port := { p with buf := s.port.buf.filter (fun x => x.1 != 1 + q.toNat) } } →
      (∀ f, l.poison = false → u.packetChecks q ws = f → (∃ pkt ds, f = .ready pkt ds) ∨ (∃ pkt, f = .table pkt) →
        exec (.packetFetch q) s = .next (u.setQueue q { s.queue q with fetch := f })) ∧
      (s.ring.waiting = [] → s.pow.state = .run →
        (l.poison = true → ∃ t, exec (.packetFetch q) s = .next t ∧ t.queue q = { s.queue q with enable := false, fetch := .idle } ∧
          t.ring = { s.ring with waiting := [replyOf q 0 0 false { status := 0x31, info := (s.queue q).head.toNat, index := 0xFF, enters := false }] } ∧
          t.cnt = s.cnt.raise 51 1 ∧ t.err.status = s.err.status ||| 4 ∧ t.run = s.run ∧ t.arch = s.arch) ∧
        (l.poison = false → s.unfinished q (w32 (pTag ws)) = false →
          (∀ e, (s.queue q).retained (w32 (pTag ws)) = some e → ∃ t, exec (.packetFetch q) s = .next t ∧
            t.ring = { s.ring with waiting := [resend e] } ∧ t.queue q = (s.queue q).advance ∧ t.cnt = s.cnt.raise 17 1 ∧
            t.run = s.run ∧ t.arch = s.arch) ∧
          ((s.queue q).retained (w32 (pTag ws)) = none → (∀ m, (s.queue q).newest = some m → tagAfter (w32 (pTag ws)) m = true) →
            pOp ws > 0x13 → s.run = none → (s.queue q).waitFence = none → (s.queue q).susp = none →
            ∃ t, exec (.packetFetch q) s = .next t ∧
            t.ring = { s.ring with waiting := [replyOf q (pOp ws) (pTag ws) (pIrq ws) { status := 0x03 }] } ∧
            t.queue q = { (s.queue q).advance with newest := some (w32 (pTag ws)) } ∧ t.cnt = s.cnt.raise 16 1 ∧
            t.run = s.run ∧ t.arch = s.arch)))))

/-- 12 R276, R295, R300, R303, 01 R37: at a boundary the highest ready queue's packet is accepted and its head advances; a command that fails a
begin check is refused and nothing executes, any other executes with the configuration as it stands. An array command requests the array
token as it begins. A band that this twin asked for is given up.
Of this, the order of checks among rules is the model's reading (log 47), and with nothing to begin the row answers the state itself (log 2). -/
def Obligations.CommandBegins : Prop :=
  ∀ (s : State), s.Live →
  (s.atBoundary = false ∨ s.nextQueue = none → exec .commandBegin s = .next s) ∧
  (∀ q pkt ds e image, s.atBoundary = true → s.nextQueue = some q → (s.queue q).susp = none → (s.queue q).fetch = .ready pkt ds →
    e = (pProg (nats pkt)).bind s.arch.prog? → image = (match e with | some e => s.arch.image e | none => []) →
    (∀ st why i, s.beginChecks (nats pkt) (ds.map nats) (e.map fun _ => progOf (nats image)) = .error (st, why, i) → st ≠ 0x15 →
      ∃ t, exec .commandBegin s = .next t ∧ t.run = none ∧ t.cnt = s.cnt.raise 16 1 ∧ t.arch = s.arch ∧ t.num = s.num ∧
      t.ring = { s.ring with waiting := [replyOf q (pOp (nats pkt)) (pTag (nats pkt)) (pIrq (nats pkt))
        { status := st, reason := why, index := i }] } ∧
      t.queue q = { (s.queue q).advance with newest := some (w32 (pTag (nats pkt))) }) ∧
    (∀ fb, s.beginChecks (nats pkt) (ds.map nats) (e.map fun _ => progOf (nats image)) = .ok fb → (∀ x, e = some x → x.poison = false) →
      ∃ t r, exec .commandBegin s = .next t ∧ t.run = some r ∧ r.queue = q ∧ r.packet = pkt ∧ r.descs = ds ∧ r.cfg = s.num ∧
      r.image = image ∧ r.fallback = fb ∧ r.unit = 0 ∧ r.tilesDone = 0 ∧ r.pend = {} ∧ r.claimed = [] ∧ r.mirror = false ∧ r.stolen = none ∧
      r.final = none ∧ r.home = s.straps.instanceId ∧ t.cnt = { (if fb then s.cnt.raise 47 1 else s.cnt) with stalls := true } ∧
      t.arch = s.arch ∧ t.num = s.num ∧ t.ring = s.ring ∧ t.port.xlats = [] ∧ t.pair.claim = none ∧
      (r.op = 0x04 ∨ r.op = 0x05 → t.pair.request = true) ∧
      t.queue q = { (s.queue q).advance with newest := some (w32 (pTag (nats pkt))) }))

/-- 13 R320, R321, R324, R325, R330, 12 R294, R301, R302, 16 R390: a command with a reason to suspend stops at a suspension point; without a save
area it ends; with one its image is written, and then it is suspended with an interim reply, or ends when the save area faults or its
writes are poisoned. A stolen band is abandoned instead. Its turn restores a suspended command, which goes on, or ends when its image no
longer stands.
Of this, what is kept beside the image is the model's choice (logs 4 and 19), a reply waits while another does (log 40), and with no reason to
suspend the row answers the state itself (log 2). -/
def Obligations.SuspendAndResume : Prop :=
  ∀ (s : State), s.Live →
  (s.run = none → exec (.commandSuspend []) s = .next s) ∧
  (∀ r, s.Runs r r.op → suspends r.op = false → exec (.commandSuspend []) s = .next s) ∧
  (∀ r b, s.run = some r → r.stolen = some b → r.mirror = false → r.final = none → (∀ b, r.stage ≠ .saving b) → (∀ k, r.stage ≠ .restoring k) →
    (s.pow.fence = true ∨ s.pow.state = .dusk → ∃ t, exec (.commandSuspend []) s = .next t ∧ t.run = none ∧ t.pair.token = false ∧
      t.arch = s.arch ∧ t.queues = s.queues ∧ t.ring = s.ring ∧ t.cnt = s.cnt) ∧
    (s.pow.fence = false → s.pow.state ≠ .dusk → exec (.commandSuspend []) s = .next s)) ∧
  (∀ r st r1, s.Runs r r.op → suspends r.op = true → (∀ b, r.stage ≠ .saving b) → (∀ k, r.stage ≠ .restoring k) →
    s.suspendWhy r = some st → r.point (st = 0x20) = some r1 → r1.stolen = none → r1.mirror = false → r1.queue = r.queue →
    ((s.queue r.queue).ctxValid = false → ∃ t, exec (.commandSuspend []) s = .next t ∧
      s.EndedWith r1 t (suspendSay st (s.port.faultOf 0)) [suspendCounter st, 19]) ∧
    ((s.queue r.queue).ctxValid = true → ∃ t x r2, exec (.commandSuspend []) s = .next t ∧ t.run = some r2 ∧ r2.stage = .saving true ∧
      r2.why = st ∧ r2.fault = s.port.faultOf 0 ∧ r2.claimed = [] ∧ t.pair.token = false ∧ t.arch = s.arch ∧ t.queues = s.queues ∧
      t.ring = s.ring ∧ x.arch = s.arch ∧ t.port.outbox = imageBeats (s.queue r.queue).ctxBase (r2.imageLines x))) ∧
  (∀ r b, s.Runs r r.op → suspends r.op = true → r.stage = .saving b →
    (∀ f, s.port.faultOf 0 = some f → ∃ t, exec (.commandSuspend []) s = .next t ∧ t.err = { s.err with status := s.err.status ||| 0x100 } ∧
      s.EndedWith { r with prod := { r.prod with segOpen := false } } { t with err := s.err }
        { status := 0x20, reason := 1, index := f.pos, value := f.va } [suspendCounter r.why, 22, 19]) ∧
    (s.port.faultOf 0 = none → r.savePoison = true → ∃ t, exec (.commandSuspend []) s = .next t ∧
      t.err = { s.err with status := s.err.status ||| 0x104 } ∧
      s.EndedWith { r with prod := { r.prod with segOpen := false } } { t with err := s.err } { status := 0x31, index := 0xFF }
        [suspendCounter r.why, 51, 19]) ∧
    (s.port.faultOf 0 = none → r.savePoison = false → s.writesDone = true → s.ring.waiting ≠ [] → exec (.commandSuspend []) s = .next s) ∧
    (s.port.faultOf 0 = none → r.savePoison = false → s.writesDone = true → s.ring.waiting = [] →
      ∃ t, exec (.commandSuspend []) s = .next t ∧ t.run = none ∧ t.arch = s.arch ∧ t.cnt = s.cnt.raise (suspendCounter r.why) 1 ∧
      t.ring = { s.ring with waiting := [r.reply { suspendSay r.why r.fault with interim := true }] } ∧
      t.queue r.queue = { s.queue r.queue with susp := some (.mk { r with stage := r.after, prod := { r.prod with segOpen := false } }
        r.why (r.why = 0x20 || s.pow.state = .dusk) (s.pow.state = .dusk)) })) ∧
  (∀ q p, s.run = none → s.atBoundary = true → s.nextQueue = some q → (s.queue q).susp = some p → p.needsResume = false →
    ∃ t, exec .commandResume s = .next t ∧ t.run = some { p.run with stage := .restoring 0, chunks := [] } ∧ t.queues = s.queues ∧
      t.arch = s.arch ∧ t.cnt = { s.cnt with stalls := true } ∧ t.ring = s.ring ∧ t.port.xlats = [] ∧ t.pow.passedOver = none) ∧
  (∀ r p u k, s.Runs r r.op → r.op ≠ 0x0D → r.op ≠ 0x10 → r.stage = .restoring k → (s.queue r.queue).susp = some p →
    (s.resumeStep r p (s.queue r.queue).ctxBase = .done u → (p.restored r.blockWords r.imageDescs).op = r.op →
      ∃ t, exec .commandResume s = .next t ∧ t.run = some (p.restored r.blockWords r.imageDescs) ∧ t.arch = u.arch ∧ t.ring = u.ring ∧
      (r.op = 0x04 ∨ r.op = 0x05 → t.pair.request = true) ∧ t.queue r.queue = { u.queue r.queue with susp := none }) ∧
    (s.resumeStep r p (s.queue r.queue).ctxBase = .failed u → p.run.stolen = none →
      ∃ t v, exec .commandResume s = .next t ∧ v = u.setQueue r.queue { u.queue r.queue with susp := none } ∧
      t.err = { u.err with status := u.err.status ||| 0x200 } ∧ v.EndedWith p.run { t with err := u.err } { status := 0x35 } [19]))

/-- 03 R84, R91, 10 R256, 12 R304, 06 R159, 08 R208, 09 R229: a tile's, a band's last block's or an array block's writes are issued and, when all
have their responses, the unit commits: its counts and its NaN event become visible, and the next unit follows. Under trap_mode 1 a NaN event
ends the command, writes nothing and halts the queue. A stored row whose check fails ends it with ST_ROW_CHECK. A command whose last writes
have their responses ends with ST_OK; a product says the segment length that it used.
Of this, the division into pieces is the model's (log 4), and a reply waits while another does (log 40). -/
def Obligations.UnitsCommit : Prop :=
  ∀ (r : Running) (s : State), s.Live → s.Runs r r.op → s.port.faultOf 0 = none → s.pair.mode ≠ .lockstep →
  (r.op ∈ [0x06, 0x07, 0x0A, 0x09] ∨ (r.op = 0x04 ∧ pProg r.ws = none) ∨ (r.op = 0x05 ∧ r.link.phase ≠ 1) →
    (r.stage = .commit false →
      (r.traps = false → ∃ t, exec (.tileCommit .none) s = .next t ∧ t.run = some { r with stage := .commit true } ∧ t.arch = s.arch ∧
        t.port.writes.length + t.port.outbox.length = s.port.writes.length + s.port.outbox.length + r.kept.length ∧
        t.cnt = s.cnt ∧ t.trap = s.trap ∧ t.queues = s.queues ∧ t.ring = s.ring ∧ t.num = s.num) ∧
      (r.traps = true → r.claimed = [] → s.ring.waiting = [] → ∃ t, exec (.tileCommit .none) s = .next t ∧ t.run = none ∧ t.arch = s.arch ∧
        t.cnt = (s.cnt.raiseAll r.pend.counts).raise 28 1 ∧ t.port.writes = s.port.writes ∧
        t.ring = { s.ring with waiting := [r.reply { status := 0x30 }] } ∧
        t.queue r.queue = { s.queue r.queue with halted := true, fetch := .idle } ∧
        ∃ e, r.pend.nan = some e ∧ t.trap = if s.trap.w0.getLsbD 31 then s.trap else e.record r.queue r.ws)) ∧
    (r.stage = .commit true → s.writesDone = true → ∃ t r2, exec (.tileCommit .none) s = .next t ∧ t.run = some r2 ∧
      t.cnt = s.cnt.raiseAll r.pend.counts ∧
      t.trap = (match r.pend.nan with | none => s.trap | some e => if s.trap.w0.getLsbD 31 then s.trap else e.record r.queue r.ws) ∧
      t.arch = s.arch ∧ t.queues = s.queues ∧ t.ring = s.ring ∧ t.err = s.err ∧
      r2.nanSeen = (r.nanSeen || r.pend.nan.isSome) ∧ r2.tilesDone = r.tilesDone + 1 ∧ r2.pend = {} ∧ r2.acc = r.next ∧
      (r.op ≠ 0x05 → r2.unit = r.unit + 1 ∧
        r2.stage = if r.unit + 1 ≥ (if r.op = 0x04 then r.blocksTotal (geomOf s.straps.mxaGeom) else if r.op = 0x09 then r.mergeBands
          else r.tileTotal) then .trailer false else .load))) ∧
  (∀ band tile ph x es, r.op = 0x03 ∨ r.op = 0x08 → r.walk.place r.unit = (band, tile, ph) → ph ≠ .collect →
    x = chainStored s r r.walk band tile → es = chainStats r r.walk tile ph →
    (r.stage = .commit false → statPoison s r r.walk band es = none → x.fail = none → r.traps = false → ∃ t, exec (.tileCommit .none) s = .next t ∧
      t.run = some { r with stage := .commit true } ∧ t.arch = s.arch ∧ t.cnt = s.cnt ∧ t.ring = s.ring ∧ t.queues = s.queues ∧
      t.port.writes.length + t.port.outbox.length = s.port.writes.length + s.port.outbox.length +
        (x.beats ++ es.flatMap (recordBeats s r (r.walk.d.view r.walk.tr) band)).length) ∧
    (r.stage = .commit true → s.writesDone = true → r.traps = false → x.fail = none → ∃ t r2, exec (.tileCommit .none) s = .next t ∧
      t.run = some r2 ∧ t.cnt = s.cnt.raiseAll (r.pend.stored x).counts ∧ t.arch = s.arch ∧ t.queues = s.queues ∧ t.ring = s.ring ∧
      r2.tilesDone = r.tilesDone + 1 ∧ r2.pend = {} ∧ r2.pass = 0 ∧ r2.acc = chainCrcs s r r.walk band tile es ∧
      ((r.unit + 1) % r.walk.upb ≠ 0 → r2.unit = r.unit + 1 ∧ r2.stage = .load)) ∧
    (∀ reg row, r.stage = .commit true → s.writesDone = true → r.traps = false → x.fail = some (reg, row) → s.ring.waiting = [] → r.claimed = [] →
      ∃ t, exec (.tileCommit .none) s = .next t ∧ t.run = none ∧ t.arch = s.arch ∧ t.cnt = s.cnt.raise 52 1 ∧
      t.err.status = s.err.status ||| 8 ∧ t.ring = { s.ring with waiting := [r.reply { status := 0x32 }] })) ∧
  (suspends r.op = true → r.stage = .trailer true → s.writesDone = true → ∃ t, exec (.tileCommit .none) s = .next t ∧
    s.EndedWith r t (if r.op = 0x04 ∨ r.op = 0x05 then { status := 0, index := 0xFF, value := r.segL (geomOf s.straps.mxaGeom) }
      else { status := 0 }) [])

/-- 12 R278–R280, R287, R292, R297, 13 R311, R315, 16 R388, 17 R399: the oldest waiting reply is one write of 32 bytes at REPLY_HEAD, which
advances; the serial counts, the phase turns at the wrap, IRQ_REPLY rises when asked, and a final reply's tag enters its queue's window. The
reply of a command that ended meanwhile waits next. A full ring holds it, counted once. In LOCKSTEP the beat waits for its comparison. A FENCE
whose tag has passed replies ST_OK and leaves its queue. A fenced instance starts no further reply, and makes no access in Dusk.
Of this, one reply waits at a time by the model's choice (log 40), and with nothing to write or release a row answers the state itself (log 2). -/
def Obligations.RepliesAndFences : Prop :=
  ∀ (s : State), s.Live →
  (s.ring.waiting = [] ∨ (s.pow.state ≠ .run ∧ s.pow.state ≠ .dusk) ∨ s.ring.faulted = true ∨ s.ring.issued = true ∨
    (s.pow.fence = true ∧ s.pow.state = .dusk) → exec .replyWrite s = .next s) ∧
  (∀ y rest, s.pow.state = .run → s.ring.waiting = y :: rest → s.ring.faulted = false → s.ring.issued = false → s.ring.room = false →
    exec .replyWrite s = .next (if s.ring.stallCounted then s else { s with
      ring := { s.ring with stallCounted := true }, cnt := s.cnt.raise 23 1 })) ∧
  (∀ y rest b ph k, s.pow.state = .run → s.ring.waiting = y :: rest → s.ring.faulted = false → s.ring.issued = false → s.ring.room = true →
    b = s.ring.beat y → s.port.translate (b.vline / 32) true = some ph → lowestFree 64 s.writeTags = some k → s.mayIssue 0 = true →
    (s.pair.mode = .lockstep → s.straps.twinSide = false → s.pair.checks = [] → exec .replyWrite s = .next { s with
      pair := { s.pair with held := s.pair.held ++ [(b, BitVec.ofNat 6 k, physLine ph b.vline)] }, ring := { s.ring with issued := true } }) ∧
    (s.pair.mode ≠ .lockstep → s.pair.held = [] → s.pair.entering = false → ∃ t, exec .replyWrite s = .next t ∧
      t.wires = .write (BitVec.ofNat 6 k) (physLine ph b.vline) b.data b.ben b.check b.info b.poison b.cls :: s.wires ∧
      t.ring.head = BitVec.ofNat 16 ((s.ring.head.toNat + 1) % s.ring.base.entries) ∧ t.ring.serial = s.ring.serial + 1 ∧
      t.ring.phase = (s.ring.phase != decide ((s.ring.head.toNat + 1) % s.ring.base.entries = 0)) ∧ t.ring.irq = (s.ring.irq || y.irq) ∧
      t.ring.stallCounted = false ∧ t.ring.tail = s.ring.tail ∧ t.ring.base = s.ring.base ∧
      t.queue y.queue = (if y.enters then (s.queue y.queue).enter y.w1 [y.w0, y.w1, y.w2, y.w3, y.w4, y.w5] else s.queue y.queue) ∧
      (y.enters = true → ⟨y.w1, [y.w0, y.w1, y.w2, y.w3, y.w4, y.w5]⟩ ∈ (t.queue y.queue).window) ∧ t.arch = s.arch ∧ t.cnt = s.cnt ∧
      (rest ≠ [] ∨ (s.ring.owed = [] ∧ ∀ r, s.run = some r → r.final = none) → t.run = s.run ∧ t.ring.waiting = rest) ∧
      (∀ r z, rest = [] → s.ring.owed = [] → s.run = some r → r.final = some z → t.run = none ∧ t.ring.waiting = [z]) ∧
      (∀ z zs, rest = [] → s.ring.owed = z :: zs → t.run = s.run ∧ t.ring.waiting = [z] ∧ t.ring.owed = zs))) ∧
  (∀ q, (s.queue q).waitFence = none ∨ s.pow.state ≠ .run ∨ s.ring.waiting ≠ [] ∨ s.pow.fence = true → exec (.fenceSatisfied q) s = .next s) ∧
  (∀ q ws, (s.queue q).waitFence = some ws → s.pow.state = .run → s.ring.waiting = [] → s.pow.fence = false →
    (s.fenceHolds (nats ws) = false → exec (.fenceSatisfied q) s = .next s) ∧
    (s.fenceHolds (nats ws) = true → ∃ t, exec (.fenceSatisfied q) s = .next t ∧ t.queue q = { s.queue q with waitFence := none } ∧
      t.ring = { s.ring with waiting := [replyOf q (pOp (nats ws)) (pTag (nats ws)) (pIrq (nats ws)) { status := 0 }] } ∧
      t.arch = s.arch ∧ t.cnt = s.cnt ∧ t.run = s.run))

/-! ### Queue commands -/

/-- 12 R284, R286, R304, 04 R122, R124, 13 R308, R309: NOP only replies. CONFIG makes its register writes in turn. CHAIN_LOAD of length 0 removes
a program; any other reads the image, and registers it, or is refused for its first failing check or for want of room. A PAIR_MODE that
this twin may do alone enters its mode; one that needs the partner waits.
Of this, where programs lie in the store is the model's choice (log 20). -/
def Obligations.ImmediateCommands : Prop :=
  ∀ (r : Running) (s : State), s.Live →
  (s.Runs r 0x00 → ∃ t, exec .nop s = .next t ∧ s.EndedWith r t { status := 0 } []) ∧
  (s.Runs r 0x01 → ∃ t, exec .config s = .next t ∧ ((List.range (pf r.ws 6 0 3)).foldl (fun s n =>
    regWrite s (pf r.ws (8 + 2 * n) 0 16) (w32 (nth r.ws (9 + 2 * n)))) s).EndedWith r t { status := 0 } []) ∧
  (s.Runs r 0x02 → nth r.ws 9 = 0 → ∃ t, exec .chainLoad s = .next t ∧ State.EndedWith { s with
    arch := { s.arch with progs := s.arch.progs.filter (fun e => e.id.toNat != pf r.ws 6 26 6) } } r t { status := 0 } []) ∧
  (∀ u buf ws, s.Runs r 0x02 → nth r.ws 9 ≠ 0 → s.port.faultOf 0 = none →
    s.askRun r (wantAt 0xFF (byteLines (pAddr r.ws) (nth r.ws 9))) = .ready u buf → bufWords buf (pAddr r.ws) (nth r.ws 9 / 4) = (ws, false) →
    (∀ why i, imageFault ws (nth r.ws 9) = some (why, i) → ∃ t, exec .chainLoad s = .next t ∧
      u.EndedWith { r with tilesDone := 0 } t { status := 0x07, reason := why, index := i } [16]) ∧
    (imageFault ws (nth r.ws 9) = none → u.arch.fits (pf r.ws 6 26 6) ws = false → ∃ t, exec .chainLoad s = .next t ∧
      u.EndedWith { r with tilesDone := 0 } t { status := 0x08 } [16]) ∧
    (imageFault ws (nth r.ws 9) = none → u.arch.fits (pf r.ws 6 26 6) ws = true → ∃ t, exec .chainLoad s = .next t ∧
      State.EndedWith { u with arch := placeProgs u.arch (u.arch.progList (pf r.ws 6 26 6) ws) } r t { status := 0 } [])) ∧
  (s.Runs r 0x0C → r.stage ≠ .waiting →
    (s.jointChange (pf r.ws 6 0 2) = true → exec .pairMode s = .next { s with run := some { r with stage := .waiting } }) ∧
    (s.jointChange (pf r.ws 6 0 2) = false → s.ring.waiting = [] → ∃ t, exec .pairMode s = .next t ∧ t.run = none ∧ t.arch = s.arch ∧
      t.queues = s.queues ∧ t.ring = { s.ring with waiting := [r.reply { status := 0 }] } ∧ t.pair.mode = modeOf (pf r.ws 6 0 2) ∧
      t.pair.stealing = (decide (pf r.ws 6 0 2 = 0) && bit (nth r.ws 6) 2)))

/-- 12 R278, R287, R289, R290, R291, 13 R330, R332, 16 R388, R391: a FENCE leaves the sequencer and waits in its queue, and a pre-emption request
that acted on it is spent. QUERY writes its report, then replies. RESUME begins its target's restore and replies when the target goes on, or,
when it cannot, after the target's final reply. ABORT ends its target with ST_ABORTED, then replies. DUSK begins Dusk. A DAWN is latched in
Dusk, one of each queue, and refused outside it.
Of this, the division into pieces, the fields that no table lists, and that a reply waits its turn are the model's (logs 4, 27 and 40), and in Dusk with no DAWN to
latch the row answers the state itself (log 2). -/
def Obligations.WaitingCommands : Prop :=
  ∀ (r : Running) (s : State), s.Live →
  (s.Runs r 0x0B → exec .fence s = .next { s.setQueue r.queue { s.queue r.queue with waitFence := some r.packet } with
    run := none, pow := { s.pow with preempt := s.pow.preemptKeep, preemptKeep := false, fenceStop := false } }) ∧
  (s.Runs r 0x11 → s.port.faultOf 0 = none → s.pair.mode ≠ .lockstep →
    (r.stage = .load → s.port.xlats = [] → s.port.outbox = [] → ∃ t, exec .query s = .next t ∧ t.run = some { r with stage := .trailer true } ∧
      t.port.outbox = plainBeats (pAddr r.ws) 256 (pack 32 ((List.range 64).map (reportWord s r))) 0 0 0xFF ∧
      t = { s with port := t.port, wires := t.wires, run := t.run }) ∧
    (r.stage = .trailer true → s.writesDone = true → ∃ t, exec .query s = .next t ∧ s.EndedWith r t { status := 0 } [])) ∧
  (∀ q, s.Runs r 0x0D → q = BitVec.ofNat 2 (pf r.ws 6 0 2) →
    (∀ p, r.stage = .load → (s.queue q).susp = some p → ∃ t, exec .resume s = .next t ∧
      t.run = some { r with stage := .restoring 0 } ∧ t.port.xlats = [] ∧ t.queues = s.queues ∧ t.arch = s.arch ∧ t.ring = s.ring ∧ t.cnt = s.cnt) ∧
    (∀ p u k, r.stage = .restoring k → (s.queue q).susp = some p → s.ring.waiting = [] →
      (s.resumeStep r p (s.queue q).ctxBase = .done u → ∃ t, exec .resume s = .next t ∧
        t.run = some (p.restored r.blockWords r.imageDescs) ∧ t.arch = u.arch ∧ t.queue q = { u.queue q with susp := none } ∧
        t.ring = { u.ring with waiting := u.ring.waiting ++ [r.reply { status := 0 }] }) ∧
      (s.resumeStep r p (s.queue q).ctxBase = .failed u → p.run.stolen = none → ∃ t v, exec .resume s = .next t ∧
        t.run = some { r with stage := .done, chunks := [] } ∧ t.err = { u.err with status := u.err.status ||| 0x200 } ∧
        v = u.setQueue q { u.queue q with susp := none } ∧ (u.ring.waiting = [] → p.run.claimed = [] →
          t.ring = { u.ring with waiting := [p.run.reply { status := 0x35 }] } ∧ t.cnt = u.cnt.raise 19 1 ∧ t.queue q = v.queue q))) ∧
    (r.stage = .done → s.ring.waiting = [] → ∃ t, exec .resume s = .next t ∧ s.EndedWith r t { status := 0x15 } []) ∧
    (r.stage = .load → (s.queue q).susp = none → ∃ t, exec .resume s = .next t ∧ s.EndedWith { r with tilesDone := 0 } t { status := 0x16 } [16])) ∧
  (∀ q, s.Runs r 0x0E → q = BitVec.ofNat 2 (pf r.ws 6 0 2) → r.stage ≠ .done → s.ring.waiting = [] →
    (∀ p, (s.queue q).susp = some p → pTag p.run.ws = nth r.ws 7 → ∃ t, exec .abort s = .next t ∧ t.run = some { r with stage := .done } ∧
      t.queue q = { s.queue q with susp := none } ∧ t.cnt = s.cnt.raise 19 1 ∧ t.arch = s.arch ∧
      t.ring = { s.ring with waiting := [p.run.reply { status := 0x35 }] }) ∧
    (∀ ws, s.suspendedTag q (nth r.ws 7) = false → (s.queue q).waitFence = some ws → pTag (nats ws) = nth r.ws 7 → ∃ t, exec .abort s = .next t ∧
      t.run = some { r with stage := .done } ∧ t.queue q = { s.queue q with waitFence := none } ∧ t.cnt = s.cnt.raise 19 1 ∧ t.arch = s.arch ∧
      t.ring = { s.ring with waiting := [replyOf q (pOp (nats ws)) (pTag (nats ws)) (pIrq (nats ws)) { status := 0x35 }] }) ∧
    (s.suspendedTag q (nth r.ws 7) = false → s.fenceTagWaits q (nth r.ws 7) = false → ∃ t, exec .abort s = .next t ∧
      s.EndedWith { r with tilesDone := 0 } t { status := 0x16 } [16])) ∧
  (s.Runs r 0x0E → r.stage = .done → s.ring.waiting = [] → ∃ t, exec .abort s = .next t ∧ s.EndedWith r t { status := 0 } []) ∧
  (s.Runs r 0x0E → s.ring.waiting ≠ [] → exec .abort s = .next s) ∧
  (s.Runs r 0x12 → ∃ t, exec .dusk s = .next t ∧ t.run = none ∧ t.pow.state = .dusk ∧ t.pow.dawnDone = false ∧
    t.pow.duskCommand = some (r.queue, r.packet) ∧ (∀ q, t.queue q = { s.queue q with fetch := .idle }) ∧ t.arch = s.arch ∧ t.num = s.num ∧
    t.cnt = s.cnt ∧ t.ring = s.ring ∧ t.pair.token = false ∧ t.pair.claim = none) ∧
  (∀ q ws, s.pow.state = .dusk → s.dawnHead = some (q, ws) → exec .dawn s = .next { s.setQueue q (s.queue q).advance with
    pow := { s.pow with latchedDawn := s.pow.latchedDawn ++ [(q, ws)], wakeLatched := true } }) ∧
  (s.pow.state = .dusk → s.dawnHead = none → exec .dawn s = .next s) ∧
  (s.Runs r 0x13 → s.pow.state ≠ .dusk → ∃ t, exec .dawn s = .next t ∧ s.EndedWith { r with tilesDone := 0 } t { status := 0x17 } [16])

/-- 13 R328, R333, 15 R443: CTX_SAVE writes the explicit image and then replies. CTX_RESTORE reads the state block, refuses one that is too long,
of the wrong kind, or whose CRC fails, and goes on with the chain store; when no suspended command's program is lost it takes the
block's map and programs, and it replies after the last section.
Of this, the division of a restore into pieces is the model's (logs 4 and 22). -/
def Obligations.ContextCommands : Prop :=
  ∀ (r : Running) (s : State), s.Live → s.port.faultOf 0 = none →
  (s.Runs r 0x0F → s.pair.mode ≠ .lockstep →
    (r.stage = .load → s.port.xlats = [] → s.port.outbox = [] → ∃ t, exec (.ctxSave []) s = .next t ∧ t.run = some { r with stage := .saving true } ∧
      t.arch = s.arch ∧ t.queues = s.queues ∧ t.ring = s.ring ∧ t.port.outbox = imageBeats (pAddr r.ws) s.arch.explicitImage) ∧
    (∀ b, r.stage = .saving b → s.writesDone = true → ∃ t, exec (.ctxSave []) s = .next t ∧ s.EndedWith r t { status := 0 } [])) ∧
  (∀ u buf ws, s.Runs r 0x10 → r.stage = .load → s.askImage r (pAddr r.ws) 0 32 = .ready u buf → bufWords buf (pAddr r.ws) 1024 = (ws, false) →
    (∀ why, (pf r.ws 9 0 16 * 1024 < nth ws 4 ∧ why = 1) ∨
        (¬pf r.ws 9 0 16 * 1024 < nth ws 4 ∧ (nth ws 0 ≠ 0x43580031 ∨ bits (nth ws 1) 30 2 ≠ 1) ∧ why = 2) ∨
        (¬pf r.ws 9 0 16 * 1024 < nth ws 4 ∧ nth ws 0 = 0x43580031 ∧ bits (nth ws 1) 30 2 = 1 ∧ nth ws 1023 ≠ crcWords (ws.take 1023) ∧ why = 3) →
      ∃ t, exec .ctxRestore s = .next t ∧ t.pair.ctxReason = why ∧
        State.EndedWith { u with pair := { u.pair with ctxReason := why } } { r with tilesDone := 0 } t { status := 0x15 } [16]) ∧
    (¬pf r.ws 9 0 16 * 1024 < nth ws 4 → nth ws 0 = 0x43580031 → bits (nth ws 1) 30 2 = 1 → nth ws 1023 = crcWords (ws.take 1023) →
      exec .ctxRestore s = .next { u with run := some { r with chunks := [(1000, 0, 0, ws)], stage := .staging 0 } })) ∧
  (∀ k, s.Runs r 0x10 → r.stage = .staging k → 128 ≤ k → s.restoreClobbers r r.blockWords = false → exec .ctxRestore s = .next { s with
    arch := { s.arch.restoreMap r.blockWords with progs := imageProgs r.blockWords }
    run := some { r with chunks := [(1000, 0, 0, r.blockWords)], stage := .restoring 32 } }) ∧
  (∀ k u, s.Runs r 0x10 → r.stage = .restoring k → s.restoreLines r (pAddr r.ws) k true = .done u → ∃ t, exec .ctxRestore s = .next t ∧
    u.EndedWith r t { status := 0 } [])

/-- 07 R182–R184, 10 R249, R257–R259, 12 R288, 06 R165, R166, 15 R360: a translation fault stops a command's own work until it suspends; lines that
are not here are awaited; a source tile that is here, gathered, converted or neither, becomes a destination tile whose writes wait for the
commit, and a quantised one its payload, scale, sidecar and row-scale tiles; a SEAL folds a tile into its CRC, and one that only checks ends
with ST_OK; a band of merged records waits for its commit; a poisoned source row ends a QUANTIZE.
Of this, the division into pieces, and how a merge reads its inputs, are the model's (logs 4, 23 and 24). -/
def Obligations.TensorCommands : Prop :=
  ∀ (r : Running) (s : State), s.Live →
  (s.port.faultOf 0 ≠ none → (s.Runs r 0x07 → exec (.copy .none) s = .next s) ∧ (s.Runs r 0x06 → exec (.quantize .none) s = .next s) ∧
    (s.Runs r 0x0A → exec .seal s = .next s) ∧ (s.Runs r 0x09 → exec (.partialMerge .none) s = .next s)) ∧
  (s.port.faultOf 0 = none →
    (∀ band, s.Runs r 0x07 → r.stage = .load → band = r.unit / (r.desc 1).ctiles false → r.has 2 = true → r.gatherIx (32 * band) = none →
      ∀ u buf, s.askRun r (wantAt 2 (bandLines (r.desc 2) false (32 * band) 0 1)) = .ready u buf → exec (.copy .none) s = .next { u with
        run := some { r with prod := { r.prod with index := keepIndex buf (r.desc 2) (32 * band) } } }) ∧
    (∀ u buf band ct c0 n rows src x l, s.Runs r 0x07 → r.stage = .load → band = r.unit / (r.desc 1).ctiles false →
      ct = r.unit % (r.desc 1).ctiles false → c0 = ct * tileWidth (r.desc 1).format → n = Nat.min (tileWidth (r.desc 1).format) ((r.desc 1).cLocal false - c0) →
      r.has 2 = false ∨ r.gatherIx (32 * band) ≠ none → rows = rowsIn ((r.desc 1).rLocal false) (32 * band) →
      (s.askRun r (wantAt 0 (copyLines r (32 * band) c0 n)) = .wait u → exec (.copy .none) s = .next u) ∧
      (s.askRun r (wantAt 0 (copyLines r (32 * band) c0 n)) = .ready u buf → src = (fun i => copyRow buf r (32 * band + i) c0 n) →
        x = tileStored {} r (r.desc 1) 1 band c0 (tileWidth (r.desc 1).format) (fun i => (l i, (src i).2)) →
        ((r.desc 0).format = (r.desc 1).format → l = (fun i => (src i).1) → exec (.copy .none) s = .next { u with run := some { r with
          pend := (r.pend.add 45 (if ct = 0 ∧ r.has 2 = true then gatherClamps r (r.desc 0) (32 * band) rows else 0)).stored x
          next := if (r.desc 1).sealOut then sealPart r.acc (r.desc 1) 1 band c0 (tileWidth (r.desc 1).format) l else r.acc
          kept := x.beats, stage := .commit false } }) ∧
        ((r.desc 0).format ≠ (r.desc 1).format → (∀ i, i < rows → (src i).2 = false) → ∃ (f : Nat → List Nat) (p : Pend) (next : Sparse Nat),
          exec (.copy .none) s = .next { u with run := some { r with
            pend := p, next := next, stage := .commit false
            kept := (tileStored {} r (r.desc 1) 1 band c0 (tileWidth (r.desc 1).format) (fun i => (f i, false))).beats } } ∧
          ∀ i, i < rows → ∃ a, f i = (convRow (r.tileBlk (r.desc 1) (pStream r.ws + 0x80) band ct) (r.desc 0).format (r.desc 1).format
            (r.classRnd (r.desc 1).cls) i (src i).1 a).1))) ∧
    (s.Runs r 0x0A → r.stage = .load → bit (nth r.ws 6) 0 = true → ∃ t, exec .seal s = .next t ∧ s.EndedWith r t { status := 0 } []) ∧
    (∀ u buf band ct c, s.Runs r 0x0A → r.stage = .load → bit (nth r.ws 6) 0 = false →
      band = r.unit / (r.desc 0).ctiles false → ct = r.unit % (r.desc 0).ctiles false →
      s.askRun r (wantAt 0 (bandLines (r.desc 0) false (32 * band) (ct * tileWidth (r.desc 0).format) (tileWidth (r.desc 0).format))) = .ready u buf →
      tileCrc buf (r.desc 0) band ct (sget 0 r.acc (bandKey band 0)) = (c, false) → exec .seal s = .next { u with run := some { r with
        next := sset 0 r.acc (bandKey band 0) c, acc := sset 0 r.acc (bandKey band 0) c, tilesDone := r.tilesDone + 1, pend := {}, kept := []
        unit := r.unit + 1
        stage := if r.unit + 1 ≥ (r.desc 0).bands false * (r.desc 0).ctiles false then .trailer false else .load } }) ∧
    (∀ u buf band ct c0 n rows src sc scaled, s.Runs r 0x06 → r.stage = .load → scaled = bit (nth r.ws 6) 21 →
      band = r.unit / (r.desc 1).ctiles false → ct = r.unit % (r.desc 1).ctiles false → c0 = ct * tileWidth (r.desc 1).format →
      n = Nat.min (tileWidth (r.desc 1).format) ((r.desc 1).cLocal false - c0) → rows = rowsIn ((r.desc 1).rLocal false) (32 * band) →
      s.askRun r (wantAt 0 (bandLines (r.desc 0) (r.desc 0).transpose (32 * band) c0 n) ++
        if scaled then wantAt 4 (bandLines (r.desc 4) (r.desc 4).transpose (32 * band) 0 1) else []) = .ready u buf →
      src = (fun i => readRow buf (r.desc 0) (r.desc 0).transpose none (32 * band + i) c0 n) → sc = (fun i => rowScale buf r (32 * band + i)) →
      ((∀ i, i < rows → (src i).2.2 = false ∧ (sc i).2 = false) → ∃ (x x2 x3 x4 : Stored) (p : Pend) (next : Sparse Nat) (f : Nat → QuantRow),
        exec (.quantize .none) s = .next { u with run := some { r with pend := p, next := next, kept := x4.beats, stage := .commit false } } ∧
        x = tileStored {} r (r.desc 1) 1 band c0 (tileWidth (r.desc 1).format) (fun i => ((f i).pay, false)) ∧
        x2 = tileStored x r (r.desc 2) 2 band (ct * (tileWidth (r.desc 1).format / 32)) (tileWidth (r.desc 1).format / 32)
          (fun i => ((f i).scales.take (cdiv n 32), false)) ∧
        x3 = (if r.has 3 then tileStored x2 r (r.desc 3) 3 band (ct * (tileWidth (r.desc 1).format / 16)) (tileWidth (r.desc 1).format / 16)
          (fun i => ((f i).side.take (2 * cdiv n 32), false)) else x2) ∧
        x4 = (if ct = 0 ∧ r.has 5 = true then tileStored x3 r (r.desc 5) 5 band 0 1
          (fun i => ([(convert r.cfg.ctx 0 0 0 (xscale (sc i).1 (toSigned 8 (pf r.ws 6 22 8)))).1], false)) else x3) ∧
        ∀ i, i < rows → ∃ a, f i = (quantRow (r.tileBlk (r.desc 1) (pStream r.ws + 0xC0) band ct) (r.desc 0).format (r.desc 1).format
          (r.classRnd (r.desc 1).cls) (pf r.ws 6 30 2) (toSigned 8 (pf r.ws 6 22 8)) i (sc i).1 (src i).1 a).1) ∧
      ((∃ i, i < rows ∧ (src i).2.2 = true) → s.ring.waiting = [] → ∃ t, exec (.quantize .none) s = .next t ∧ t.run = none ∧ t.arch = u.arch ∧
        t.err.status = u.err.status ||| 4 ∧ t.ring = { u.ring with waiting := [r.reply { status := 0x31, index := 0 }] })) ∧
    (s.Runs r 0x09 → r.stage = .load → r.chunks = [] → exec (.partialMerge .none) s = .next { s with run := some { r with pass := 1, stage := .staging 0 } }) ∧
    (∀ u buf h, s.Runs r 0x09 → r.stage = .staging 0 → r.pass < r.inputs →
      s.askRun r (wantAt r.pass (byteLines (r.desc r.pass).base 64)) = .ready u buf → bufWords buf (r.desc r.pass).base 16 = (h, false) →
      exec (.partialMerge .none) s = .next { u with run := some { r with chunks := r.chunks ++ [(0, r.pass, 0, h)], pass := r.pass + 1 } }) ∧
    (∀ u buf rows out per beats, s.Runs r 0x09 → r.stage = .load → r.chunks ≠ [] → r.unit < r.mergeBands →
      rows = Nat.min 32 (nth (r.header 1) 3 - 32 * r.unit) → s.askRun r (mergeLines r (32 * r.unit) rows) = .ready u buf →
      (∀ w ∈ mergeLines r (32 * r.unit) rows, (bufLine buf w.1).poison = false) →
      out = ((List.range rows).map (fun i => (mergeRowOut buf r (32 * r.unit + i)).1)).flatten →
      per = 4 * hRec (r.header 1) * r.outPerRow →
      beats = (if out = [] then [] else plainBeats (exportBody (r.desc 0) + 32 * r.unit * per) (4 * out.length) (pack 32 out) 0 0 0) →
      exec (.partialMerge .none) s = .next { u with run := some { r with
        pend := (List.range rows).foldl (fun p i => (p.add 29 (mergeRowOut buf r (32 * r.unit + i)).2.flushes).add 15
          (if (mergeRowOut buf r (32 * r.unit + i)).2.sat then 1 else 0)) {}
        next := sset 0 r.acc (bandKey r.unit 0) (crcRun (4 * out.length) 0 (pack 32 out)), kept := beats, stage := .commit false } }))

/-- 04 R93, R126, 03 R84, 15 R353, R354, R360, 01 R37, R38, 08 R218, 10 R249, 09 R226: a pass of a CHAIN_RUN or PARTIAL_EXPORT changes the storages as
the pass says and goes on to the next, or to the commit after the last. A pass that fails the residue check once runs again; one that
fails it twice, or meets poison, ends the command and changes no storage. An array command takes the token before it stages, when nobody can
contend for it or it is its turn; a simultaneous request is won by the twin that did not hold it last; until the partner gives it up it
waits. A PRODUCT_RUN takes its gather indices before its first segment; a LINK_RUN begins with the maximum of every row at minus infinity.
Of this, the division into pieces is the model's (log 4), and residue failures are operands (log 6). -/
def Obligations.ProgramPasses : Prop :=
  ∀ (r : Running) (s : State), s.Live → s.port.faultOf 0 = none →
  (∀ op band tile ph a p ch, op = 0x03 ∨ op = 0x08 → s.Runs r op → r.stage = .passes → r.walk.place r.unit = (band, tile, ph) →
    runPass s.arch (r.blk s r.walk band tile) (r.captured r.prog) (r.prog.pass r.pass) r.pend = .done a p ch →
    exec (if op = 0x03 then .chainRun .none else .partialExport .none) s = .next { s with
      arch := a, freeIx := s.freeIx + 1
      run := some { r with pend := p, pass := r.pass + 1, chunks := r.chunks ++ chunkWords r.prog ch
                           stage := if r.pass + 1 ≥ (r.walk.passes ph).2 then .commit false else .passes } }) ∧
  (∀ op band tile ph a p ch (f : ResidueFail), op = 0x03 ∨ op = 0x08 → s.Runs r op → r.stage = .passes → r.walk.place r.unit = (band, tile, ph) →
    runPass s.arch (r.blk s r.walk band tile) (r.captured r.prog) (r.prog.pass r.pass) r.pend = .done a p ch → f.unit = 0 →
    (f.twice = false → exec (if op = 0x03 then .chainRun ⟨[f], []⟩ else .partialExport ⟨[f], []⟩) s = .next { s with
      cnt := (s.cnt.raise 53 1).raise 54 1
      err := { s.err with status := s.err.status ||| 0x20 }
      arch := a, freeIx := s.freeIx + 1
      run := some { r with pend := p, pass := r.pass + 1, chunks := r.chunks ++ chunkWords r.prog ch
                           stage := if r.pass + 1 ≥ (r.walk.passes ph).2 then .commit false else .passes } }) ∧
    (f.twice = true → s.ring.waiting = [] → r.claimed = [] →
      ∃ t, exec (if op = 0x03 then .chainRun ⟨[f], []⟩ else .partialExport ⟨[f], []⟩) s = .next t ∧ t.run = none ∧ t.arch = s.arch ∧
      t.cnt = (s.cnt.raise 53 2).raise 54 1 ∧ t.err.status = s.err.status ||| 0x10 ∧ t.queues = s.queues ∧
      t.ring = { s.ring with waiting := [r.reply { status := 0x36 }] })) ∧
  (∀ op band tile ph u x, op = 0x03 ∨ op = 0x08 → s.Runs r op → r.stage = .passes → r.walk.place r.unit = (band, tile, ph) →
    runPass s.arch (r.blk s r.walk band tile) (r.captured r.prog) (r.prog.pass r.pass) r.pend = .poison u x → s.ring.waiting = [] → r.claimed = [] →
    ∃ t, exec (if op = 0x03 then .chainRun .none else .partialExport .none) s = .next t ∧ t.run = none ∧ t.arch = s.arch ∧
    t.cnt = s.cnt.raise 51 1 ∧ t.err.status = s.err.status ||| 4 ∧ t.queues = s.queues ∧
    t.ring = { s.ring with waiting := [r.reply { status := 0x31, index := 0xFF }] }) ∧
  (∀ op, op = 0x04 ∨ op = 0x05 → s.Runs r op → r.stage = .token →
    (s.pair.mode ≠ .split ∨ s.pair.detached = true → ∃ t, exec (if op = 0x04 then .productRun .none else .linkRun .none) s = .next t ∧
      t = { s with pair := t.pair, run := some { r with stage := .staging 0 } } ∧ t.pair.token = true ∧ t.pair.request = true) ∧
    (s.pair.mode = .split → s.pair.detached = false → s.pair.token = false →
      (s.straps.twinSide = true →
        exec (if op = 0x04 then .productRun .none else .linkRun .none) s = .next { s with pair := { s.pair with request := true } }) ∧
      (s.straps.twinSide = false → s.pair.grant = false → s.pair.partnerHeld = false →
        s.pair.partnerReq = false ∨ s.pair.everGranted = false ∨ s.pair.lastSelf = false →
        exec (if op = 0x04 then .productRun .none else .linkRun .none) s = .next { s with
          pair := { s.pair with request := true, token := true, everGranted := true, lastSelf := true }
          run := some { r with stage := .staging 0 } }) ∧
      (s.straps.twinSide = false → s.pair.grant = false → s.pair.partnerHeld = false → s.pair.partnerReq = true → s.pair.everGranted = true →
        s.pair.lastSelf = true → exec (if op = 0x04 then .productRun .none else .linkRun .none) s = .next { s with
          pair := { s.pair with request := true, grant := true, lastSelf := false } }))) ∧
  (∀ u buf, s.Runs r 0x04 → r.stage = .load →
    s.askRun r ((r.prodSeg (geomOf s.straps.mxaGeom)).indexLines r [(r.prodSeg (geomOf s.straps.mxaGeom)).a, (r.prodSeg (geomOf s.straps.mxaGeom)).b]) = .ready u buf →
    ∃ r1, exec (.productRun .none) s = .next { u with run := some r1 } ∧ r1 = { r with stage := .token, prod := r1.prod, pend := r1.pend }) ∧
  (s.Runs r 0x05 → r.stage = .load → r.link.begun = false → r.reports = [] → exec (.linkRun .none) s = .next { s with
    arch := r.initStats (geomOf s.straps.mxaGeom) s.arch (some f32NegInf) 0
    run := some { r with link := { begun := true, pass2 := !r.exactMode } } })

/-! ### Storages and encodings -/

/-- 01 R14, R17, R19, 00 R9, 13 R329: what a storage reads as after a write: the row written, and every other row as before; mask M0 is all ones
whatever is written; a row never written reads as zero; a written row's check agrees with its bytes and its register is dirty; a
counter saturates. -/
def Obligations.StorageLaws : Prop :=
  ∀ (a : Arch) (c : Counters), a.Canonical → c.Ok →
  (∀ n i m j t, i < 32 → j < 32 → (a.setRow n i t).row m j = if m = n ∧ j = i then t else a.row m j) ∧
  (∀ n i p f x d, i < 32 → n < 96 → ((a.setRow n i (freshRow p f x d)).row n i).bytes = d.toNat ∧
    ((a.setRow n i (freshRow p f x d)).row n i).mismatch = false ∧ (a.setRow n i (freshRow p f x d)).dirty.getLsbD n = true) ∧
  (∀ n i, (a.row n i).tag.valid = false → (a.row n i).bytes = 0) ∧
  (∀ m i v k j, i < 32 → j < 32 → (a.setMask m i v).maskRow k j = if m ≠ 0 ∧ k = m ∧ j = i then v else a.maskRow k j) ∧
  (∀ j, (a.maskRow 0 j).bits = BitVec.allOnes 256 ∧ (a.maskRow 0 j).poison = false) ∧
  (∀ n i v m j, i < 32 → j < 32 → (a.setSrow n i v).srow m j = if m = n ∧ j = i then v else a.srow m j) ∧
  (∀ k d p j, (a.setWasFresh k d p).wasRow j = if j = k then ⟨d, 0, p⟩ else a.wasRow j) ∧
  (∀ k n j, (c.raise k n).value j = if j = k then (if c.value k + n ≤ 0xFFFFFFFFFF then c.value k + n else 0xFFFFFFFFFF) else c.value j)

/-- 07 R177, R178: reading the sidecar word of a block beside its scale gives back its stars, and the word is well formed; the words of a zero block and of a
NaN block read as such. -/
def Obligations.SidecarRoundTrip : Prop :=
  ∀ (scale len : Nat), scale < 255 →
  readSidecar (sidecarWord []) scale len = (.stars [], false) ∧
  (∀ i v, i < 32 → i < len → v < 65536 → readSidecar (sidecarWord [(i, v)]) scale len = (.stars [(i, v)], false)) ∧
  (∀ i v j u, i < 32 → i < len → v < 65536 → j < 32 → j < len → u < 65536 → i ≠ j →
    readSidecar (sidecarWord [(i, v), (j, u)]) scale len = (.stars [(i, v), (j, u)], false)) ∧
  readSidecar zeroSidecar scale len = (.zero, false) ∧ readSidecar nanSidecar scale len = (.nan, false)
end

