-- ==== Sys2Proof/Laws/State.lean ====
section
/-! SUPPORT. What each operation over the state leaves: one lemma per field. -/

namespace Sys2Proof.Machine

open Sys2Proof

@[simp] theorem State.setQueue_arch (s : State) (q : BitVec 2) (v : Queue) : (State.setQueue s q v).arch = s.arch := rfl
@[simp] theorem State.setQueue_num (s : State) (q : BitVec 2) (v : Queue) : (State.setQueue s q v).num = s.num := rfl
@[simp] theorem State.setQueue_ring (s : State) (q : BitVec 2) (v : Queue) : (State.setQueue s q v).ring = s.ring := rfl
@[simp] theorem State.setQueue_trap (s : State) (q : BitVec 2) (v : Queue) : (State.setQueue s q v).trap = s.trap := rfl
@[simp] theorem State.setQueue_cnt (s : State) (q : BitVec 2) (v : Queue) : (State.setQueue s q v).cnt = s.cnt := rfl
@[simp] theorem State.setQueue_err (s : State) (q : BitVec 2) (v : Queue) : (State.setQueue s q v).err = s.err := rfl
@[simp] theorem State.setQueue_night (s : State) (q : BitVec 2) (v : Queue) : (State.setQueue s q v).night = s.night := rfl
@[simp] theorem State.setQueue_star (s : State) (q : BitVec 2) (v : Queue) : (State.setQueue s q v).star = s.star := rfl
@[simp] theorem State.setQueue_cal (s : State) (q : BitVec 2) (v : Queue) : (State.setQueue s q v).cal = s.cal := rfl
@[simp] theorem State.setQueue_dawn (s : State) (q : BitVec 2) (v : Queue) : (State.setQueue s q v).dawn = s.dawn := rfl
@[simp] theorem State.setQueue_pow (s : State) (q : BitVec 2) (v : Queue) : (State.setQueue s q v).pow = s.pow := rfl
@[simp] theorem State.setQueue_clk (s : State) (q : BitVec 2) (v : Queue) : (State.setQueue s q v).clk = s.clk := rfl
@[simp] theorem State.setQueue_pair (s : State) (q : BitVec 2) (v : Queue) : (State.setQueue s q v).pair = s.pair := rfl
@[simp] theorem State.setQueue_dbg (s : State) (q : BitVec 2) (v : Queue) : (State.setQueue s q v).dbg = s.dbg := rfl
@[simp] theorem State.setQueue_straps (s : State) (q : BitVec 2) (v : Queue) : (State.setQueue s q v).straps = s.straps := rfl
@[simp] theorem State.setQueue_port (s : State) (q : BitVec 2) (v : Queue) : (State.setQueue s q v).port = s.port := rfl
@[simp] theorem State.setQueue_run (s : State) (q : BitVec 2) (v : Queue) : (State.setQueue s q v).run = s.run := rfl
@[simp] theorem State.setQueue_wrap (s : State) (q : BitVec 2) (v : Queue) : (State.setQueue s q v).wrap = s.wrap := rfl
@[simp] theorem State.setQueue_wires (s : State) (q : BitVec 2) (v : Queue) : (State.setQueue s q v).wires = s.wires := rfl
@[simp] theorem State.setQueue_freeIx (s : State) (q : BitVec 2) (v : Queue) : (State.setQueue s q v).freeIx = s.freeIx := rfl
@[simp] theorem State.setQueue_pending (s : State) (q : BitVec 2) (v : Queue) : (State.setQueue s q v).pending = s.pending := rfl

@[simp] theorem State.count_arch (s : State) (k : Nat) : (State.count s k).arch = s.arch := rfl
@[simp] theorem State.count_num (s : State) (k : Nat) : (State.count s k).num = s.num := rfl
@[simp] theorem State.count_queues (s : State) (k : Nat) : (State.count s k).queues = s.queues := rfl
@[simp] theorem State.count_ring (s : State) (k : Nat) : (State.count s k).ring = s.ring := rfl
@[simp] theorem State.count_trap (s : State) (k : Nat) : (State.count s k).trap = s.trap := rfl
@[simp] theorem State.count_err (s : State) (k : Nat) : (State.count s k).err = s.err := rfl
@[simp] theorem State.count_night (s : State) (k : Nat) : (State.count s k).night = s.night := rfl
@[simp] theorem State.count_star (s : State) (k : Nat) : (State.count s k).star = s.star := rfl
@[simp] theorem State.count_cal (s : State) (k : Nat) : (State.count s k).cal = s.cal := rfl
@[simp] theorem State.count_dawn (s : State) (k : Nat) : (State.count s k).dawn = s.dawn := rfl
@[simp] theorem State.count_pow (s : State) (k : Nat) : (State.count s k).pow = s.pow := rfl
@[simp] theorem State.count_clk (s : State) (k : Nat) : (State.count s k).clk = s.clk := rfl
@[simp] theorem State.count_pair (s : State) (k : Nat) : (State.count s k).pair = s.pair := rfl
@[simp] theorem State.count_dbg (s : State) (k : Nat) : (State.count s k).dbg = s.dbg := rfl
@[simp] theorem State.count_straps (s : State) (k : Nat) : (State.count s k).straps = s.straps := rfl
@[simp] theorem State.count_port (s : State) (k : Nat) : (State.count s k).port = s.port := rfl
@[simp] theorem State.count_run (s : State) (k : Nat) : (State.count s k).run = s.run := rfl
@[simp] theorem State.count_wrap (s : State) (k : Nat) : (State.count s k).wrap = s.wrap := rfl
@[simp] theorem State.count_wires (s : State) (k : Nat) : (State.count s k).wires = s.wires := rfl
@[simp] theorem State.count_freeIx (s : State) (k : Nat) : (State.count s k).freeIx = s.freeIx := rfl
@[simp] theorem State.count_pending (s : State) (k : Nat) : (State.count s k).pending = s.pending := rfl

@[simp] theorem State.countBy_arch (s : State) (k n : Nat) : (State.countBy s k n).arch = s.arch := rfl
@[simp] theorem State.countBy_num (s : State) (k n : Nat) : (State.countBy s k n).num = s.num := rfl
@[simp] theorem State.countBy_queues (s : State) (k n : Nat) : (State.countBy s k n).queues = s.queues := rfl
@[simp] theorem State.countBy_ring (s : State) (k n : Nat) : (State.countBy s k n).ring = s.ring := rfl
@[simp] theorem State.countBy_trap (s : State) (k n : Nat) : (State.countBy s k n).trap = s.trap := rfl
@[simp] theorem State.countBy_err (s : State) (k n : Nat) : (State.countBy s k n).err = s.err := rfl
@[simp] theorem State.countBy_night (s : State) (k n : Nat) : (State.countBy s k n).night = s.night := rfl
@[simp] theorem State.countBy_star (s : State) (k n : Nat) : (State.countBy s k n).star = s.star := rfl
@[simp] theorem State.countBy_cal (s : State) (k n : Nat) : (State.countBy s k n).cal = s.cal := rfl
@[simp] theorem State.countBy_dawn (s : State) (k n : Nat) : (State.countBy s k n).dawn = s.dawn := rfl
@[simp] theorem State.countBy_pow (s : State) (k n : Nat) : (State.countBy s k n).pow = s.pow := rfl
@[simp] theorem State.countBy_clk (s : State) (k n : Nat) : (State.countBy s k n).clk = s.clk := rfl
@[simp] theorem State.countBy_pair (s : State) (k n : Nat) : (State.countBy s k n).pair = s.pair := rfl
@[simp] theorem State.countBy_dbg (s : State) (k n : Nat) : (State.countBy s k n).dbg = s.dbg := rfl
@[simp] theorem State.countBy_straps (s : State) (k n : Nat) : (State.countBy s k n).straps = s.straps := rfl
@[simp] theorem State.countBy_port (s : State) (k n : Nat) : (State.countBy s k n).port = s.port := rfl
@[simp] theorem State.countBy_run (s : State) (k n : Nat) : (State.countBy s k n).run = s.run := rfl
@[simp] theorem State.countBy_wrap (s : State) (k n : Nat) : (State.countBy s k n).wrap = s.wrap := rfl
@[simp] theorem State.countBy_wires (s : State) (k n : Nat) : (State.countBy s k n).wires = s.wires := rfl
@[simp] theorem State.countBy_freeIx (s : State) (k n : Nat) : (State.countBy s k n).freeIx = s.freeIx := rfl
@[simp] theorem State.countBy_pending (s : State) (k n : Nat) : (State.countBy s k n).pending = s.pending := rfl

@[simp] theorem State.drawFree_arch (s : State) : (State.drawFree s).arch = s.arch := rfl
@[simp] theorem State.drawFree_num (s : State) : (State.drawFree s).num = s.num := rfl
@[simp] theorem State.drawFree_queues (s : State) : (State.drawFree s).queues = s.queues := rfl
@[simp] theorem State.drawFree_ring (s : State) : (State.drawFree s).ring = s.ring := rfl
@[simp] theorem State.drawFree_trap (s : State) : (State.drawFree s).trap = s.trap := rfl
@[simp] theorem State.drawFree_cnt (s : State) : (State.drawFree s).cnt = s.cnt := rfl
@[simp] theorem State.drawFree_err (s : State) : (State.drawFree s).err = s.err := rfl
@[simp] theorem State.drawFree_night (s : State) : (State.drawFree s).night = s.night := rfl
@[simp] theorem State.drawFree_star (s : State) : (State.drawFree s).star = s.star := rfl
@[simp] theorem State.drawFree_cal (s : State) : (State.drawFree s).cal = s.cal := rfl
@[simp] theorem State.drawFree_dawn (s : State) : (State.drawFree s).dawn = s.dawn := rfl
@[simp] theorem State.drawFree_pow (s : State) : (State.drawFree s).pow = s.pow := rfl
@[simp] theorem State.drawFree_clk (s : State) : (State.drawFree s).clk = s.clk := rfl
@[simp] theorem State.drawFree_pair (s : State) : (State.drawFree s).pair = s.pair := rfl
@[simp] theorem State.drawFree_dbg (s : State) : (State.drawFree s).dbg = s.dbg := rfl
@[simp] theorem State.drawFree_straps (s : State) : (State.drawFree s).straps = s.straps := rfl
@[simp] theorem State.drawFree_port (s : State) : (State.drawFree s).port = s.port := rfl
@[simp] theorem State.drawFree_run (s : State) : (State.drawFree s).run = s.run := rfl
@[simp] theorem State.drawFree_wrap (s : State) : (State.drawFree s).wrap = s.wrap := rfl
@[simp] theorem State.drawFree_wires (s : State) : (State.drawFree s).wires = s.wires := rfl
@[simp] theorem State.drawFree_pending (s : State) : (State.drawFree s).pending = s.pending := rfl

@[simp] theorem State.raiseErr_arch (s : State) (k : Nat) : (State.raiseErr s k).arch = s.arch := rfl
@[simp] theorem State.raiseErr_num (s : State) (k : Nat) : (State.raiseErr s k).num = s.num := rfl
@[simp] theorem State.raiseErr_queues (s : State) (k : Nat) : (State.raiseErr s k).queues = s.queues := rfl
@[simp] theorem State.raiseErr_ring (s : State) (k : Nat) : (State.raiseErr s k).ring = s.ring := rfl
@[simp] theorem State.raiseErr_trap (s : State) (k : Nat) : (State.raiseErr s k).trap = s.trap := rfl
@[simp] theorem State.raiseErr_cnt (s : State) (k : Nat) : (State.raiseErr s k).cnt = s.cnt := rfl
@[simp] theorem State.raiseErr_night (s : State) (k : Nat) : (State.raiseErr s k).night = s.night := rfl
@[simp] theorem State.raiseErr_star (s : State) (k : Nat) : (State.raiseErr s k).star = s.star := rfl
@[simp] theorem State.raiseErr_cal (s : State) (k : Nat) : (State.raiseErr s k).cal = s.cal := rfl
@[simp] theorem State.raiseErr_dawn (s : State) (k : Nat) : (State.raiseErr s k).dawn = s.dawn := rfl
@[simp] theorem State.raiseErr_pow (s : State) (k : Nat) : (State.raiseErr s k).pow = s.pow := rfl
@[simp] theorem State.raiseErr_clk (s : State) (k : Nat) : (State.raiseErr s k).clk = s.clk := rfl
@[simp] theorem State.raiseErr_pair (s : State) (k : Nat) : (State.raiseErr s k).pair = s.pair := rfl
@[simp] theorem State.raiseErr_dbg (s : State) (k : Nat) : (State.raiseErr s k).dbg = s.dbg := rfl
@[simp] theorem State.raiseErr_straps (s : State) (k : Nat) : (State.raiseErr s k).straps = s.straps := rfl
@[simp] theorem State.raiseErr_port (s : State) (k : Nat) : (State.raiseErr s k).port = s.port := rfl
@[simp] theorem State.raiseErr_run (s : State) (k : Nat) : (State.raiseErr s k).run = s.run := rfl
@[simp] theorem State.raiseErr_wrap (s : State) (k : Nat) : (State.raiseErr s k).wrap = s.wrap := rfl
@[simp] theorem State.raiseErr_wires (s : State) (k : Nat) : (State.raiseErr s k).wires = s.wires := rfl
@[simp] theorem State.raiseErr_freeIx (s : State) (k : Nat) : (State.raiseErr s k).freeIx = s.freeIx := rfl
@[simp] theorem State.raiseErr_pending (s : State) (k : Nat) : (State.raiseErr s k).pending = s.pending := rfl

@[simp] theorem State.drive_arch (s : State) (w : Wire) : (State.drive s w).arch = s.arch := rfl
@[simp] theorem State.drive_num (s : State) (w : Wire) : (State.drive s w).num = s.num := rfl
@[simp] theorem State.drive_queues (s : State) (w : Wire) : (State.drive s w).queues = s.queues := rfl
@[simp] theorem State.drive_ring (s : State) (w : Wire) : (State.drive s w).ring = s.ring := rfl
@[simp] theorem State.drive_trap (s : State) (w : Wire) : (State.drive s w).trap = s.trap := rfl
@[simp] theorem State.drive_cnt (s : State) (w : Wire) : (State.drive s w).cnt = s.cnt := rfl
@[simp] theorem State.drive_err (s : State) (w : Wire) : (State.drive s w).err = s.err := rfl
@[simp] theorem State.drive_night (s : State) (w : Wire) : (State.drive s w).night = s.night := rfl
@[simp] theorem State.drive_star (s : State) (w : Wire) : (State.drive s w).star = s.star := rfl
@[simp] theorem State.drive_cal (s : State) (w : Wire) : (State.drive s w).cal = s.cal := rfl
@[simp] theorem State.drive_dawn (s : State) (w : Wire) : (State.drive s w).dawn = s.dawn := rfl
@[simp] theorem State.drive_pow (s : State) (w : Wire) : (State.drive s w).pow = s.pow := rfl
@[simp] theorem State.drive_clk (s : State) (w : Wire) : (State.drive s w).clk = s.clk := rfl
@[simp] theorem State.drive_pair (s : State) (w : Wire) : (State.drive s w).pair = s.pair := rfl
@[simp] theorem State.drive_dbg (s : State) (w : Wire) : (State.drive s w).dbg = s.dbg := rfl
@[simp] theorem State.drive_straps (s : State) (w : Wire) : (State.drive s w).straps = s.straps := rfl
@[simp] theorem State.drive_port (s : State) (w : Wire) : (State.drive s w).port = s.port := rfl
@[simp] theorem State.drive_run (s : State) (w : Wire) : (State.drive s w).run = s.run := rfl
@[simp] theorem State.drive_wrap (s : State) (w : Wire) : (State.drive s w).wrap = s.wrap := rfl
@[simp] theorem State.drive_freeIx (s : State) (w : Wire) : (State.drive s w).freeIx = s.freeIx := rfl
@[simp] theorem State.drive_pending (s : State) (w : Wire) : (State.drive s w).pending = s.pending := rfl

@[simp] theorem State.recordErr_arch (s : State) (q : BitVec 2) (e : ErrRec) : (State.recordErr s q e).arch = s.arch := by
  unfold State.recordErr
  (repeat' split) <;> simp
@[simp] theorem State.recordErr_num (s : State) (q : BitVec 2) (e : ErrRec) : (State.recordErr s q e).num = s.num := by
  unfold State.recordErr
  (repeat' split) <;> simp
@[simp] theorem State.recordErr_queues (s : State) (q : BitVec 2) (e : ErrRec) : (State.recordErr s q e).queues = s.queues := by
  unfold State.recordErr
  (repeat' split) <;> simp
@[simp] theorem State.recordErr_ring (s : State) (q : BitVec 2) (e : ErrRec) : (State.recordErr s q e).ring = s.ring := by
  unfold State.recordErr
  (repeat' split) <;> simp
@[simp] theorem State.recordErr_trap (s : State) (q : BitVec 2) (e : ErrRec) : (State.recordErr s q e).trap = s.trap := by
  unfold State.recordErr
  (repeat' split) <;> simp
@[simp] theorem State.recordErr_cnt (s : State) (q : BitVec 2) (e : ErrRec) : (State.recordErr s q e).cnt = s.cnt := by
  unfold State.recordErr
  (repeat' split) <;> simp
@[simp] theorem State.recordErr_night (s : State) (q : BitVec 2) (e : ErrRec) : (State.recordErr s q e).night = s.night := by
  unfold State.recordErr
  (repeat' split) <;> simp
@[simp] theorem State.recordErr_star (s : State) (q : BitVec 2) (e : ErrRec) : (State.recordErr s q e).star = s.star := by
  unfold State.recordErr
  (repeat' split) <;> simp
@[simp] theorem State.recordErr_cal (s : State) (q : BitVec 2) (e : ErrRec) : (State.recordErr s q e).cal = s.cal := by
  unfold State.recordErr
  (repeat' split) <;> simp
@[simp] theorem State.recordErr_dawn (s : State) (q : BitVec 2) (e : ErrRec) : (State.recordErr s q e).dawn = s.dawn := by
  unfold State.recordErr
  (repeat' split) <;> simp
@[simp] theorem State.recordErr_pow (s : State) (q : BitVec 2) (e : ErrRec) : (State.recordErr s q e).pow = s.pow := by
  unfold State.recordErr
  (repeat' split) <;> simp
@[simp] theorem State.recordErr_clk (s : State) (q : BitVec 2) (e : ErrRec) : (State.recordErr s q e).clk = s.clk := by
  unfold State.recordErr
  (repeat' split) <;> simp
@[simp] theorem State.recordErr_pair (s : State) (q : BitVec 2) (e : ErrRec) : (State.recordErr s q e).pair = s.pair := by
  unfold State.recordErr
  (repeat' split) <;> simp
@[simp] theorem State.recordErr_dbg (s : State) (q : BitVec 2) (e : ErrRec) : (State.recordErr s q e).dbg = s.dbg := by
  unfold State.recordErr
  (repeat' split) <;> simp
@[simp] theorem State.recordErr_straps (s : State) (q : BitVec 2) (e : ErrRec) : (State.recordErr s q e).straps = s.straps := by
  unfold State.recordErr
  (repeat' split) <;> simp
@[simp] theorem State.recordErr_port (s : State) (q : BitVec 2) (e : ErrRec) : (State.recordErr s q e).port = s.port := by
  unfold State.recordErr
  (repeat' split) <;> simp
@[simp] theorem State.recordErr_run (s : State) (q : BitVec 2) (e : ErrRec) : (State.recordErr s q e).run = s.run := by
  unfold State.recordErr
  (repeat' split) <;> simp
@[simp] theorem State.recordErr_wrap (s : State) (q : BitVec 2) (e : ErrRec) : (State.recordErr s q e).wrap = s.wrap := by
  unfold State.recordErr
  (repeat' split) <;> simp
@[simp] theorem State.recordErr_wires (s : State) (q : BitVec 2) (e : ErrRec) : (State.recordErr s q e).wires = s.wires := by
  unfold State.recordErr
  (repeat' split) <;> simp
@[simp] theorem State.recordErr_freeIx (s : State) (q : BitVec 2) (e : ErrRec) : (State.recordErr s q e).freeIx = s.freeIx := by
  unfold State.recordErr
  (repeat' split) <;> simp
@[simp] theorem State.recordErr_pending (s : State) (q : BitVec 2) (e : ErrRec) : (State.recordErr s q e).pending = s.pending := by
  unfold State.recordErr
  (repeat' split) <;> simp

@[simp] theorem State.post_arch (s : State) (bs : List WriteBeat) : (State.post s bs).arch = s.arch := rfl
@[simp] theorem State.post_num (s : State) (bs : List WriteBeat) : (State.post s bs).num = s.num := rfl
@[simp] theorem State.post_queues (s : State) (bs : List WriteBeat) : (State.post s bs).queues = s.queues := rfl
@[simp] theorem State.post_ring (s : State) (bs : List WriteBeat) : (State.post s bs).ring = s.ring := rfl
@[simp] theorem State.post_trap (s : State) (bs : List WriteBeat) : (State.post s bs).trap = s.trap := rfl
@[simp] theorem State.post_cnt (s : State) (bs : List WriteBeat) : (State.post s bs).cnt = s.cnt := rfl
@[simp] theorem State.post_err (s : State) (bs : List WriteBeat) : (State.post s bs).err = s.err := rfl
@[simp] theorem State.post_night (s : State) (bs : List WriteBeat) : (State.post s bs).night = s.night := rfl
@[simp] theorem State.post_star (s : State) (bs : List WriteBeat) : (State.post s bs).star = s.star := rfl
@[simp] theorem State.post_cal (s : State) (bs : List WriteBeat) : (State.post s bs).cal = s.cal := rfl
@[simp] theorem State.post_dawn (s : State) (bs : List WriteBeat) : (State.post s bs).dawn = s.dawn := rfl
@[simp] theorem State.post_pow (s : State) (bs : List WriteBeat) : (State.post s bs).pow = s.pow := rfl
@[simp] theorem State.post_clk (s : State) (bs : List WriteBeat) : (State.post s bs).clk = s.clk := rfl
@[simp] theorem State.post_pair (s : State) (bs : List WriteBeat) : (State.post s bs).pair = s.pair := rfl
@[simp] theorem State.post_dbg (s : State) (bs : List WriteBeat) : (State.post s bs).dbg = s.dbg := rfl
@[simp] theorem State.post_straps (s : State) (bs : List WriteBeat) : (State.post s bs).straps = s.straps := rfl
@[simp] theorem State.post_run (s : State) (bs : List WriteBeat) : (State.post s bs).run = s.run := rfl
@[simp] theorem State.post_wrap (s : State) (bs : List WriteBeat) : (State.post s bs).wrap = s.wrap := rfl
@[simp] theorem State.post_wires (s : State) (bs : List WriteBeat) : (State.post s bs).wires = s.wires := rfl
@[simp] theorem State.post_freeIx (s : State) (bs : List WriteBeat) : (State.post s bs).freeIx = s.freeIx := rfl
@[simp] theorem State.post_pending (s : State) (bs : List WriteBeat) : (State.post s bs).pending = s.pending := rfl

@[simp] theorem State.push_arch (s : State) (r : Reply) : (State.push s r).arch = s.arch := rfl
@[simp] theorem State.push_num (s : State) (r : Reply) : (State.push s r).num = s.num := rfl
@[simp] theorem State.push_queues (s : State) (r : Reply) : (State.push s r).queues = s.queues := rfl
@[simp] theorem State.push_trap (s : State) (r : Reply) : (State.push s r).trap = s.trap := rfl
@[simp] theorem State.push_cnt (s : State) (r : Reply) : (State.push s r).cnt = s.cnt := rfl
@[simp] theorem State.push_err (s : State) (r : Reply) : (State.push s r).err = s.err := rfl
@[simp] theorem State.push_night (s : State) (r : Reply) : (State.push s r).night = s.night := rfl
@[simp] theorem State.push_star (s : State) (r : Reply) : (State.push s r).star = s.star := rfl
@[simp] theorem State.push_cal (s : State) (r : Reply) : (State.push s r).cal = s.cal := rfl
@[simp] theorem State.push_dawn (s : State) (r : Reply) : (State.push s r).dawn = s.dawn := rfl
@[simp] theorem State.push_pow (s : State) (r : Reply) : (State.push s r).pow = s.pow := rfl
@[simp] theorem State.push_clk (s : State) (r : Reply) : (State.push s r).clk = s.clk := rfl
@[simp] theorem State.push_pair (s : State) (r : Reply) : (State.push s r).pair = s.pair := rfl
@[simp] theorem State.push_dbg (s : State) (r : Reply) : (State.push s r).dbg = s.dbg := rfl
@[simp] theorem State.push_straps (s : State) (r : Reply) : (State.push s r).straps = s.straps := rfl
@[simp] theorem State.push_port (s : State) (r : Reply) : (State.push s r).port = s.port := rfl
@[simp] theorem State.push_run (s : State) (r : Reply) : (State.push s r).run = s.run := rfl
@[simp] theorem State.push_wrap (s : State) (r : Reply) : (State.push s r).wrap = s.wrap := rfl
@[simp] theorem State.push_wires (s : State) (r : Reply) : (State.push s r).wires = s.wires := rfl
@[simp] theorem State.push_freeIx (s : State) (r : Reply) : (State.push s r).freeIx = s.freeIx := rfl
@[simp] theorem State.push_pending (s : State) (r : Reply) : (State.push s r).pending = s.pending := rfl

@[simp] theorem State.count_cnt (s : State) (k : Nat) : (State.count s k).cnt = s.cnt.raise k 1 := rfl
@[simp] theorem State.countBy_cnt (s : State) (k n : Nat) : (State.countBy s k n).cnt = s.cnt.raise k n := rfl
@[simp] theorem State.drawFree_freeIx (s : State) : (State.drawFree s).freeIx = s.freeIx + 1 := rfl
@[simp] theorem State.drive_wires (s : State) (w : Wire) : (State.drive s w).wires = w :: s.wires := rfl
@[simp] theorem State.setQueue_queues (s : State) (q : BitVec 2) (v : Queue) : (State.setQueue s q v).queues = s.queues.set q v := rfl
@[simp] theorem State.push_ring (s : State) (r : Reply) :
    (State.push s r).ring = { s.ring with waiting := s.ring.waiting ++ [r] } := rfl
@[simp] theorem State.post_port (s : State) (bs : List WriteBeat) :
    (State.post s bs).port = { s.port with outbox := s.port.outbox ++ bs } := rfl

/-! ### Queues by number -/

theorem queue_cases (q : BitVec 2) : q = 0 ∨ q = 1 ∨ q = 2 ∨ q = 3 := by
  have : ∀ q : BitVec 2, q = 0 ∨ q = 1 ∨ q = 2 ∨ q = 3 := by decide
  exact this q

@[simp] theorem Quad.get_set_self {α : Type} (x : Quad α) (q : BitVec 2) (v : α) : (x.set q v).get q = v := by
  rcases queue_cases q with rfl | rfl | rfl | rfl <;> rfl

theorem Quad.get_set_other {α : Type} (x : Quad α) (p q : BitVec 2) (v : α) (h : p ≠ q) : (x.set q v).get p = x.get p := by
  rcases queue_cases q with rfl | rfl | rfl | rfl <;> rcases queue_cases p with rfl | rfl | rfl | rfl <;>
    first | rfl | exact absurd rfl h

@[simp] theorem Quad.set_get {α : Type} (x : Quad α) (q : BitVec 2) : x.set q (x.get q) = x := by
  rcases queue_cases q with rfl | rfl | rfl | rfl <;> rfl

@[simp] theorem State.setQueue_self (s : State) (q : BitVec 2) (v : Queue) : (s.setQueue q v).queue q = v := Quad.get_set_self _ _ _

theorem State.setQueue_other (s : State) (p q : BitVec 2) (v : Queue) (h : p ≠ q) : (s.setQueue q v).queue p = s.queue p :=
  Quad.get_set_other _ _ _ _ h

theorem State.queue_of_queues {s t : State} (h : t.queues = s.queues) (q : BitVec 2) : t.queue q = s.queue q := by
  simp only [State.queue, h]

end Sys2Proof.Machine
end

