-- ==== Sys2Proof/Laws/Frames.lean ====
section
/-! SUPPORT. What the port and sequencing operations leave: one lemma per field. -/

namespace Sys2Proof.Machine

open Sys2Proof

/-- A fold of a step that leaves a field leaves it. -/
theorem foldl_frame {β γ : Type} (p : State → γ) (f : State → β → State) (h : ∀ s x, p (f s x) = p s) (l : List β) (s : State) :
    p (l.foldl f s) = p s := by
  induction l generalizing s with
  | nil => rfl
  | cons x l ih => exact (ih _).trans (h s x)

@[simp] theorem State.sendBeat_arch (s : State) (d : Line) (sb : BitVec 112) : (State.sendBeat s d sb).arch = s.arch := by
  unfold State.sendBeat
  (repeat' split) <;> simp
@[simp] theorem State.sendBeat_num (s : State) (d : Line) (sb : BitVec 112) : (State.sendBeat s d sb).num = s.num := by
  unfold State.sendBeat
  (repeat' split) <;> simp
@[simp] theorem State.sendBeat_queues (s : State) (d : Line) (sb : BitVec 112) : (State.sendBeat s d sb).queues = s.queues := by
  unfold State.sendBeat
  (repeat' split) <;> simp
@[simp] theorem State.sendBeat_ring (s : State) (d : Line) (sb : BitVec 112) : (State.sendBeat s d sb).ring = s.ring := by
  unfold State.sendBeat
  (repeat' split) <;> simp
@[simp] theorem State.sendBeat_trap (s : State) (d : Line) (sb : BitVec 112) : (State.sendBeat s d sb).trap = s.trap := by
  unfold State.sendBeat
  (repeat' split) <;> simp
@[simp] theorem State.sendBeat_cnt (s : State) (d : Line) (sb : BitVec 112) : (State.sendBeat s d sb).cnt = s.cnt := by
  unfold State.sendBeat
  (repeat' split) <;> simp
@[simp] theorem State.sendBeat_err (s : State) (d : Line) (sb : BitVec 112) : (State.sendBeat s d sb).err = s.err := by
  unfold State.sendBeat
  (repeat' split) <;> simp
@[simp] theorem State.sendBeat_night (s : State) (d : Line) (sb : BitVec 112) : (State.sendBeat s d sb).night = s.night := by
  unfold State.sendBeat
  (repeat' split) <;> simp
@[simp] theorem State.sendBeat_star (s : State) (d : Line) (sb : BitVec 112) : (State.sendBeat s d sb).star = s.star := by
  unfold State.sendBeat
  (repeat' split) <;> simp
@[simp] theorem State.sendBeat_cal (s : State) (d : Line) (sb : BitVec 112) : (State.sendBeat s d sb).cal = s.cal := by
  unfold State.sendBeat
  (repeat' split) <;> simp
@[simp] theorem State.sendBeat_dawn (s : State) (d : Line) (sb : BitVec 112) : (State.sendBeat s d sb).dawn = s.dawn := by
  unfold State.sendBeat
  (repeat' split) <;> simp
@[simp] theorem State.sendBeat_pow (s : State) (d : Line) (sb : BitVec 112) : (State.sendBeat s d sb).pow = s.pow := by
  unfold State.sendBeat
  (repeat' split) <;> simp
@[simp] theorem State.sendBeat_clk (s : State) (d : Line) (sb : BitVec 112) : (State.sendBeat s d sb).clk = s.clk := by
  unfold State.sendBeat
  (repeat' split) <;> simp
@[simp] theorem State.sendBeat_dbg (s : State) (d : Line) (sb : BitVec 112) : (State.sendBeat s d sb).dbg = s.dbg := by
  unfold State.sendBeat
  (repeat' split) <;> simp
@[simp] theorem State.sendBeat_straps (s : State) (d : Line) (sb : BitVec 112) : (State.sendBeat s d sb).straps = s.straps := by
  unfold State.sendBeat
  (repeat' split) <;> simp
@[simp] theorem State.sendBeat_port (s : State) (d : Line) (sb : BitVec 112) : (State.sendBeat s d sb).port = s.port := by
  unfold State.sendBeat
  (repeat' split) <;> simp
@[simp] theorem State.sendBeat_run (s : State) (d : Line) (sb : BitVec 112) : (State.sendBeat s d sb).run = s.run := by
  unfold State.sendBeat
  (repeat' split) <;> simp
@[simp] theorem State.sendBeat_wrap (s : State) (d : Line) (sb : BitVec 112) : (State.sendBeat s d sb).wrap = s.wrap := by
  unfold State.sendBeat
  (repeat' split) <;> simp
@[simp] theorem State.sendBeat_freeIx (s : State) (d : Line) (sb : BitVec 112) : (State.sendBeat s d sb).freeIx = s.freeIx := by
  unfold State.sendBeat
  (repeat' split) <;> simp
@[simp] theorem State.sendBeat_pending (s : State) (d : Line) (sb : BitVec 112) : (State.sendBeat s d sb).pending = s.pending := by
  unfold State.sendBeat
  (repeat' split) <;> simp

@[simp] theorem State.sendWaiting_arch (s : State) : (State.sendWaiting s).arch = s.arch := by
  unfold State.sendWaiting
  (repeat' split) <;> simp
@[simp] theorem State.sendWaiting_num (s : State) : (State.sendWaiting s).num = s.num := by
  unfold State.sendWaiting
  (repeat' split) <;> simp
@[simp] theorem State.sendWaiting_queues (s : State) : (State.sendWaiting s).queues = s.queues := by
  unfold State.sendWaiting
  (repeat' split) <;> simp
@[simp] theorem State.sendWaiting_ring (s : State) : (State.sendWaiting s).ring = s.ring := by
  unfold State.sendWaiting
  (repeat' split) <;> simp
@[simp] theorem State.sendWaiting_trap (s : State) : (State.sendWaiting s).trap = s.trap := by
  unfold State.sendWaiting
  (repeat' split) <;> simp
@[simp] theorem State.sendWaiting_cnt (s : State) : (State.sendWaiting s).cnt = s.cnt := by
  unfold State.sendWaiting
  (repeat' split) <;> simp
@[simp] theorem State.sendWaiting_err (s : State) : (State.sendWaiting s).err = s.err := by
  unfold State.sendWaiting
  (repeat' split) <;> simp
@[simp] theorem State.sendWaiting_night (s : State) : (State.sendWaiting s).night = s.night := by
  unfold State.sendWaiting
  (repeat' split) <;> simp
@[simp] theorem State.sendWaiting_star (s : State) : (State.sendWaiting s).star = s.star := by
  unfold State.sendWaiting
  (repeat' split) <;> simp
@[simp] theorem State.sendWaiting_cal (s : State) : (State.sendWaiting s).cal = s.cal := by
  unfold State.sendWaiting
  (repeat' split) <;> simp
@[simp] theorem State.sendWaiting_dawn (s : State) : (State.sendWaiting s).dawn = s.dawn := by
  unfold State.sendWaiting
  (repeat' split) <;> simp
@[simp] theorem State.sendWaiting_pow (s : State) : (State.sendWaiting s).pow = s.pow := by
  unfold State.sendWaiting
  (repeat' split) <;> simp
@[simp] theorem State.sendWaiting_clk (s : State) : (State.sendWaiting s).clk = s.clk := by
  unfold State.sendWaiting
  (repeat' split) <;> simp
@[simp] theorem State.sendWaiting_dbg (s : State) : (State.sendWaiting s).dbg = s.dbg := by
  unfold State.sendWaiting
  (repeat' split) <;> simp
@[simp] theorem State.sendWaiting_straps (s : State) : (State.sendWaiting s).straps = s.straps := by
  unfold State.sendWaiting
  (repeat' split) <;> simp
@[simp] theorem State.sendWaiting_port (s : State) : (State.sendWaiting s).port = s.port := by
  unfold State.sendWaiting
  (repeat' split) <;> simp
@[simp] theorem State.sendWaiting_run (s : State) : (State.sendWaiting s).run = s.run := by
  unfold State.sendWaiting
  (repeat' split) <;> simp
@[simp] theorem State.sendWaiting_wrap (s : State) : (State.sendWaiting s).wrap = s.wrap := by
  unfold State.sendWaiting
  (repeat' split) <;> simp
@[simp] theorem State.sendWaiting_freeIx (s : State) : (State.sendWaiting s).freeIx = s.freeIx := by
  unfold State.sendWaiting
  (repeat' split) <;> simp
@[simp] theorem State.sendWaiting_pending (s : State) : (State.sendWaiting s).pending = s.pending := by
  unfold State.sendWaiting
  (repeat' split) <;> simp

@[simp] theorem State.sendWords_arch (s : State) (kind : Nat) (ws : List Nat) : (State.sendWords s kind ws).arch = s.arch := foldl_frame (·.arch) _ (fun _ _ => by simp) _ _
@[simp] theorem State.sendWords_num (s : State) (kind : Nat) (ws : List Nat) : (State.sendWords s kind ws).num = s.num := foldl_frame (·.num) _ (fun _ _ => by simp) _ _
@[simp] theorem State.sendWords_queues (s : State) (kind : Nat) (ws : List Nat) : (State.sendWords s kind ws).queues = s.queues := foldl_frame (·.queues) _ (fun _ _ => by simp) _ _
@[simp] theorem State.sendWords_ring (s : State) (kind : Nat) (ws : List Nat) : (State.sendWords s kind ws).ring = s.ring := foldl_frame (·.ring) _ (fun _ _ => by simp) _ _
@[simp] theorem State.sendWords_trap (s : State) (kind : Nat) (ws : List Nat) : (State.sendWords s kind ws).trap = s.trap := foldl_frame (·.trap) _ (fun _ _ => by simp) _ _
@[simp] theorem State.sendWords_cnt (s : State) (kind : Nat) (ws : List Nat) : (State.sendWords s kind ws).cnt = s.cnt := foldl_frame (·.cnt) _ (fun _ _ => by simp) _ _
@[simp] theorem State.sendWords_err (s : State) (kind : Nat) (ws : List Nat) : (State.sendWords s kind ws).err = s.err := foldl_frame (·.err) _ (fun _ _ => by simp) _ _
@[simp] theorem State.sendWords_night (s : State) (kind : Nat) (ws : List Nat) : (State.sendWords s kind ws).night = s.night := foldl_frame (·.night) _ (fun _ _ => by simp) _ _
@[simp] theorem State.sendWords_star (s : State) (kind : Nat) (ws : List Nat) : (State.sendWords s kind ws).star = s.star := foldl_frame (·.star) _ (fun _ _ => by simp) _ _
@[simp] theorem State.sendWords_cal (s : State) (kind : Nat) (ws : List Nat) : (State.sendWords s kind ws).cal = s.cal := foldl_frame (·.cal) _ (fun _ _ => by simp) _ _
@[simp] theorem State.sendWords_dawn (s : State) (kind : Nat) (ws : List Nat) : (State.sendWords s kind ws).dawn = s.dawn := foldl_frame (·.dawn) _ (fun _ _ => by simp) _ _
@[simp] theorem State.sendWords_pow (s : State) (kind : Nat) (ws : List Nat) : (State.sendWords s kind ws).pow = s.pow := foldl_frame (·.pow) _ (fun _ _ => by simp) _ _
@[simp] theorem State.sendWords_clk (s : State) (kind : Nat) (ws : List Nat) : (State.sendWords s kind ws).clk = s.clk := foldl_frame (·.clk) _ (fun _ _ => by simp) _ _
@[simp] theorem State.sendWords_dbg (s : State) (kind : Nat) (ws : List Nat) : (State.sendWords s kind ws).dbg = s.dbg := foldl_frame (·.dbg) _ (fun _ _ => by simp) _ _
@[simp] theorem State.sendWords_straps (s : State) (kind : Nat) (ws : List Nat) : (State.sendWords s kind ws).straps = s.straps := foldl_frame (·.straps) _ (fun _ _ => by simp) _ _
@[simp] theorem State.sendWords_port (s : State) (kind : Nat) (ws : List Nat) : (State.sendWords s kind ws).port = s.port := foldl_frame (·.port) _ (fun _ _ => by simp) _ _
@[simp] theorem State.sendWords_run (s : State) (kind : Nat) (ws : List Nat) : (State.sendWords s kind ws).run = s.run := foldl_frame (·.run) _ (fun _ _ => by simp) _ _
@[simp] theorem State.sendWords_wrap (s : State) (kind : Nat) (ws : List Nat) : (State.sendWords s kind ws).wrap = s.wrap := foldl_frame (·.wrap) _ (fun _ _ => by simp) _ _
@[simp] theorem State.sendWords_freeIx (s : State) (kind : Nat) (ws : List Nat) : (State.sendWords s kind ws).freeIx = s.freeIx := foldl_frame (·.freeIx) _ (fun _ _ => by simp) _ _
@[simp] theorem State.sendWords_pending (s : State) (kind : Nat) (ws : List Nat) : (State.sendWords s kind ws).pending = s.pending := foldl_frame (·.pending) _ (fun _ _ => by simp) _ _

@[simp] theorem State.requestXlat_arch (s : State) (owner page kind pos va : Nat) : (State.requestXlat s owner page kind pos va).arch = s.arch := by
  unfold State.requestXlat
  (repeat' split) <;> simp
@[simp] theorem State.requestXlat_num (s : State) (owner page kind pos va : Nat) : (State.requestXlat s owner page kind pos va).num = s.num := by
  unfold State.requestXlat
  (repeat' split) <;> simp
@[simp] theorem State.requestXlat_queues (s : State) (owner page kind pos va : Nat) : (State.requestXlat s owner page kind pos va).queues = s.queues := by
  unfold State.requestXlat
  (repeat' split) <;> simp
@[simp] theorem State.requestXlat_ring (s : State) (owner page kind pos va : Nat) : (State.requestXlat s owner page kind pos va).ring = s.ring := by
  unfold State.requestXlat
  (repeat' split) <;> simp
@[simp] theorem State.requestXlat_trap (s : State) (owner page kind pos va : Nat) : (State.requestXlat s owner page kind pos va).trap = s.trap := by
  unfold State.requestXlat
  (repeat' split) <;> simp
@[simp] theorem State.requestXlat_cnt (s : State) (owner page kind pos va : Nat) : (State.requestXlat s owner page kind pos va).cnt = s.cnt := by
  unfold State.requestXlat
  (repeat' split) <;> simp
@[simp] theorem State.requestXlat_err (s : State) (owner page kind pos va : Nat) : (State.requestXlat s owner page kind pos va).err = s.err := by
  unfold State.requestXlat
  (repeat' split) <;> simp
@[simp] theorem State.requestXlat_night (s : State) (owner page kind pos va : Nat) : (State.requestXlat s owner page kind pos va).night = s.night := by
  unfold State.requestXlat
  (repeat' split) <;> simp
@[simp] theorem State.requestXlat_star (s : State) (owner page kind pos va : Nat) : (State.requestXlat s owner page kind pos va).star = s.star := by
  unfold State.requestXlat
  (repeat' split) <;> simp
@[simp] theorem State.requestXlat_cal (s : State) (owner page kind pos va : Nat) : (State.requestXlat s owner page kind pos va).cal = s.cal := by
  unfold State.requestXlat
  (repeat' split) <;> simp
@[simp] theorem State.requestXlat_dawn (s : State) (owner page kind pos va : Nat) : (State.requestXlat s owner page kind pos va).dawn = s.dawn := by
  unfold State.requestXlat
  (repeat' split) <;> simp
@[simp] theorem State.requestXlat_pow (s : State) (owner page kind pos va : Nat) : (State.requestXlat s owner page kind pos va).pow = s.pow := by
  unfold State.requestXlat
  (repeat' split) <;> simp
@[simp] theorem State.requestXlat_clk (s : State) (owner page kind pos va : Nat) : (State.requestXlat s owner page kind pos va).clk = s.clk := by
  unfold State.requestXlat
  (repeat' split) <;> simp
@[simp] theorem State.requestXlat_pair (s : State) (owner page kind pos va : Nat) : (State.requestXlat s owner page kind pos va).pair = s.pair := by
  unfold State.requestXlat
  (repeat' split) <;> simp
@[simp] theorem State.requestXlat_dbg (s : State) (owner page kind pos va : Nat) : (State.requestXlat s owner page kind pos va).dbg = s.dbg := by
  unfold State.requestXlat
  (repeat' split) <;> simp
@[simp] theorem State.requestXlat_straps (s : State) (owner page kind pos va : Nat) : (State.requestXlat s owner page kind pos va).straps = s.straps := by
  unfold State.requestXlat
  (repeat' split) <;> simp
@[simp] theorem State.requestXlat_run (s : State) (owner page kind pos va : Nat) : (State.requestXlat s owner page kind pos va).run = s.run := by
  unfold State.requestXlat
  (repeat' split) <;> simp
@[simp] theorem State.requestXlat_wrap (s : State) (owner page kind pos va : Nat) : (State.requestXlat s owner page kind pos va).wrap = s.wrap := by
  unfold State.requestXlat
  (repeat' split) <;> simp
@[simp] theorem State.requestXlat_freeIx (s : State) (owner page kind pos va : Nat) : (State.requestXlat s owner page kind pos va).freeIx = s.freeIx := by
  unfold State.requestXlat
  (repeat' split) <;> simp
@[simp] theorem State.requestXlat_pending (s : State) (owner page kind pos va : Nat) : (State.requestXlat s owner page kind pos va).pending = s.pending := by
  unfold State.requestXlat
  (repeat' split) <;> simp

@[simp] theorem State.dropXlats_arch (s : State) : (State.dropXlats s).arch = s.arch := rfl
@[simp] theorem State.dropXlats_num (s : State) : (State.dropXlats s).num = s.num := rfl
@[simp] theorem State.dropXlats_queues (s : State) : (State.dropXlats s).queues = s.queues := rfl
@[simp] theorem State.dropXlats_ring (s : State) : (State.dropXlats s).ring = s.ring := rfl
@[simp] theorem State.dropXlats_trap (s : State) : (State.dropXlats s).trap = s.trap := rfl
@[simp] theorem State.dropXlats_cnt (s : State) : (State.dropXlats s).cnt = s.cnt := rfl
@[simp] theorem State.dropXlats_err (s : State) : (State.dropXlats s).err = s.err := rfl
@[simp] theorem State.dropXlats_night (s : State) : (State.dropXlats s).night = s.night := rfl
@[simp] theorem State.dropXlats_star (s : State) : (State.dropXlats s).star = s.star := rfl
@[simp] theorem State.dropXlats_cal (s : State) : (State.dropXlats s).cal = s.cal := rfl
@[simp] theorem State.dropXlats_dawn (s : State) : (State.dropXlats s).dawn = s.dawn := rfl
@[simp] theorem State.dropXlats_pow (s : State) : (State.dropXlats s).pow = s.pow := rfl
@[simp] theorem State.dropXlats_clk (s : State) : (State.dropXlats s).clk = s.clk := rfl
@[simp] theorem State.dropXlats_pair (s : State) : (State.dropXlats s).pair = s.pair := rfl
@[simp] theorem State.dropXlats_dbg (s : State) : (State.dropXlats s).dbg = s.dbg := rfl
@[simp] theorem State.dropXlats_straps (s : State) : (State.dropXlats s).straps = s.straps := rfl
@[simp] theorem State.dropXlats_run (s : State) : (State.dropXlats s).run = s.run := rfl
@[simp] theorem State.dropXlats_wrap (s : State) : (State.dropXlats s).wrap = s.wrap := rfl
@[simp] theorem State.dropXlats_wires (s : State) : (State.dropXlats s).wires = s.wires := rfl
@[simp] theorem State.dropXlats_freeIx (s : State) : (State.dropXlats s).freeIx = s.freeIx := rfl
@[simp] theorem State.dropXlats_pending (s : State) : (State.dropXlats s).pending = s.pending := rfl

@[simp] theorem State.requestLine_arch (s : State) (owner kind : Nat) (cls : BitVec 2) (idx vline pos : Nat) : (State.requestLine s owner kind cls idx vline pos).arch = s.arch := by
  unfold State.requestLine
  dsimp only
  (repeat' split) <;> simp_all
@[simp] theorem State.requestLine_num (s : State) (owner kind : Nat) (cls : BitVec 2) (idx vline pos : Nat) : (State.requestLine s owner kind cls idx vline pos).num = s.num := by
  unfold State.requestLine
  dsimp only
  (repeat' split) <;> simp_all
@[simp] theorem State.requestLine_queues (s : State) (owner kind : Nat) (cls : BitVec 2) (idx vline pos : Nat) : (State.requestLine s owner kind cls idx vline pos).queues = s.queues := by
  unfold State.requestLine
  dsimp only
  (repeat' split) <;> simp_all
@[simp] theorem State.requestLine_ring (s : State) (owner kind : Nat) (cls : BitVec 2) (idx vline pos : Nat) : (State.requestLine s owner kind cls idx vline pos).ring = s.ring := by
  unfold State.requestLine
  dsimp only
  (repeat' split) <;> simp_all
@[simp] theorem State.requestLine_trap (s : State) (owner kind : Nat) (cls : BitVec 2) (idx vline pos : Nat) : (State.requestLine s owner kind cls idx vline pos).trap = s.trap := by
  unfold State.requestLine
  dsimp only
  (repeat' split) <;> simp_all
@[simp] theorem State.requestLine_cnt (s : State) (owner kind : Nat) (cls : BitVec 2) (idx vline pos : Nat) : (State.requestLine s owner kind cls idx vline pos).cnt = s.cnt := by
  unfold State.requestLine
  dsimp only
  (repeat' split) <;> simp_all
@[simp] theorem State.requestLine_err (s : State) (owner kind : Nat) (cls : BitVec 2) (idx vline pos : Nat) : (State.requestLine s owner kind cls idx vline pos).err = s.err := by
  unfold State.requestLine
  dsimp only
  (repeat' split) <;> simp_all
@[simp] theorem State.requestLine_night (s : State) (owner kind : Nat) (cls : BitVec 2) (idx vline pos : Nat) : (State.requestLine s owner kind cls idx vline pos).night = s.night := by
  unfold State.requestLine
  dsimp only
  (repeat' split) <;> simp_all
@[simp] theorem State.requestLine_star (s : State) (owner kind : Nat) (cls : BitVec 2) (idx vline pos : Nat) : (State.requestLine s owner kind cls idx vline pos).star = s.star := by
  unfold State.requestLine
  dsimp only
  (repeat' split) <;> simp_all
@[simp] theorem State.requestLine_cal (s : State) (owner kind : Nat) (cls : BitVec 2) (idx vline pos : Nat) : (State.requestLine s owner kind cls idx vline pos).cal = s.cal := by
  unfold State.requestLine
  dsimp only
  (repeat' split) <;> simp_all
@[simp] theorem State.requestLine_dawn (s : State) (owner kind : Nat) (cls : BitVec 2) (idx vline pos : Nat) : (State.requestLine s owner kind cls idx vline pos).dawn = s.dawn := by
  unfold State.requestLine
  dsimp only
  (repeat' split) <;> simp_all
@[simp] theorem State.requestLine_pow (s : State) (owner kind : Nat) (cls : BitVec 2) (idx vline pos : Nat) : (State.requestLine s owner kind cls idx vline pos).pow = s.pow := by
  unfold State.requestLine
  dsimp only
  (repeat' split) <;> simp_all
@[simp] theorem State.requestLine_clk (s : State) (owner kind : Nat) (cls : BitVec 2) (idx vline pos : Nat) : (State.requestLine s owner kind cls idx vline pos).clk = s.clk := by
  unfold State.requestLine
  dsimp only
  (repeat' split) <;> simp_all
@[simp] theorem State.requestLine_pair (s : State) (owner kind : Nat) (cls : BitVec 2) (idx vline pos : Nat) : (State.requestLine s owner kind cls idx vline pos).pair = s.pair := by
  unfold State.requestLine
  dsimp only
  (repeat' split) <;> simp_all
@[simp] theorem State.requestLine_dbg (s : State) (owner kind : Nat) (cls : BitVec 2) (idx vline pos : Nat) : (State.requestLine s owner kind cls idx vline pos).dbg = s.dbg := by
  unfold State.requestLine
  dsimp only
  (repeat' split) <;> simp_all
@[simp] theorem State.requestLine_straps (s : State) (owner kind : Nat) (cls : BitVec 2) (idx vline pos : Nat) : (State.requestLine s owner kind cls idx vline pos).straps = s.straps := by
  unfold State.requestLine
  dsimp only
  (repeat' split) <;> simp_all
@[simp] theorem State.requestLine_run (s : State) (owner kind : Nat) (cls : BitVec 2) (idx vline pos : Nat) : (State.requestLine s owner kind cls idx vline pos).run = s.run := by
  unfold State.requestLine
  dsimp only
  (repeat' split) <;> simp_all
@[simp] theorem State.requestLine_wrap (s : State) (owner kind : Nat) (cls : BitVec 2) (idx vline pos : Nat) : (State.requestLine s owner kind cls idx vline pos).wrap = s.wrap := by
  unfold State.requestLine
  dsimp only
  (repeat' split) <;> simp_all
@[simp] theorem State.requestLine_freeIx (s : State) (owner kind : Nat) (cls : BitVec 2) (idx vline pos : Nat) : (State.requestLine s owner kind cls idx vline pos).freeIx = s.freeIx := by
  unfold State.requestLine
  dsimp only
  (repeat' split) <;> simp_all
@[simp] theorem State.requestLine_pending (s : State) (owner kind : Nat) (cls : BitVec 2) (idx vline pos : Nat) : (State.requestLine s owner kind cls idx vline pos).pending = s.pending := by
  unfold State.requestLine
  dsimp only
  (repeat' split) <;> simp_all

@[simp] theorem State.dropReads_arch (s : State) (owner : Nat) : (State.dropReads s owner).arch = s.arch := rfl
@[simp] theorem State.dropReads_num (s : State) (owner : Nat) : (State.dropReads s owner).num = s.num := rfl
@[simp] theorem State.dropReads_queues (s : State) (owner : Nat) : (State.dropReads s owner).queues = s.queues := rfl
@[simp] theorem State.dropReads_ring (s : State) (owner : Nat) : (State.dropReads s owner).ring = s.ring := rfl
@[simp] theorem State.dropReads_trap (s : State) (owner : Nat) : (State.dropReads s owner).trap = s.trap := rfl
@[simp] theorem State.dropReads_cnt (s : State) (owner : Nat) : (State.dropReads s owner).cnt = s.cnt := rfl
@[simp] theorem State.dropReads_err (s : State) (owner : Nat) : (State.dropReads s owner).err = s.err := rfl
@[simp] theorem State.dropReads_night (s : State) (owner : Nat) : (State.dropReads s owner).night = s.night := rfl
@[simp] theorem State.dropReads_star (s : State) (owner : Nat) : (State.dropReads s owner).star = s.star := rfl
@[simp] theorem State.dropReads_cal (s : State) (owner : Nat) : (State.dropReads s owner).cal = s.cal := rfl
@[simp] theorem State.dropReads_dawn (s : State) (owner : Nat) : (State.dropReads s owner).dawn = s.dawn := rfl
@[simp] theorem State.dropReads_pow (s : State) (owner : Nat) : (State.dropReads s owner).pow = s.pow := rfl
@[simp] theorem State.dropReads_clk (s : State) (owner : Nat) : (State.dropReads s owner).clk = s.clk := rfl
@[simp] theorem State.dropReads_pair (s : State) (owner : Nat) : (State.dropReads s owner).pair = s.pair := rfl
@[simp] theorem State.dropReads_dbg (s : State) (owner : Nat) : (State.dropReads s owner).dbg = s.dbg := rfl
@[simp] theorem State.dropReads_straps (s : State) (owner : Nat) : (State.dropReads s owner).straps = s.straps := rfl
@[simp] theorem State.dropReads_run (s : State) (owner : Nat) : (State.dropReads s owner).run = s.run := rfl
@[simp] theorem State.dropReads_wrap (s : State) (owner : Nat) : (State.dropReads s owner).wrap = s.wrap := rfl
@[simp] theorem State.dropReads_wires (s : State) (owner : Nat) : (State.dropReads s owner).wires = s.wires := rfl
@[simp] theorem State.dropReads_freeIx (s : State) (owner : Nat) : (State.dropReads s owner).freeIx = s.freeIx := rfl
@[simp] theorem State.dropReads_pending (s : State) (owner : Nat) : (State.dropReads s owner).pending = s.pending := rfl

@[simp] theorem State.driveWrite_arch (s : State) (b : WriteBeat) (tag : BitVec 6) (line : BitVec 45) : (State.driveWrite s b tag line).arch = s.arch := rfl
@[simp] theorem State.driveWrite_num (s : State) (b : WriteBeat) (tag : BitVec 6) (line : BitVec 45) : (State.driveWrite s b tag line).num = s.num := rfl
@[simp] theorem State.driveWrite_queues (s : State) (b : WriteBeat) (tag : BitVec 6) (line : BitVec 45) : (State.driveWrite s b tag line).queues = s.queues := rfl
@[simp] theorem State.driveWrite_ring (s : State) (b : WriteBeat) (tag : BitVec 6) (line : BitVec 45) : (State.driveWrite s b tag line).ring = s.ring := rfl
@[simp] theorem State.driveWrite_trap (s : State) (b : WriteBeat) (tag : BitVec 6) (line : BitVec 45) : (State.driveWrite s b tag line).trap = s.trap := rfl
@[simp] theorem State.driveWrite_cnt (s : State) (b : WriteBeat) (tag : BitVec 6) (line : BitVec 45) : (State.driveWrite s b tag line).cnt = s.cnt := rfl
@[simp] theorem State.driveWrite_err (s : State) (b : WriteBeat) (tag : BitVec 6) (line : BitVec 45) : (State.driveWrite s b tag line).err = s.err := rfl
@[simp] theorem State.driveWrite_night (s : State) (b : WriteBeat) (tag : BitVec 6) (line : BitVec 45) : (State.driveWrite s b tag line).night = s.night := rfl
@[simp] theorem State.driveWrite_cal (s : State) (b : WriteBeat) (tag : BitVec 6) (line : BitVec 45) : (State.driveWrite s b tag line).cal = s.cal := rfl
@[simp] theorem State.driveWrite_dawn (s : State) (b : WriteBeat) (tag : BitVec 6) (line : BitVec 45) : (State.driveWrite s b tag line).dawn = s.dawn := rfl
@[simp] theorem State.driveWrite_pow (s : State) (b : WriteBeat) (tag : BitVec 6) (line : BitVec 45) : (State.driveWrite s b tag line).pow = s.pow := rfl
@[simp] theorem State.driveWrite_clk (s : State) (b : WriteBeat) (tag : BitVec 6) (line : BitVec 45) : (State.driveWrite s b tag line).clk = s.clk := rfl
@[simp] theorem State.driveWrite_pair (s : State) (b : WriteBeat) (tag : BitVec 6) (line : BitVec 45) : (State.driveWrite s b tag line).pair = s.pair := rfl
@[simp] theorem State.driveWrite_dbg (s : State) (b : WriteBeat) (tag : BitVec 6) (line : BitVec 45) : (State.driveWrite s b tag line).dbg = s.dbg := rfl
@[simp] theorem State.driveWrite_straps (s : State) (b : WriteBeat) (tag : BitVec 6) (line : BitVec 45) : (State.driveWrite s b tag line).straps = s.straps := rfl
@[simp] theorem State.driveWrite_run (s : State) (b : WriteBeat) (tag : BitVec 6) (line : BitVec 45) : (State.driveWrite s b tag line).run = s.run := rfl
@[simp] theorem State.driveWrite_wrap (s : State) (b : WriteBeat) (tag : BitVec 6) (line : BitVec 45) : (State.driveWrite s b tag line).wrap = s.wrap := rfl
@[simp] theorem State.driveWrite_freeIx (s : State) (b : WriteBeat) (tag : BitVec 6) (line : BitVec 45) : (State.driveWrite s b tag line).freeIx = s.freeIx := rfl
@[simp] theorem State.driveWrite_pending (s : State) (b : WriteBeat) (tag : BitVec 6) (line : BitVec 45) : (State.driveWrite s b tag line).pending = s.pending := rfl

@[simp] theorem State.issueWrite_arch (s : State) (b : WriteBeat) : (State.issueWrite s b).1.arch = s.arch := by
  unfold State.issueWrite
  (repeat' split) <;> simp
@[simp] theorem State.issueWrite_num (s : State) (b : WriteBeat) : (State.issueWrite s b).1.num = s.num := by
  unfold State.issueWrite
  (repeat' split) <;> simp
@[simp] theorem State.issueWrite_queues (s : State) (b : WriteBeat) : (State.issueWrite s b).1.queues = s.queues := by
  unfold State.issueWrite
  (repeat' split) <;> simp
@[simp] theorem State.issueWrite_ring (s : State) (b : WriteBeat) : (State.issueWrite s b).1.ring = s.ring := by
  unfold State.issueWrite
  (repeat' split) <;> simp
@[simp] theorem State.issueWrite_trap (s : State) (b : WriteBeat) : (State.issueWrite s b).1.trap = s.trap := by
  unfold State.issueWrite
  (repeat' split) <;> simp
@[simp] theorem State.issueWrite_cnt (s : State) (b : WriteBeat) : (State.issueWrite s b).1.cnt = s.cnt := by
  unfold State.issueWrite
  (repeat' split) <;> simp
@[simp] theorem State.issueWrite_err (s : State) (b : WriteBeat) : (State.issueWrite s b).1.err = s.err := by
  unfold State.issueWrite
  (repeat' split) <;> simp
@[simp] theorem State.issueWrite_night (s : State) (b : WriteBeat) : (State.issueWrite s b).1.night = s.night := by
  unfold State.issueWrite
  (repeat' split) <;> simp
@[simp] theorem State.issueWrite_cal (s : State) (b : WriteBeat) : (State.issueWrite s b).1.cal = s.cal := by
  unfold State.issueWrite
  (repeat' split) <;> simp
@[simp] theorem State.issueWrite_dawn (s : State) (b : WriteBeat) : (State.issueWrite s b).1.dawn = s.dawn := by
  unfold State.issueWrite
  (repeat' split) <;> simp
@[simp] theorem State.issueWrite_pow (s : State) (b : WriteBeat) : (State.issueWrite s b).1.pow = s.pow := by
  unfold State.issueWrite
  (repeat' split) <;> simp
@[simp] theorem State.issueWrite_clk (s : State) (b : WriteBeat) : (State.issueWrite s b).1.clk = s.clk := by
  unfold State.issueWrite
  (repeat' split) <;> simp
@[simp] theorem State.issueWrite_dbg (s : State) (b : WriteBeat) : (State.issueWrite s b).1.dbg = s.dbg := by
  unfold State.issueWrite
  (repeat' split) <;> simp
@[simp] theorem State.issueWrite_straps (s : State) (b : WriteBeat) : (State.issueWrite s b).1.straps = s.straps := by
  unfold State.issueWrite
  (repeat' split) <;> simp
@[simp] theorem State.issueWrite_run (s : State) (b : WriteBeat) : (State.issueWrite s b).1.run = s.run := by
  unfold State.issueWrite
  (repeat' split) <;> simp
@[simp] theorem State.issueWrite_wrap (s : State) (b : WriteBeat) : (State.issueWrite s b).1.wrap = s.wrap := by
  unfold State.issueWrite
  (repeat' split) <;> simp
@[simp] theorem State.issueWrite_freeIx (s : State) (b : WriteBeat) : (State.issueWrite s b).1.freeIx = s.freeIx := by
  unfold State.issueWrite
  (repeat' split) <;> simp
@[simp] theorem State.issueWrite_pending (s : State) (b : WriteBeat) : (State.issueWrite s b).1.pending = s.pending := by
  unfold State.issueWrite
  (repeat' split) <;> simp

@[simp] theorem State.dropOutbox_arch (s : State) : (State.dropOutbox s).arch = s.arch := rfl
@[simp] theorem State.dropOutbox_num (s : State) : (State.dropOutbox s).num = s.num := rfl
@[simp] theorem State.dropOutbox_queues (s : State) : (State.dropOutbox s).queues = s.queues := rfl
@[simp] theorem State.dropOutbox_ring (s : State) : (State.dropOutbox s).ring = s.ring := rfl
@[simp] theorem State.dropOutbox_trap (s : State) : (State.dropOutbox s).trap = s.trap := rfl
@[simp] theorem State.dropOutbox_cnt (s : State) : (State.dropOutbox s).cnt = s.cnt := rfl
@[simp] theorem State.dropOutbox_err (s : State) : (State.dropOutbox s).err = s.err := rfl
@[simp] theorem State.dropOutbox_night (s : State) : (State.dropOutbox s).night = s.night := rfl
@[simp] theorem State.dropOutbox_star (s : State) : (State.dropOutbox s).star = s.star := rfl
@[simp] theorem State.dropOutbox_cal (s : State) : (State.dropOutbox s).cal = s.cal := rfl
@[simp] theorem State.dropOutbox_dawn (s : State) : (State.dropOutbox s).dawn = s.dawn := rfl
@[simp] theorem State.dropOutbox_pow (s : State) : (State.dropOutbox s).pow = s.pow := rfl
@[simp] theorem State.dropOutbox_clk (s : State) : (State.dropOutbox s).clk = s.clk := rfl
@[simp] theorem State.dropOutbox_dbg (s : State) : (State.dropOutbox s).dbg = s.dbg := rfl
@[simp] theorem State.dropOutbox_straps (s : State) : (State.dropOutbox s).straps = s.straps := rfl
@[simp] theorem State.dropOutbox_run (s : State) : (State.dropOutbox s).run = s.run := rfl
@[simp] theorem State.dropOutbox_wrap (s : State) : (State.dropOutbox s).wrap = s.wrap := rfl
@[simp] theorem State.dropOutbox_wires (s : State) : (State.dropOutbox s).wires = s.wires := rfl
@[simp] theorem State.dropOutbox_freeIx (s : State) : (State.dropOutbox s).freeIx = s.freeIx := rfl
@[simp] theorem State.dropOutbox_pending (s : State) : (State.dropOutbox s).pending = s.pending := rfl

@[simp] theorem State.stray_arch (s : State) : (State.stray s).arch = s.arch := rfl
@[simp] theorem State.stray_num (s : State) : (State.stray s).num = s.num := rfl
@[simp] theorem State.stray_queues (s : State) : (State.stray s).queues = s.queues := rfl
@[simp] theorem State.stray_ring (s : State) : (State.stray s).ring = s.ring := rfl
@[simp] theorem State.stray_trap (s : State) : (State.stray s).trap = s.trap := rfl
@[simp] theorem State.stray_err (s : State) : (State.stray s).err = s.err := rfl
@[simp] theorem State.stray_night (s : State) : (State.stray s).night = s.night := rfl
@[simp] theorem State.stray_star (s : State) : (State.stray s).star = s.star := rfl
@[simp] theorem State.stray_cal (s : State) : (State.stray s).cal = s.cal := rfl
@[simp] theorem State.stray_dawn (s : State) : (State.stray s).dawn = s.dawn := rfl
@[simp] theorem State.stray_pow (s : State) : (State.stray s).pow = s.pow := rfl
@[simp] theorem State.stray_clk (s : State) : (State.stray s).clk = s.clk := rfl
@[simp] theorem State.stray_pair (s : State) : (State.stray s).pair = s.pair := rfl
@[simp] theorem State.stray_dbg (s : State) : (State.stray s).dbg = s.dbg := rfl
@[simp] theorem State.stray_straps (s : State) : (State.stray s).straps = s.straps := rfl
@[simp] theorem State.stray_port (s : State) : (State.stray s).port = s.port := rfl
@[simp] theorem State.stray_run (s : State) : (State.stray s).run = s.run := rfl
@[simp] theorem State.stray_wrap (s : State) : (State.stray s).wrap = s.wrap := rfl
@[simp] theorem State.stray_wires (s : State) : (State.stray s).wires = s.wires := rfl
@[simp] theorem State.stray_freeIx (s : State) : (State.stray s).freeIx = s.freeIx := rfl
@[simp] theorem State.stray_pending (s : State) : (State.stray s).pending = s.pending := rfl

@[simp] theorem State.tell_arch (s : State) (r : Reply) : (State.tell s r).arch = s.arch := by
  unfold State.tell
  (repeat' split) <;> simp
@[simp] theorem State.tell_num (s : State) (r : Reply) : (State.tell s r).num = s.num := by
  unfold State.tell
  (repeat' split) <;> simp
@[simp] theorem State.tell_queues (s : State) (r : Reply) : (State.tell s r).queues = s.queues := by
  unfold State.tell
  (repeat' split) <;> simp
@[simp] theorem State.tell_ring (s : State) (r : Reply) : (State.tell s r).ring = s.ring := by
  unfold State.tell
  (repeat' split) <;> simp
@[simp] theorem State.tell_trap (s : State) (r : Reply) : (State.tell s r).trap = s.trap := by
  unfold State.tell
  (repeat' split) <;> simp
@[simp] theorem State.tell_cnt (s : State) (r : Reply) : (State.tell s r).cnt = s.cnt := by
  unfold State.tell
  (repeat' split) <;> simp
@[simp] theorem State.tell_err (s : State) (r : Reply) : (State.tell s r).err = s.err := by
  unfold State.tell
  (repeat' split) <;> simp
@[simp] theorem State.tell_night (s : State) (r : Reply) : (State.tell s r).night = s.night := by
  unfold State.tell
  (repeat' split) <;> simp
@[simp] theorem State.tell_star (s : State) (r : Reply) : (State.tell s r).star = s.star := by
  unfold State.tell
  (repeat' split) <;> simp
@[simp] theorem State.tell_cal (s : State) (r : Reply) : (State.tell s r).cal = s.cal := by
  unfold State.tell
  (repeat' split) <;> simp
@[simp] theorem State.tell_dawn (s : State) (r : Reply) : (State.tell s r).dawn = s.dawn := by
  unfold State.tell
  (repeat' split) <;> simp
@[simp] theorem State.tell_pow (s : State) (r : Reply) : (State.tell s r).pow = s.pow := by
  unfold State.tell
  (repeat' split) <;> simp
@[simp] theorem State.tell_clk (s : State) (r : Reply) : (State.tell s r).clk = s.clk := by
  unfold State.tell
  (repeat' split) <;> simp
@[simp] theorem State.tell_dbg (s : State) (r : Reply) : (State.tell s r).dbg = s.dbg := by
  unfold State.tell
  (repeat' split) <;> simp
@[simp] theorem State.tell_straps (s : State) (r : Reply) : (State.tell s r).straps = s.straps := by
  unfold State.tell
  (repeat' split) <;> simp
@[simp] theorem State.tell_port (s : State) (r : Reply) : (State.tell s r).port = s.port := by
  unfold State.tell
  (repeat' split) <;> simp
@[simp] theorem State.tell_run (s : State) (r : Reply) : (State.tell s r).run = s.run := by
  unfold State.tell
  (repeat' split) <;> simp
@[simp] theorem State.tell_wrap (s : State) (r : Reply) : (State.tell s r).wrap = s.wrap := by
  unfold State.tell
  (repeat' split) <;> simp
@[simp] theorem State.tell_freeIx (s : State) (r : Reply) : (State.tell s r).freeIx = s.freeIx := by
  unfold State.tell
  (repeat' split) <;> simp
@[simp] theorem State.tell_pending (s : State) (r : Reply) : (State.tell s r).pending = s.pending := by
  unfold State.tell
  (repeat' split) <;> simp

@[simp] theorem State.tellEnd_arch (s : State) (r : Reply) : (State.tellEnd s r).arch = s.arch := by
  unfold State.tellEnd
  (repeat' split) <;> simp
@[simp] theorem State.tellEnd_num (s : State) (r : Reply) : (State.tellEnd s r).num = s.num := by
  unfold State.tellEnd
  (repeat' split) <;> simp
@[simp] theorem State.tellEnd_queues (s : State) (r : Reply) : (State.tellEnd s r).queues = s.queues := by
  unfold State.tellEnd
  (repeat' split) <;> simp
@[simp] theorem State.tellEnd_ring (s : State) (r : Reply) : (State.tellEnd s r).ring = s.ring := by
  unfold State.tellEnd
  (repeat' split) <;> simp
@[simp] theorem State.tellEnd_trap (s : State) (r : Reply) : (State.tellEnd s r).trap = s.trap := by
  unfold State.tellEnd
  (repeat' split) <;> simp
@[simp] theorem State.tellEnd_cnt (s : State) (r : Reply) : (State.tellEnd s r).cnt = s.cnt := by
  unfold State.tellEnd
  (repeat' split) <;> simp
@[simp] theorem State.tellEnd_err (s : State) (r : Reply) : (State.tellEnd s r).err = s.err := by
  unfold State.tellEnd
  (repeat' split) <;> simp
@[simp] theorem State.tellEnd_night (s : State) (r : Reply) : (State.tellEnd s r).night = s.night := by
  unfold State.tellEnd
  (repeat' split) <;> simp
@[simp] theorem State.tellEnd_star (s : State) (r : Reply) : (State.tellEnd s r).star = s.star := by
  unfold State.tellEnd
  (repeat' split) <;> simp
@[simp] theorem State.tellEnd_cal (s : State) (r : Reply) : (State.tellEnd s r).cal = s.cal := by
  unfold State.tellEnd
  (repeat' split) <;> simp
@[simp] theorem State.tellEnd_dawn (s : State) (r : Reply) : (State.tellEnd s r).dawn = s.dawn := by
  unfold State.tellEnd
  (repeat' split) <;> simp
@[simp] theorem State.tellEnd_pow (s : State) (r : Reply) : (State.tellEnd s r).pow = s.pow := by
  unfold State.tellEnd
  (repeat' split) <;> simp
@[simp] theorem State.tellEnd_clk (s : State) (r : Reply) : (State.tellEnd s r).clk = s.clk := by
  unfold State.tellEnd
  (repeat' split) <;> simp
@[simp] theorem State.tellEnd_dbg (s : State) (r : Reply) : (State.tellEnd s r).dbg = s.dbg := by
  unfold State.tellEnd
  (repeat' split) <;> simp
@[simp] theorem State.tellEnd_straps (s : State) (r : Reply) : (State.tellEnd s r).straps = s.straps := by
  unfold State.tellEnd
  (repeat' split) <;> simp
@[simp] theorem State.tellEnd_port (s : State) (r : Reply) : (State.tellEnd s r).port = s.port := by
  unfold State.tellEnd
  (repeat' split) <;> simp
@[simp] theorem State.tellEnd_run (s : State) (r : Reply) : (State.tellEnd s r).run = s.run := by
  unfold State.tellEnd
  (repeat' split) <;> simp
@[simp] theorem State.tellEnd_wrap (s : State) (r : Reply) : (State.tellEnd s r).wrap = s.wrap := by
  unfold State.tellEnd
  (repeat' split) <;> simp
@[simp] theorem State.tellEnd_freeIx (s : State) (r : Reply) : (State.tellEnd s r).freeIx = s.freeIx := by
  unfold State.tellEnd
  (repeat' split) <;> simp
@[simp] theorem State.tellEnd_pending (s : State) (r : Reply) : (State.tellEnd s r).pending = s.pending := by
  unfold State.tellEnd
  (repeat' split) <;> simp

@[simp] theorem State.releaseToken_arch (s : State) : (State.releaseToken s).arch = s.arch := rfl
@[simp] theorem State.releaseToken_num (s : State) : (State.releaseToken s).num = s.num := rfl
@[simp] theorem State.releaseToken_queues (s : State) : (State.releaseToken s).queues = s.queues := rfl
@[simp] theorem State.releaseToken_ring (s : State) : (State.releaseToken s).ring = s.ring := rfl
@[simp] theorem State.releaseToken_trap (s : State) : (State.releaseToken s).trap = s.trap := rfl
@[simp] theorem State.releaseToken_cnt (s : State) : (State.releaseToken s).cnt = s.cnt := rfl
@[simp] theorem State.releaseToken_err (s : State) : (State.releaseToken s).err = s.err := rfl
@[simp] theorem State.releaseToken_night (s : State) : (State.releaseToken s).night = s.night := rfl
@[simp] theorem State.releaseToken_star (s : State) : (State.releaseToken s).star = s.star := rfl
@[simp] theorem State.releaseToken_cal (s : State) : (State.releaseToken s).cal = s.cal := rfl
@[simp] theorem State.releaseToken_dawn (s : State) : (State.releaseToken s).dawn = s.dawn := rfl
@[simp] theorem State.releaseToken_pow (s : State) : (State.releaseToken s).pow = s.pow := rfl
@[simp] theorem State.releaseToken_clk (s : State) : (State.releaseToken s).clk = s.clk := rfl
@[simp] theorem State.releaseToken_dbg (s : State) : (State.releaseToken s).dbg = s.dbg := rfl
@[simp] theorem State.releaseToken_straps (s : State) : (State.releaseToken s).straps = s.straps := rfl
@[simp] theorem State.releaseToken_port (s : State) : (State.releaseToken s).port = s.port := rfl
@[simp] theorem State.releaseToken_run (s : State) : (State.releaseToken s).run = s.run := rfl
@[simp] theorem State.releaseToken_wrap (s : State) : (State.releaseToken s).wrap = s.wrap := rfl
@[simp] theorem State.releaseToken_wires (s : State) : (State.releaseToken s).wires = s.wires := rfl
@[simp] theorem State.releaseToken_freeIx (s : State) : (State.releaseToken s).freeIx = s.freeIx := rfl
@[simp] theorem State.releaseToken_pending (s : State) : (State.releaseToken s).pending = s.pending := rfl

@[simp] theorem State.abandonSegment_arch (s : State) (r : Running) : (State.abandonSegment s r).arch = s.arch := by
  unfold State.abandonSegment
  (repeat' split) <;> simp
@[simp] theorem State.abandonSegment_num (s : State) (r : Running) : (State.abandonSegment s r).num = s.num := by
  unfold State.abandonSegment
  (repeat' split) <;> simp
@[simp] theorem State.abandonSegment_queues (s : State) (r : Running) : (State.abandonSegment s r).queues = s.queues := by
  unfold State.abandonSegment
  (repeat' split) <;> simp
@[simp] theorem State.abandonSegment_ring (s : State) (r : Running) : (State.abandonSegment s r).ring = s.ring := by
  unfold State.abandonSegment
  (repeat' split) <;> simp
@[simp] theorem State.abandonSegment_trap (s : State) (r : Running) : (State.abandonSegment s r).trap = s.trap := by
  unfold State.abandonSegment
  (repeat' split) <;> simp
@[simp] theorem State.abandonSegment_cnt (s : State) (r : Running) : (State.abandonSegment s r).cnt = s.cnt := by
  unfold State.abandonSegment
  (repeat' split) <;> simp
@[simp] theorem State.abandonSegment_err (s : State) (r : Running) : (State.abandonSegment s r).err = s.err := by
  unfold State.abandonSegment
  (repeat' split) <;> simp
@[simp] theorem State.abandonSegment_night (s : State) (r : Running) : (State.abandonSegment s r).night = s.night := by
  unfold State.abandonSegment
  (repeat' split) <;> simp
@[simp] theorem State.abandonSegment_star (s : State) (r : Running) : (State.abandonSegment s r).star = s.star := by
  unfold State.abandonSegment
  (repeat' split) <;> simp
@[simp] theorem State.abandonSegment_cal (s : State) (r : Running) : (State.abandonSegment s r).cal = s.cal := by
  unfold State.abandonSegment
  (repeat' split) <;> simp
@[simp] theorem State.abandonSegment_dawn (s : State) (r : Running) : (State.abandonSegment s r).dawn = s.dawn := by
  unfold State.abandonSegment
  (repeat' split) <;> simp
@[simp] theorem State.abandonSegment_pow (s : State) (r : Running) : (State.abandonSegment s r).pow = s.pow := by
  unfold State.abandonSegment
  (repeat' split) <;> simp
@[simp] theorem State.abandonSegment_clk (s : State) (r : Running) : (State.abandonSegment s r).clk = s.clk := by
  unfold State.abandonSegment
  (repeat' split) <;> simp
@[simp] theorem State.abandonSegment_pair (s : State) (r : Running) : (State.abandonSegment s r).pair = s.pair := by
  unfold State.abandonSegment
  (repeat' split) <;> simp
@[simp] theorem State.abandonSegment_dbg (s : State) (r : Running) : (State.abandonSegment s r).dbg = s.dbg := by
  unfold State.abandonSegment
  (repeat' split) <;> simp
@[simp] theorem State.abandonSegment_straps (s : State) (r : Running) : (State.abandonSegment s r).straps = s.straps := by
  unfold State.abandonSegment
  (repeat' split) <;> simp
@[simp] theorem State.abandonSegment_port (s : State) (r : Running) : (State.abandonSegment s r).port = s.port := by
  unfold State.abandonSegment
  (repeat' split) <;> simp
@[simp] theorem State.abandonSegment_run (s : State) (r : Running) : (State.abandonSegment s r).run = s.run := by
  unfold State.abandonSegment
  (repeat' split) <;> simp
@[simp] theorem State.abandonSegment_wrap (s : State) (r : Running) : (State.abandonSegment s r).wrap = s.wrap := by
  unfold State.abandonSegment
  (repeat' split) <;> simp
@[simp] theorem State.abandonSegment_freeIx (s : State) (r : Running) : (State.abandonSegment s r).freeIx = s.freeIx := by
  unfold State.abandonSegment
  (repeat' split) <;> simp
@[simp] theorem State.abandonSegment_pending (s : State) (r : Running) : (State.abandonSegment s r).pending = s.pending := by
  unfold State.abandonSegment
  (repeat' split) <;> simp

@[simp] theorem State.leave_arch (s : State) (r : Running) : (State.leave s r).arch = s.arch := by simp [State.leave]
@[simp] theorem State.leave_num (s : State) (r : Running) : (State.leave s r).num = s.num := by simp [State.leave]
@[simp] theorem State.leave_queues (s : State) (r : Running) : (State.leave s r).queues = s.queues := by simp [State.leave]
@[simp] theorem State.leave_ring (s : State) (r : Running) : (State.leave s r).ring = s.ring := by simp [State.leave]
@[simp] theorem State.leave_trap (s : State) (r : Running) : (State.leave s r).trap = s.trap := by simp [State.leave]
@[simp] theorem State.leave_cnt (s : State) (r : Running) : (State.leave s r).cnt = s.cnt := by simp [State.leave]
@[simp] theorem State.leave_err (s : State) (r : Running) : (State.leave s r).err = s.err := by simp [State.leave]
@[simp] theorem State.leave_night (s : State) (r : Running) : (State.leave s r).night = s.night := by simp [State.leave]
@[simp] theorem State.leave_star (s : State) (r : Running) : (State.leave s r).star = s.star := by simp [State.leave]
@[simp] theorem State.leave_cal (s : State) (r : Running) : (State.leave s r).cal = s.cal := by simp [State.leave]
@[simp] theorem State.leave_dawn (s : State) (r : Running) : (State.leave s r).dawn = s.dawn := by simp [State.leave]
@[simp] theorem State.leave_clk (s : State) (r : Running) : (State.leave s r).clk = s.clk := by simp [State.leave]
@[simp] theorem State.leave_dbg (s : State) (r : Running) : (State.leave s r).dbg = s.dbg := by simp [State.leave]
@[simp] theorem State.leave_straps (s : State) (r : Running) : (State.leave s r).straps = s.straps := by simp [State.leave]
@[simp] theorem State.leave_wrap (s : State) (r : Running) : (State.leave s r).wrap = s.wrap := by simp [State.leave]
@[simp] theorem State.leave_freeIx (s : State) (r : Running) : (State.leave s r).freeIx = s.freeIx := by simp [State.leave]
@[simp] theorem State.leave_pending (s : State) (r : Running) : (State.leave s r).pending = s.pending := by simp [State.leave]

@[simp] theorem State.abandonBand_arch (s : State) (r : Running) : (State.abandonBand s r).arch = s.arch := by simp [State.abandonBand]
@[simp] theorem State.abandonBand_num (s : State) (r : Running) : (State.abandonBand s r).num = s.num := by simp [State.abandonBand]
@[simp] theorem State.abandonBand_queues (s : State) (r : Running) : (State.abandonBand s r).queues = s.queues := by simp [State.abandonBand]
@[simp] theorem State.abandonBand_ring (s : State) (r : Running) : (State.abandonBand s r).ring = s.ring := by simp [State.abandonBand]
@[simp] theorem State.abandonBand_trap (s : State) (r : Running) : (State.abandonBand s r).trap = s.trap := by simp [State.abandonBand]
@[simp] theorem State.abandonBand_cnt (s : State) (r : Running) : (State.abandonBand s r).cnt = s.cnt := by simp [State.abandonBand]
@[simp] theorem State.abandonBand_err (s : State) (r : Running) : (State.abandonBand s r).err = s.err := by simp [State.abandonBand]
@[simp] theorem State.abandonBand_night (s : State) (r : Running) : (State.abandonBand s r).night = s.night := by simp [State.abandonBand]
@[simp] theorem State.abandonBand_star (s : State) (r : Running) : (State.abandonBand s r).star = s.star := by simp [State.abandonBand]
@[simp] theorem State.abandonBand_cal (s : State) (r : Running) : (State.abandonBand s r).cal = s.cal := by simp [State.abandonBand]
@[simp] theorem State.abandonBand_dawn (s : State) (r : Running) : (State.abandonBand s r).dawn = s.dawn := by simp [State.abandonBand]
@[simp] theorem State.abandonBand_clk (s : State) (r : Running) : (State.abandonBand s r).clk = s.clk := by simp [State.abandonBand]
@[simp] theorem State.abandonBand_dbg (s : State) (r : Running) : (State.abandonBand s r).dbg = s.dbg := by simp [State.abandonBand]
@[simp] theorem State.abandonBand_straps (s : State) (r : Running) : (State.abandonBand s r).straps = s.straps := by simp [State.abandonBand]
@[simp] theorem State.abandonBand_wrap (s : State) (r : Running) : (State.abandonBand s r).wrap = s.wrap := by simp [State.abandonBand]
@[simp] theorem State.abandonBand_freeIx (s : State) (r : Running) : (State.abandonBand s r).freeIx = s.freeIx := by simp [State.abandonBand]
@[simp] theorem State.abandonBand_pending (s : State) (r : Running) : (State.abandonBand s r).pending = s.pending := by simp [State.abandonBand]

@[simp] theorem State.recallBands_arch (s : State) (r : Running) : (State.recallBands s r).1.arch = s.arch := by
  unfold State.recallBands
  (repeat' split) <;> simp
@[simp] theorem State.recallBands_num (s : State) (r : Running) : (State.recallBands s r).1.num = s.num := by
  unfold State.recallBands
  (repeat' split) <;> simp
@[simp] theorem State.recallBands_queues (s : State) (r : Running) : (State.recallBands s r).1.queues = s.queues := by
  unfold State.recallBands
  (repeat' split) <;> simp
@[simp] theorem State.recallBands_ring (s : State) (r : Running) : (State.recallBands s r).1.ring = s.ring := by
  unfold State.recallBands
  (repeat' split) <;> simp
@[simp] theorem State.recallBands_trap (s : State) (r : Running) : (State.recallBands s r).1.trap = s.trap := by
  unfold State.recallBands
  (repeat' split) <;> simp
@[simp] theorem State.recallBands_err (s : State) (r : Running) : (State.recallBands s r).1.err = s.err := by
  unfold State.recallBands
  (repeat' split) <;> simp
@[simp] theorem State.recallBands_night (s : State) (r : Running) : (State.recallBands s r).1.night = s.night := by
  unfold State.recallBands
  (repeat' split) <;> simp
@[simp] theorem State.recallBands_star (s : State) (r : Running) : (State.recallBands s r).1.star = s.star := by
  unfold State.recallBands
  (repeat' split) <;> simp
@[simp] theorem State.recallBands_cal (s : State) (r : Running) : (State.recallBands s r).1.cal = s.cal := by
  unfold State.recallBands
  (repeat' split) <;> simp
@[simp] theorem State.recallBands_dawn (s : State) (r : Running) : (State.recallBands s r).1.dawn = s.dawn := by
  unfold State.recallBands
  (repeat' split) <;> simp
@[simp] theorem State.recallBands_pow (s : State) (r : Running) : (State.recallBands s r).1.pow = s.pow := by
  unfold State.recallBands
  (repeat' split) <;> simp
@[simp] theorem State.recallBands_clk (s : State) (r : Running) : (State.recallBands s r).1.clk = s.clk := by
  unfold State.recallBands
  (repeat' split) <;> simp
@[simp] theorem State.recallBands_dbg (s : State) (r : Running) : (State.recallBands s r).1.dbg = s.dbg := by
  unfold State.recallBands
  (repeat' split) <;> simp
@[simp] theorem State.recallBands_straps (s : State) (r : Running) : (State.recallBands s r).1.straps = s.straps := by
  unfold State.recallBands
  (repeat' split) <;> simp
@[simp] theorem State.recallBands_port (s : State) (r : Running) : (State.recallBands s r).1.port = s.port := by
  unfold State.recallBands
  (repeat' split) <;> simp
@[simp] theorem State.recallBands_run (s : State) (r : Running) : (State.recallBands s r).1.run = s.run := by
  unfold State.recallBands
  (repeat' split) <;> simp
@[simp] theorem State.recallBands_wrap (s : State) (r : Running) : (State.recallBands s r).1.wrap = s.wrap := by
  unfold State.recallBands
  (repeat' split) <;> simp
@[simp] theorem State.recallBands_freeIx (s : State) (r : Running) : (State.recallBands s r).1.freeIx = s.freeIx := by
  unfold State.recallBands
  (repeat' split) <;> simp
@[simp] theorem State.recallBands_pending (s : State) (r : Running) : (State.recallBands s r).1.pending = s.pending := by
  unfold State.recallBands
  (repeat' split) <;> simp

@[simp] theorem State.giveFinal_arch (s : State) (r : Running) (y : Reply) : (State.giveFinal s r y).arch = s.arch := by
  unfold State.giveFinal
  split <;> rfl
@[simp] theorem State.giveFinal_num (s : State) (r : Running) (y : Reply) : (State.giveFinal s r y).num = s.num := by
  unfold State.giveFinal
  split <;> rfl
@[simp] theorem State.giveFinal_queues (s : State) (r : Running) (y : Reply) : (State.giveFinal s r y).queues = s.queues := by
  unfold State.giveFinal
  split <;> rfl
@[simp] theorem State.giveFinal_trap (s : State) (r : Running) (y : Reply) : (State.giveFinal s r y).trap = s.trap := by
  unfold State.giveFinal
  split <;> rfl
@[simp] theorem State.giveFinal_cnt (s : State) (r : Running) (y : Reply) : (State.giveFinal s r y).cnt = s.cnt := by
  unfold State.giveFinal
  split <;> rfl
@[simp] theorem State.giveFinal_err (s : State) (r : Running) (y : Reply) : (State.giveFinal s r y).err = s.err := by
  unfold State.giveFinal
  split <;> rfl
@[simp] theorem State.giveFinal_night (s : State) (r : Running) (y : Reply) : (State.giveFinal s r y).night = s.night := by
  unfold State.giveFinal
  split <;> rfl
@[simp] theorem State.giveFinal_star (s : State) (r : Running) (y : Reply) : (State.giveFinal s r y).star = s.star := by
  unfold State.giveFinal
  split <;> rfl
@[simp] theorem State.giveFinal_cal (s : State) (r : Running) (y : Reply) : (State.giveFinal s r y).cal = s.cal := by
  unfold State.giveFinal
  split <;> rfl
@[simp] theorem State.giveFinal_dawn (s : State) (r : Running) (y : Reply) : (State.giveFinal s r y).dawn = s.dawn := by
  unfold State.giveFinal
  split <;> rfl
@[simp] theorem State.giveFinal_pow (s : State) (r : Running) (y : Reply) : (State.giveFinal s r y).pow = s.pow := by
  unfold State.giveFinal
  split <;> rfl
@[simp] theorem State.giveFinal_clk (s : State) (r : Running) (y : Reply) : (State.giveFinal s r y).clk = s.clk := by
  unfold State.giveFinal
  split <;> rfl
@[simp] theorem State.giveFinal_pair (s : State) (r : Running) (y : Reply) : (State.giveFinal s r y).pair = s.pair := by
  unfold State.giveFinal
  split <;> rfl
@[simp] theorem State.giveFinal_port (s : State) (r : Running) (y : Reply) : (State.giveFinal s r y).port = s.port := by
  unfold State.giveFinal
  split <;> rfl
@[simp] theorem State.giveFinal_dbg (s : State) (r : Running) (y : Reply) : (State.giveFinal s r y).dbg = s.dbg := by
  unfold State.giveFinal
  split <;> rfl
@[simp] theorem State.giveFinal_straps (s : State) (r : Running) (y : Reply) : (State.giveFinal s r y).straps = s.straps := by
  unfold State.giveFinal
  split <;> rfl
@[simp] theorem State.giveFinal_wrap (s : State) (r : Running) (y : Reply) : (State.giveFinal s r y).wrap = s.wrap := by
  unfold State.giveFinal
  split <;> rfl
@[simp] theorem State.giveFinal_wires (s : State) (r : Running) (y : Reply) : (State.giveFinal s r y).wires = s.wires := by
  unfold State.giveFinal
  split <;> rfl
@[simp] theorem State.giveFinal_freeIx (s : State) (r : Running) (y : Reply) : (State.giveFinal s r y).freeIx = s.freeIx := by
  unfold State.giveFinal
  split <;> rfl
@[simp] theorem State.giveFinal_pending (s : State) (r : Running) (y : Reply) : (State.giveFinal s r y).pending = s.pending := by
  unfold State.giveFinal
  split <;> rfl

@[simp] theorem State.endRun_arch (s : State) (r : Running) (x : Say) (counts : List Nat) : (State.endRun s r x counts).arch = s.arch := by
  unfold State.endRun
  dsimp only
  (repeat' split) <;> simp [foldl_frame (·.arch) _ (fun _ _ => State.count_arch _ _)]
@[simp] theorem State.endRun_num (s : State) (r : Running) (x : Say) (counts : List Nat) : (State.endRun s r x counts).num = s.num := by
  unfold State.endRun
  dsimp only
  (repeat' split) <;> simp [foldl_frame (·.num) _ (fun _ _ => State.count_num _ _)]
@[simp] theorem State.endRun_queues (s : State) (r : Running) (x : Say) (counts : List Nat) : (State.endRun s r x counts).queues = s.queues := by
  unfold State.endRun
  dsimp only
  (repeat' split) <;> simp [foldl_frame (·.queues) _ (fun _ _ => State.count_queues _ _)]
@[simp] theorem State.endRun_trap (s : State) (r : Running) (x : Say) (counts : List Nat) : (State.endRun s r x counts).trap = s.trap := by
  unfold State.endRun
  dsimp only
  (repeat' split) <;> simp [foldl_frame (·.trap) _ (fun _ _ => State.count_trap _ _)]
@[simp] theorem State.endRun_err (s : State) (r : Running) (x : Say) (counts : List Nat) : (State.endRun s r x counts).err = s.err := by
  unfold State.endRun
  dsimp only
  (repeat' split) <;> simp [foldl_frame (·.err) _ (fun _ _ => State.count_err _ _)]
@[simp] theorem State.endRun_night (s : State) (r : Running) (x : Say) (counts : List Nat) : (State.endRun s r x counts).night = s.night := by
  unfold State.endRun
  dsimp only
  (repeat' split) <;> simp [foldl_frame (·.night) _ (fun _ _ => State.count_night _ _)]
@[simp] theorem State.endRun_star (s : State) (r : Running) (x : Say) (counts : List Nat) : (State.endRun s r x counts).star = s.star := by
  unfold State.endRun
  dsimp only
  (repeat' split) <;> simp [foldl_frame (·.star) _ (fun _ _ => State.count_star _ _)]
@[simp] theorem State.endRun_cal (s : State) (r : Running) (x : Say) (counts : List Nat) : (State.endRun s r x counts).cal = s.cal := by
  unfold State.endRun
  dsimp only
  (repeat' split) <;> simp [foldl_frame (·.cal) _ (fun _ _ => State.count_cal _ _)]
@[simp] theorem State.endRun_dawn (s : State) (r : Running) (x : Say) (counts : List Nat) : (State.endRun s r x counts).dawn = s.dawn := by
  unfold State.endRun
  dsimp only
  (repeat' split) <;> simp [foldl_frame (·.dawn) _ (fun _ _ => State.count_dawn _ _)]
@[simp] theorem State.endRun_clk (s : State) (r : Running) (x : Say) (counts : List Nat) : (State.endRun s r x counts).clk = s.clk := by
  unfold State.endRun
  dsimp only
  (repeat' split) <;> simp [foldl_frame (·.clk) _ (fun _ _ => State.count_clk _ _)]
@[simp] theorem State.endRun_dbg (s : State) (r : Running) (x : Say) (counts : List Nat) : (State.endRun s r x counts).dbg = s.dbg := by
  unfold State.endRun
  dsimp only
  (repeat' split) <;> simp [foldl_frame (·.dbg) _ (fun _ _ => State.count_dbg _ _)]
@[simp] theorem State.endRun_straps (s : State) (r : Running) (x : Say) (counts : List Nat) : (State.endRun s r x counts).straps = s.straps := by
  unfold State.endRun
  dsimp only
  (repeat' split) <;> simp [foldl_frame (·.straps) _ (fun _ _ => State.count_straps _ _)]
@[simp] theorem State.endRun_wrap (s : State) (r : Running) (x : Say) (counts : List Nat) : (State.endRun s r x counts).wrap = s.wrap := by
  unfold State.endRun
  dsimp only
  (repeat' split) <;> simp [foldl_frame (·.wrap) _ (fun _ _ => State.count_wrap _ _)]
@[simp] theorem State.endRun_freeIx (s : State) (r : Running) (x : Say) (counts : List Nat) : (State.endRun s r x counts).freeIx = s.freeIx := by
  unfold State.endRun
  dsimp only
  (repeat' split) <;> simp [foldl_frame (·.freeIx) _ (fun _ _ => State.count_freeIx _ _)]
@[simp] theorem State.endRun_pending (s : State) (r : Running) (x : Say) (counts : List Nat) : (State.endRun s r x counts).pending = s.pending := by
  unfold State.endRun
  dsimp only
  (repeat' split) <;> simp [foldl_frame (·.pending) _ (fun _ _ => State.count_pending _ _)]

@[simp] theorem State.refuseRun_arch (s : State) (r : Running) (status reason index value : Nat) : (State.refuseRun s r status reason index value).arch = s.arch := by simp [State.refuseRun]
@[simp] theorem State.refuseRun_num (s : State) (r : Running) (status reason index value : Nat) : (State.refuseRun s r status reason index value).num = s.num := by simp [State.refuseRun]
@[simp] theorem State.refuseRun_queues (s : State) (r : Running) (status reason index value : Nat) : (State.refuseRun s r status reason index value).queues = s.queues := by simp [State.refuseRun]
@[simp] theorem State.refuseRun_trap (s : State) (r : Running) (status reason index value : Nat) : (State.refuseRun s r status reason index value).trap = s.trap := by simp [State.refuseRun]
@[simp] theorem State.refuseRun_err (s : State) (r : Running) (status reason index value : Nat) : (State.refuseRun s r status reason index value).err = s.err := by simp [State.refuseRun]
@[simp] theorem State.refuseRun_night (s : State) (r : Running) (status reason index value : Nat) : (State.refuseRun s r status reason index value).night = s.night := by simp [State.refuseRun]
@[simp] theorem State.refuseRun_star (s : State) (r : Running) (status reason index value : Nat) : (State.refuseRun s r status reason index value).star = s.star := by simp [State.refuseRun]
@[simp] theorem State.refuseRun_cal (s : State) (r : Running) (status reason index value : Nat) : (State.refuseRun s r status reason index value).cal = s.cal := by simp [State.refuseRun]
@[simp] theorem State.refuseRun_dawn (s : State) (r : Running) (status reason index value : Nat) : (State.refuseRun s r status reason index value).dawn = s.dawn := by simp [State.refuseRun]
@[simp] theorem State.refuseRun_clk (s : State) (r : Running) (status reason index value : Nat) : (State.refuseRun s r status reason index value).clk = s.clk := by simp [State.refuseRun]
@[simp] theorem State.refuseRun_dbg (s : State) (r : Running) (status reason index value : Nat) : (State.refuseRun s r status reason index value).dbg = s.dbg := by simp [State.refuseRun]
@[simp] theorem State.refuseRun_straps (s : State) (r : Running) (status reason index value : Nat) : (State.refuseRun s r status reason index value).straps = s.straps := by simp [State.refuseRun]
@[simp] theorem State.refuseRun_wrap (s : State) (r : Running) (status reason index value : Nat) : (State.refuseRun s r status reason index value).wrap = s.wrap := by simp [State.refuseRun]
@[simp] theorem State.refuseRun_freeIx (s : State) (r : Running) (status reason index value : Nat) : (State.refuseRun s r status reason index value).freeIx = s.freeIx := by simp [State.refuseRun]
@[simp] theorem State.refuseRun_pending (s : State) (r : Running) (status reason index value : Nat) : (State.refuseRun s r status reason index value).pending = s.pending := by simp [State.refuseRun]

@[simp] theorem State.endOk_arch (s : State) (r : Running) : (State.endOk s r).arch = s.arch := by simp [State.endOk]
@[simp] theorem State.endOk_num (s : State) (r : Running) : (State.endOk s r).num = s.num := by simp [State.endOk]
@[simp] theorem State.endOk_queues (s : State) (r : Running) : (State.endOk s r).queues = s.queues := by simp [State.endOk]
@[simp] theorem State.endOk_trap (s : State) (r : Running) : (State.endOk s r).trap = s.trap := by simp [State.endOk]
@[simp] theorem State.endOk_err (s : State) (r : Running) : (State.endOk s r).err = s.err := by simp [State.endOk]
@[simp] theorem State.endOk_night (s : State) (r : Running) : (State.endOk s r).night = s.night := by simp [State.endOk]
@[simp] theorem State.endOk_star (s : State) (r : Running) : (State.endOk s r).star = s.star := by simp [State.endOk]
@[simp] theorem State.endOk_cal (s : State) (r : Running) : (State.endOk s r).cal = s.cal := by simp [State.endOk]
@[simp] theorem State.endOk_dawn (s : State) (r : Running) : (State.endOk s r).dawn = s.dawn := by simp [State.endOk]
@[simp] theorem State.endOk_clk (s : State) (r : Running) : (State.endOk s r).clk = s.clk := by simp [State.endOk]
@[simp] theorem State.endOk_dbg (s : State) (r : Running) : (State.endOk s r).dbg = s.dbg := by simp [State.endOk]
@[simp] theorem State.endOk_straps (s : State) (r : Running) : (State.endOk s r).straps = s.straps := by simp [State.endOk]
@[simp] theorem State.endOk_wrap (s : State) (r : Running) : (State.endOk s r).wrap = s.wrap := by simp [State.endOk]
@[simp] theorem State.endOk_freeIx (s : State) (r : Running) : (State.endOk s r).freeIx = s.freeIx := by simp [State.endOk]
@[simp] theorem State.endOk_pending (s : State) (r : Running) : (State.endOk s r).pending = s.pending := by simp [State.endOk]

@[simp] theorem State.endError_arch (s : State) (r : Running) (k : Nat) (e : ErrRec) : (State.endError s r k e).arch = s.arch := by
  unfold State.endError
  (repeat' split) <;> simp
@[simp] theorem State.endError_num (s : State) (r : Running) (k : Nat) (e : ErrRec) : (State.endError s r k e).num = s.num := by
  unfold State.endError
  (repeat' split) <;> simp
@[simp] theorem State.endError_queues (s : State) (r : Running) (k : Nat) (e : ErrRec) : (State.endError s r k e).queues = s.queues := by
  unfold State.endError
  (repeat' split) <;> simp
@[simp] theorem State.endError_ring (s : State) (r : Running) (k : Nat) (e : ErrRec) : (State.endError s r k e).ring = s.ring := by
  unfold State.endError
  (repeat' split) <;> simp
@[simp] theorem State.endError_trap (s : State) (r : Running) (k : Nat) (e : ErrRec) : (State.endError s r k e).trap = s.trap := by
  unfold State.endError
  (repeat' split) <;> simp
@[simp] theorem State.endError_cnt (s : State) (r : Running) (k : Nat) (e : ErrRec) : (State.endError s r k e).cnt = s.cnt := by
  unfold State.endError
  (repeat' split) <;> simp
@[simp] theorem State.endError_night (s : State) (r : Running) (k : Nat) (e : ErrRec) : (State.endError s r k e).night = s.night := by
  unfold State.endError
  (repeat' split) <;> simp
@[simp] theorem State.endError_star (s : State) (r : Running) (k : Nat) (e : ErrRec) : (State.endError s r k e).star = s.star := by
  unfold State.endError
  (repeat' split) <;> simp
@[simp] theorem State.endError_cal (s : State) (r : Running) (k : Nat) (e : ErrRec) : (State.endError s r k e).cal = s.cal := by
  unfold State.endError
  (repeat' split) <;> simp
@[simp] theorem State.endError_dawn (s : State) (r : Running) (k : Nat) (e : ErrRec) : (State.endError s r k e).dawn = s.dawn := by
  unfold State.endError
  (repeat' split) <;> simp
@[simp] theorem State.endError_pow (s : State) (r : Running) (k : Nat) (e : ErrRec) : (State.endError s r k e).pow = s.pow := by
  unfold State.endError
  (repeat' split) <;> simp
@[simp] theorem State.endError_clk (s : State) (r : Running) (k : Nat) (e : ErrRec) : (State.endError s r k e).clk = s.clk := by
  unfold State.endError
  (repeat' split) <;> simp
@[simp] theorem State.endError_pair (s : State) (r : Running) (k : Nat) (e : ErrRec) : (State.endError s r k e).pair = s.pair := by
  unfold State.endError
  (repeat' split) <;> simp
@[simp] theorem State.endError_dbg (s : State) (r : Running) (k : Nat) (e : ErrRec) : (State.endError s r k e).dbg = s.dbg := by
  unfold State.endError
  (repeat' split) <;> simp
@[simp] theorem State.endError_straps (s : State) (r : Running) (k : Nat) (e : ErrRec) : (State.endError s r k e).straps = s.straps := by
  unfold State.endError
  (repeat' split) <;> simp
@[simp] theorem State.endError_port (s : State) (r : Running) (k : Nat) (e : ErrRec) : (State.endError s r k e).port = s.port := by
  unfold State.endError
  (repeat' split) <;> simp
@[simp] theorem State.endError_run (s : State) (r : Running) (k : Nat) (e : ErrRec) : (State.endError s r k e).run = s.run := by
  unfold State.endError
  (repeat' split) <;> simp
@[simp] theorem State.endError_wrap (s : State) (r : Running) (k : Nat) (e : ErrRec) : (State.endError s r k e).wrap = s.wrap := by
  unfold State.endError
  (repeat' split) <;> simp
@[simp] theorem State.endError_wires (s : State) (r : Running) (k : Nat) (e : ErrRec) : (State.endError s r k e).wires = s.wires := by
  unfold State.endError
  (repeat' split) <;> simp
@[simp] theorem State.endError_freeIx (s : State) (r : Running) (k : Nat) (e : ErrRec) : (State.endError s r k e).freeIx = s.freeIx := by
  unfold State.endError
  (repeat' split) <;> simp
@[simp] theorem State.endError_pending (s : State) (r : Running) (k : Nat) (e : ErrRec) : (State.endError s r k e).pending = s.pending := by
  unfold State.endError
  (repeat' split) <;> simp

@[simp] theorem State.endPoison_arch (s : State) (r : Running) (index : Nat) (e : ErrRec) : (State.endPoison s r index e).arch = s.arch := by
  unfold State.endPoison
  split <;> simp
@[simp] theorem State.endPoison_num (s : State) (r : Running) (index : Nat) (e : ErrRec) : (State.endPoison s r index e).num = s.num := by
  unfold State.endPoison
  split <;> simp
@[simp] theorem State.endPoison_queues (s : State) (r : Running) (index : Nat) (e : ErrRec) : (State.endPoison s r index e).queues = s.queues := by
  unfold State.endPoison
  split <;> simp
@[simp] theorem State.endPoison_trap (s : State) (r : Running) (index : Nat) (e : ErrRec) : (State.endPoison s r index e).trap = s.trap := by
  unfold State.endPoison
  split <;> simp
@[simp] theorem State.endPoison_night (s : State) (r : Running) (index : Nat) (e : ErrRec) : (State.endPoison s r index e).night = s.night := by
  unfold State.endPoison
  split <;> simp
@[simp] theorem State.endPoison_star (s : State) (r : Running) (index : Nat) (e : ErrRec) : (State.endPoison s r index e).star = s.star := by
  unfold State.endPoison
  split <;> simp
@[simp] theorem State.endPoison_cal (s : State) (r : Running) (index : Nat) (e : ErrRec) : (State.endPoison s r index e).cal = s.cal := by
  unfold State.endPoison
  split <;> simp
@[simp] theorem State.endPoison_dawn (s : State) (r : Running) (index : Nat) (e : ErrRec) : (State.endPoison s r index e).dawn = s.dawn := by
  unfold State.endPoison
  split <;> simp
@[simp] theorem State.endPoison_clk (s : State) (r : Running) (index : Nat) (e : ErrRec) : (State.endPoison s r index e).clk = s.clk := by
  unfold State.endPoison
  split <;> simp
@[simp] theorem State.endPoison_dbg (s : State) (r : Running) (index : Nat) (e : ErrRec) : (State.endPoison s r index e).dbg = s.dbg := by
  unfold State.endPoison
  split <;> simp
@[simp] theorem State.endPoison_straps (s : State) (r : Running) (index : Nat) (e : ErrRec) : (State.endPoison s r index e).straps = s.straps := by
  unfold State.endPoison
  split <;> simp
@[simp] theorem State.endPoison_wrap (s : State) (r : Running) (index : Nat) (e : ErrRec) : (State.endPoison s r index e).wrap = s.wrap := by
  unfold State.endPoison
  split <;> simp
@[simp] theorem State.endPoison_freeIx (s : State) (r : Running) (index : Nat) (e : ErrRec) : (State.endPoison s r index e).freeIx = s.freeIx := by
  unfold State.endPoison
  split <;> simp
@[simp] theorem State.endPoison_pending (s : State) (r : Running) (index : Nat) (e : ErrRec) : (State.endPoison s r index e).pending = s.pending := by
  unfold State.endPoison
  split <;> simp

@[simp] theorem State.countFallback_arch (s : State) (fb : Bool) : (State.countFallback s fb).arch = s.arch := by
  unfold State.countFallback
  (repeat' split) <;> simp
@[simp] theorem State.countFallback_num (s : State) (fb : Bool) : (State.countFallback s fb).num = s.num := by
  unfold State.countFallback
  (repeat' split) <;> simp
@[simp] theorem State.countFallback_queues (s : State) (fb : Bool) : (State.countFallback s fb).queues = s.queues := by
  unfold State.countFallback
  (repeat' split) <;> simp
@[simp] theorem State.countFallback_ring (s : State) (fb : Bool) : (State.countFallback s fb).ring = s.ring := by
  unfold State.countFallback
  (repeat' split) <;> simp
@[simp] theorem State.countFallback_trap (s : State) (fb : Bool) : (State.countFallback s fb).trap = s.trap := by
  unfold State.countFallback
  (repeat' split) <;> simp
@[simp] theorem State.countFallback_err (s : State) (fb : Bool) : (State.countFallback s fb).err = s.err := by
  unfold State.countFallback
  (repeat' split) <;> simp
@[simp] theorem State.countFallback_night (s : State) (fb : Bool) : (State.countFallback s fb).night = s.night := by
  unfold State.countFallback
  (repeat' split) <;> simp
@[simp] theorem State.countFallback_star (s : State) (fb : Bool) : (State.countFallback s fb).star = s.star := by
  unfold State.countFallback
  (repeat' split) <;> simp
@[simp] theorem State.countFallback_cal (s : State) (fb : Bool) : (State.countFallback s fb).cal = s.cal := by
  unfold State.countFallback
  (repeat' split) <;> simp
@[simp] theorem State.countFallback_dawn (s : State) (fb : Bool) : (State.countFallback s fb).dawn = s.dawn := by
  unfold State.countFallback
  (repeat' split) <;> simp
@[simp] theorem State.countFallback_pow (s : State) (fb : Bool) : (State.countFallback s fb).pow = s.pow := by
  unfold State.countFallback
  (repeat' split) <;> simp
@[simp] theorem State.countFallback_clk (s : State) (fb : Bool) : (State.countFallback s fb).clk = s.clk := by
  unfold State.countFallback
  (repeat' split) <;> simp
@[simp] theorem State.countFallback_pair (s : State) (fb : Bool) : (State.countFallback s fb).pair = s.pair := by
  unfold State.countFallback
  (repeat' split) <;> simp
@[simp] theorem State.countFallback_dbg (s : State) (fb : Bool) : (State.countFallback s fb).dbg = s.dbg := by
  unfold State.countFallback
  (repeat' split) <;> simp
@[simp] theorem State.countFallback_straps (s : State) (fb : Bool) : (State.countFallback s fb).straps = s.straps := by
  unfold State.countFallback
  (repeat' split) <;> simp
@[simp] theorem State.countFallback_port (s : State) (fb : Bool) : (State.countFallback s fb).port = s.port := by
  unfold State.countFallback
  (repeat' split) <;> simp
@[simp] theorem State.countFallback_run (s : State) (fb : Bool) : (State.countFallback s fb).run = s.run := by
  unfold State.countFallback
  (repeat' split) <;> simp
@[simp] theorem State.countFallback_wrap (s : State) (fb : Bool) : (State.countFallback s fb).wrap = s.wrap := by
  unfold State.countFallback
  (repeat' split) <;> simp
@[simp] theorem State.countFallback_wires (s : State) (fb : Bool) : (State.countFallback s fb).wires = s.wires := by
  unfold State.countFallback
  (repeat' split) <;> simp
@[simp] theorem State.countFallback_freeIx (s : State) (fb : Bool) : (State.countFallback s fb).freeIx = s.freeIx := by
  unfold State.countFallback
  (repeat' split) <;> simp
@[simp] theorem State.countFallback_pending (s : State) (fb : Bool) : (State.countFallback s fb).pending = s.pending := by
  unfold State.countFallback
  (repeat' split) <;> simp

@[simp] theorem State.discardFetch_arch (s : State) (q : BitVec 2) : (State.discardFetch s q).arch = s.arch := rfl
@[simp] theorem State.discardFetch_num (s : State) (q : BitVec 2) : (State.discardFetch s q).num = s.num := rfl
@[simp] theorem State.discardFetch_ring (s : State) (q : BitVec 2) : (State.discardFetch s q).ring = s.ring := rfl
@[simp] theorem State.discardFetch_trap (s : State) (q : BitVec 2) : (State.discardFetch s q).trap = s.trap := rfl
@[simp] theorem State.discardFetch_cnt (s : State) (q : BitVec 2) : (State.discardFetch s q).cnt = s.cnt := rfl
@[simp] theorem State.discardFetch_err (s : State) (q : BitVec 2) : (State.discardFetch s q).err = s.err := rfl
@[simp] theorem State.discardFetch_night (s : State) (q : BitVec 2) : (State.discardFetch s q).night = s.night := rfl
@[simp] theorem State.discardFetch_star (s : State) (q : BitVec 2) : (State.discardFetch s q).star = s.star := rfl
@[simp] theorem State.discardFetch_cal (s : State) (q : BitVec 2) : (State.discardFetch s q).cal = s.cal := rfl
@[simp] theorem State.discardFetch_dawn (s : State) (q : BitVec 2) : (State.discardFetch s q).dawn = s.dawn := rfl
@[simp] theorem State.discardFetch_pow (s : State) (q : BitVec 2) : (State.discardFetch s q).pow = s.pow := rfl
@[simp] theorem State.discardFetch_clk (s : State) (q : BitVec 2) : (State.discardFetch s q).clk = s.clk := rfl
@[simp] theorem State.discardFetch_pair (s : State) (q : BitVec 2) : (State.discardFetch s q).pair = s.pair := rfl
@[simp] theorem State.discardFetch_dbg (s : State) (q : BitVec 2) : (State.discardFetch s q).dbg = s.dbg := rfl
@[simp] theorem State.discardFetch_straps (s : State) (q : BitVec 2) : (State.discardFetch s q).straps = s.straps := rfl
@[simp] theorem State.discardFetch_run (s : State) (q : BitVec 2) : (State.discardFetch s q).run = s.run := rfl
@[simp] theorem State.discardFetch_wrap (s : State) (q : BitVec 2) : (State.discardFetch s q).wrap = s.wrap := rfl
@[simp] theorem State.discardFetch_wires (s : State) (q : BitVec 2) : (State.discardFetch s q).wires = s.wires := rfl
@[simp] theorem State.discardFetch_freeIx (s : State) (q : BitVec 2) : (State.discardFetch s q).freeIx = s.freeIx := rfl
@[simp] theorem State.discardFetch_pending (s : State) (q : BitVec 2) : (State.discardFetch s q).pending = s.pending := rfl

end Sys2Proof.Machine
end

