-- ==== Sys2Proof/Laws/Ending.lean ====
section
/-! SUPPORT. The outcome of a meaning, and what the end of a command does. -/

namespace Sys2Proof.Machine

open Sys2Proof

/-- In the functional state a meaning answers its next state. -/
theorem functional_live {s : State} (h : s.Live) (t : State) : functional s t = .next t := by
  simp only [State.Live] at h
  simp [functional, h]

/-- The next state of a meaning is the one its effect gives. -/
theorem functional_next {s t u : State} (h : functional s t = .next u) : u = t := by
  unfold functional at h
  split at h
  · cases h
  · cases h; rfl

theorem State.onRun_of {s : State} {r : Running} {op : Nat} (h : s.run = some r) (ho : r.op = op) (hm : r.mirror = false)
    (hf : r.final = none) (f : State → Running → State) : s.onRun op f = f s r := by
  simp [State.onRun, State.onAny, h, ho, hm, hf]

theorem State.onAny_of {s : State} {r : Running} (h : s.run = some r) (hm : r.mirror = false) (hf : r.final = none)
    (f : State → Running → State) : s.onAny f = f s r := by
  simp [State.onAny, h, hm, hf]

theorem counts_cnt (l : List Nat) (s : State) : (l.foldl (fun s k => s.count k) s).cnt = s.cnt.raiseEach l := by
  induction l generalizing s with
  | nil => rfl
  | cons k l ih => exact ih _

/-- A reply does not depend on which bands the partner runs. -/
theorem State.recallBands_reply (s : State) (r : Running) (x : Say) : ((s.recallBands r).2).reply x = r.reply x := by
  unfold State.recallBands
  split <;> rfl

theorem State.recallBands_cnt (s : State) (r : Running) :
    (s.recallBands r).1.cnt = if r.claimed.isEmpty then s.cnt else s.cnt.raise cSTEALAB r.claimed.length := by
  unfold State.recallBands
  split <;> simp [*]

theorem State.sendBeat_mode (s : State) (d : Line) (sb : BitVec 112) : (s.sendBeat d sb).pair.mode = s.pair.mode := by
  unfold State.sendBeat
  split <;> simp

theorem State.sendWords_mode (s : State) (k : Nat) (ws : List Nat) : (s.sendWords k ws).pair.mode = s.pair.mode := by
  unfold State.sendWords
  exact foldl_frame (·.pair.mode) _ (fun _ _ => State.sendBeat_mode _ _ _) _ _

theorem State.recallBands_mode (s : State) (r : Running) : (s.recallBands r).1.pair.mode = s.pair.mode := by
  unfold State.recallBands
  split
  · rfl
  · exact State.sendBeat_mode _ _ _

theorem State.tell_mode (s : State) (y : Reply) : (s.tell y).pair.mode = s.pair.mode := by
  unfold State.tell
  split
  · exact State.sendWords_mode _ _ _
  · rfl

theorem State.tellEnd_mode (s : State) (y : Reply) : (s.tellEnd y).pair.mode = s.pair.mode := by
  unfold State.tellEnd
  split
  · exact State.sendWords_mode _ _ _
  · rfl

theorem State.leave_mode (s : State) (r : Running) : (s.leave r).pair.mode = s.pair.mode := by
  have lower (p : Pair) (b : Bool) : (p.lower b).mode = p.mode := rfl
  have tok (s : State) : s.releaseToken.pair.mode = s.pair.mode := by
    unfold State.releaseToken
    dsimp only
    split <;> simp [lower]
  have seg (s : State) : (s.abandonSegment r).pair.mode = s.pair.mode := by
    unfold State.abandonSegment
    split <;> rfl
  show (((s.abandonSegment r).releaseToken).dropReads ownCmd).dropOutbox.dropXlats.pair.mode = s.pair.mode
  exact (tok _).trans (seg s)

/-- Ending or keeping a reply changes nothing but the run and the ring. -/
theorem State.giveFinal_mode (s : State) (r : Running) (y : Reply) : (s.giveFinal r y).pair.mode = s.pair.mode := by
  rw [State.giveFinal_pair]

theorem State.recallBands_mirror (s : State) (r : Running) : (s.recallBands r).2.mirror = r.mirror := by
  unfold State.recallBands
  split <;> rfl

/-- What a final reply does: it waits, or the command keeps it (12 R278). -/
theorem State.giveFinal_run_ring (s : State) (r : Running) (y : Reply) :
    (s.giveFinal r y).run = (if r.mirror || s.ring.waiting.isEmpty then s.run else some { r with stage := .done, final := some y }) ∧
    (s.giveFinal r y).ring = if r.mirror || s.ring.waiting.isEmpty then { s.ring with waiting := s.ring.waiting ++ [y] } else s.ring := by
  unfold State.giveFinal
  constructor <;> split <;> rfl

/-- What ending a command does, for a command of this twin's own queue. -/
theorem State.endRun_ended (s : State) (r : Running) (x : Say) (ks : List Nat) (h : r.stolen = none) :
    s.EndedWith r (s.endRun r x ks) x ks := by
  have cf {γ : Type} (p : State → γ) (hp : ∀ (s : State) k, p (s.count k) = p s) (l : List Nat) (s : State) :
      p (l.foldl (fun s k => s.count k) s) = p s := foldl_frame p _ hp l s
  obtain ⟨u, hu, e⟩ : ∃ u, (u = (if (s.recallBands r).2.mirror then
        ks.foldl (fun s k => s.count k) ((s.recallBands r).1.leave (s.recallBands r).2)
       else if mirrorsOp (s.recallBands r).2.op then
        (ks.foldl (fun s k => s.count k) ((s.recallBands r).1.leave (s.recallBands r).2)).tellEnd (r.reply x)
       else (ks.foldl (fun s k => s.count k) ((s.recallBands r).1.leave (s.recallBands r).2)).tell (r.reply x))) ∧
      s.endRun r x ks = u.giveFinal (s.recallBands r).2 (r.reply x) := by
    refine ⟨_, rfl, ?_⟩
    unfold State.endRun
    rw [if_neg (by simp [h])]
    dsimp only
    rw [State.recallBands_reply]
  have lift {γ : Type} (p : State → γ) (v : γ) (ht : ∀ (s : State) y, p (s.tell y) = p s)
      (he : ∀ (s : State) y, p (s.tellEnd y) = p s) (hc : ∀ (s : State) k, p (s.count k) = p s)
      (hl : p ((s.recallBands r).1.leave (s.recallBands r).2) = v) : p u = v := by
    rw [hu]
    split
    · rw [cf p hc, hl]
    · split
      · rw [he, cf p hc, hl]
      · rw [ht, cf p hc, hl]
  have hr : u.run = none := lift (·.run) _ (by simp) (by simp) (by simp) rfl
  have hg : u.ring = s.ring := lift (·.ring) _ (by simp) (by simp) (by simp) (by simp)
  constructor
  case run =>
    have hm := State.recallBands_mirror s r
    rw [e, (State.giveFinal_run_ring _ _ _).1, hr, hg]
    cases hb : (r.mirror || s.ring.waiting.isEmpty) <;> simp [hm, hb]
  case ring => rw [e, (State.giveFinal_run_ring _ _ _).2, hg, State.recallBands_mirror]
  case pow => rw [e, State.giveFinal_pow]; exact lift (·.pow) _ (by simp) (by simp) (by simp) (by simp [State.leave])
  case mode =>
    rw [e, State.giveFinal_mode]
    exact lift (·.pair.mode) _ State.tell_mode State.tellEnd_mode (fun _ _ => rfl)
      ((State.leave_mode _ _).trans (State.recallBands_mode _ _))
  case cnt =>
    rw [e, State.giveFinal_cnt, hu]
    split
    · rw [counts_cnt, State.leave_cnt, State.recallBands_cnt]
    · split
      · rw [State.tellEnd_cnt, counts_cnt, State.leave_cnt, State.recallBands_cnt]
      · rw [State.tell_cnt, counts_cnt, State.leave_cnt, State.recallBands_cnt]
  all_goals simp

/-- Ending with ST_OK. -/
theorem State.endOk_ended (s : State) (r : Running) (h : r.stolen = none) : s.EndedWith r (s.endOk r) { status := 0x00 } [] :=
  s.endRun_ended r _ _ h

/-- A command that its twin refuses as it reads its input: its reply counts no unit (12 R295). -/
theorem State.refuseRun_ended (s : State) (r : Running) (status reason index value : Nat) (h : r.stolen = none) :
    s.EndedWith { r with tilesDone := 0 } (s.refuseRun r status reason index value)
      { status := status, reason := reason, index := index, value := value } [cREFUSED] :=
  s.endRun_ended { r with tilesDone := 0 } _ _ h

end Sys2Proof.Machine
end

