-- ==== Sys2Proof/Laws/Sparse.lean ====
section
/-! SUPPORT. Sparse storages: a write is read back, leaves every other key alone, and keeps the canonical form. -/

namespace Sys2Proof.Machine

variable {α : Type}

theorem sget_sput_self (d : α) (m : Sparse α) (k : Nat) (v : α) : sget d (sput m k v) k = v := by
  induction m with
  | nil => simp [sput, sget]
  | cons x m ih =>
    obtain ⟨k', v'⟩ := x
    by_cases h1 : k = k'
    · simp [sput, sget, h1]
    · by_cases h2 : k < k' <;> simp [sput, sget, h1, h2, ih]

theorem sget_sput_other (d : α) (m : Sparse α) (k j : Nat) (v : α) (h : j ≠ k) :
    sget d (sput m k v) j = sget d m j := by
  induction m with
  | nil => simp [sput, sget, h]
  | cons x m ih =>
    obtain ⟨k', v'⟩ := x
    by_cases h1 : k = k'
    · subst h1; simp [sput, sget, h]
    · by_cases h2 : k < k'
      · by_cases h3 : j < k
        · have : j ≠ k' := by omega
          have : j < k' := by omega
          simp [sput, sget, *]
        · simp [sput, sget, *]
      · simp [sput, sget, *]

variable [DecidableEq α]

theorem sparseAbove_weaken (d : α) (b c : Option Nat) (m : Sparse α)
    (h : match c, b with | none, _ => True | some _, none => False | some c, some b => c ≤ b)
    (hm : sparseAbove d b m = true) : sparseAbove d c m = true := by
  cases m with
  | nil => simp [sparseAbove]
  | cons x m =>
    obtain ⟨k, v⟩ := x
    cases b <;> cases c <;> simp_all [sparseAbove]
    omega

/-- Keys below a bound of a canonical storage read as the default. -/
theorem sget_below (d : α) (b : Nat) (m : Sparse α) (hm : sparseAbove d (some b) m = true) (j : Nat) (h : j ≤ b) :
    sget d m j = d := by
  cases m with
  | nil => simp [sget]
  | cons x m =>
    obtain ⟨k, v⟩ := x
    simp [sparseAbove] at hm
    have h1 : j ≠ k := by omega
    have h2 : j < k := by omega
    simp [sget, h1, h2]

theorem sparseAbove_sput (d : α) (v : α) (hv : v ≠ d) (k : Nat) (m : Sparse α) (b : Option Nat)
    (hb : match b with | none => True | some b => b < k) (hm : sparseAbove d b m = true) :
    sparseAbove d b (sput m k v) = true := by
  induction m generalizing b with
  | nil => cases b <;> simp_all [sput, sparseAbove]
  | cons x m ih =>
    obtain ⟨k', v'⟩ := x
    by_cases h1 : k = k'
    · subst h1; cases b <;> simp_all [sput, sparseAbove]
    · by_cases h2 : k < k'
      · cases b <;> simp_all [sput, sparseAbove]
      · have h3 : k' < k := by omega
        simp only [sput, h1, h2, if_false, sparseAbove, Bool.and_eq_true] at hm ⊢
        exact ⟨hm.1, ih (some k') h3 hm.2⟩

theorem sparseAbove_serase (d : α) (k : Nat) (m : Sparse α) (b : Option Nat) (hm : sparseAbove d b m = true) :
    sparseAbove d b (serase m k) = true := by
  induction m generalizing b with
  | nil => simp [serase, sparseAbove]
  | cons x m ih =>
    obtain ⟨k', v'⟩ := x
    simp only [sparseAbove, Bool.and_eq_true] at hm
    by_cases h1 : k = k'
    · simp only [serase, h1, if_true]
      refine sparseAbove_weaken d (some k') b m ?_ hm.2
      have := hm.1.1
      cases b <;> simp_all
      omega
    · by_cases h2 : k < k'
      · simp [serase, h1, h2, sparseAbove, hm]
      · simp only [serase, h1, h2, if_false, sparseAbove, Bool.and_eq_true]
        exact ⟨hm.1, ih _ hm.2⟩

/-- A write keeps the canonical form. -/
theorem sparseWf_sset (d : α) (m : Sparse α) (k : Nat) (v : α) (hm : sparseWf d m = true) :
    sparseWf d (sset d m k v) = true := by
  unfold sset
  split
  · exact sparseAbove_serase d k m none hm
  · exact sparseAbove_sput d v ‹_› k m none trivial hm

/-- A run of writes keeps the canonical form. -/
theorem sparseWf_ssetAll (d : α) (kvs : List (Nat × α)) (m : Sparse α) (hm : sparseWf d m = true) :
    sparseWf d (ssetAll d m kvs) = true := by
  unfold ssetAll
  induction kvs generalizing m with
  | nil => exact hm
  | cons x kvs ih => exact ih _ (sparseWf_sset d m x.1 x.2 hm)

theorem sget_serase_self (d : α) (m : Sparse α) (k : Nat) (b : Option Nat) (hm : sparseAbove d b m = true) :
    sget d (serase m k) k = d := by
  induction m generalizing b with
  | nil => simp [serase, sget]
  | cons x m ih =>
    obtain ⟨k', v'⟩ := x
    simp only [sparseAbove, Bool.and_eq_true] at hm
    by_cases h1 : k = k'
    · subst h1
      simpa [serase] using sget_below d k m hm.2 k (Nat.le_refl k)
    · by_cases h2 : k < k'
      · simp [serase, sget, h1, h2]
      · simpa [serase, sget, h1, h2] using ih _ hm.2

theorem sget_serase_other (d : α) (m : Sparse α) (k j : Nat) (b : Option Nat) (hm : sparseAbove d b m = true) (h : j ≠ k) :
    sget d (serase m k) j = sget d m j := by
  induction m generalizing b with
  | nil => simp [serase, sget]
  | cons x m ih =>
    obtain ⟨k', v'⟩ := x
    simp only [sparseAbove, Bool.and_eq_true] at hm
    by_cases h1 : k = k'
    · subst h1
      by_cases h3 : j < k
      · simp [serase, sget, h, h3, sget_below d k m hm.2 j (by omega)]
      · simp [serase, sget, h, h3]
    · by_cases h2 : k < k'
      · simp [serase, h1, h2]
      · simp [serase, sget, h1, h2, ih _ hm.2]

/-- A key that has been written reads as what was written. -/
theorem sget_sset_self (d : α) (m : Sparse α) (k : Nat) (v : α) (hm : sparseWf d m = true) :
    sget d (sset d m k v) k = v := by
  unfold sset
  split
  · rename_i h; rw [h]; exact sget_serase_self d m k none hm
  · exact sget_sput_self d m k v

/-- Every other key reads as before. -/
theorem sget_sset_other (d : α) (m : Sparse α) (k j : Nat) (v : α) (hm : sparseWf d m = true) (h : j ≠ k) :
    sget d (sset d m k v) j = sget d m j := by
  unfold sset
  split
  · exact sget_serase_other d m k j none hm h
  · exact sget_sput_other d m k j v h

/-- Keeping some entries keeps the canonical form. -/
theorem sparseAbove_filter (d : α) (p : Nat × α → Bool) (m : Sparse α) (b : Option Nat) (hm : sparseAbove d b m = true) :
    sparseAbove d b (m.filter p) = true := by
  induction m generalizing b with
  | nil => simp [sparseAbove]
  | cons x m ih =>
    obtain ⟨k', v'⟩ := x
    simp only [sparseAbove, Bool.and_eq_true] at hm
    by_cases hp : p (k', v')
    · simp only [List.filter_cons, hp, if_true, sparseAbove, Bool.and_eq_true]
      exact ⟨hm.1, ih _ hm.2⟩
    · simp only [List.filter_cons, hp]
      refine ih b (sparseAbove_weaken d (some k') b m ?_ hm.2)
      have := hm.1.1
      cases b <;> simp_all
      omega

theorem sparseWf_filter (d : α) (p : Nat × α → Bool) (m : Sparse α) (hm : sparseWf d m = true) :
    sparseWf d (m.filter p) = true := sparseAbove_filter d p m none hm

end Sys2Proof.Machine
end

