-- ==== Sys2Proof/Laws/Kept.lean ====
section
/-! SUPPORT. What a function from states to states keeps: straps, wrapper, waiting commands, and well-formedness. One lemma per
function, said in the form "if `s` is kept from `a`, so is the function's result", so that they chain. -/

namespace Sys2Proof.Machine

open Sys2Proof

/-- The fields that every functional command but a cold reset leaves, and well-formedness. -/
structure Kept (a s : State) : Prop where
  straps : s.straps = a.straps
  wrap : s.wrap = a.wrap
  pending : s.pending = a.pending
  ok : a.Ok → s.Ok

theorem Kept.refl (s : State) : Kept s s := ⟨rfl, rfl, rfl, id⟩

theorem Kept.trans {a s t : State} (h : Kept a s) (k : Kept s t) : Kept a t :=
  ⟨k.straps.trans h.straps, k.wrap.trans h.wrap, k.pending.trans h.pending, fun o => k.ok (h.ok o)⟩

/-- `Kept` by the fields it speaks of. -/
def KeptBy (a : State) (sp : StrapPins) (wr : Wrapper) (pe : List Instr) (ar : Arch) (cn : Counters) (nu : NumRegs)
    (qs : Quad Queue) (rs : BitVec 4) (ss : BitVec 4) (sper : BitVec 24) (cper : BitVec 24) (ni : BitVec 16) (np : BitVec 13)
    (ds : Sparse StepLog) (nv : Sparse (BitVec 8)) : Prop :=
  sp = a.straps ∧ wr = a.wrap ∧ pe = a.pending ∧
  (a.Ok → ar.Canonical ∧ cn.Ok ∧ nu.Ok ∧ qs.q0.Ok ∧ qs.q1.Ok ∧ qs.q2.Ok ∧ qs.q3.Ok ∧ rs.toNat ≤ 12 ∧ ss.toNat ≤ 12 ∧
    500 ≤ sper.toNat ∧ 5000 ≤ cper.toNat ∧ 16 ≤ ni.toNat ∧ np.toNat < scrubUnits ∧ sparseWf {} ds = true ∧ sparseWf 0 nv = true)

theorem kept_iff (a s : State) : Kept a s ↔ KeptBy a s.straps s.wrap s.pending s.arch s.cnt s.num s.queues s.ring.base.size
    s.star.base.size s.star.period s.cal.period s.night.interval s.night.pos s.dawn.steps s.night.starved :=
  ⟨fun h => ⟨h.straps, h.wrap, h.pending, fun o =>
    have k := h.ok o
    ⟨k.arch, k.cnt, k.num, k.q0, k.q1, k.q2, k.q3, k.reply, k.starRing, k.starPeriod, k.calPeriod, k.scrubInterval, k.scrubPos, k.dawnSteps, k.starved⟩⟩,
   fun h => ⟨h.1, h.2.1, h.2.2.1, fun o =>
    have k := h.2.2.2 o
    ⟨k.1, k.2.1, k.2.2.1, k.2.2.2.1, k.2.2.2.2.1, k.2.2.2.2.2.1, k.2.2.2.2.2.2.1, k.2.2.2.2.2.2.2.1, k.2.2.2.2.2.2.2.2.1,
      k.2.2.2.2.2.2.2.2.2.1, k.2.2.2.2.2.2.2.2.2.2.1, k.2.2.2.2.2.2.2.2.2.2.2.1, k.2.2.2.2.2.2.2.2.2.2.2.2.1,
      k.2.2.2.2.2.2.2.2.2.2.2.2.2.1, k.2.2.2.2.2.2.2.2.2.2.2.2.2.2⟩⟩⟩

@[simp] theorem kept_mk (a : State) (ar nu qu ri tr cn er ni st ca da po cl pa db sp pt ru wr wi fr pe) :
    Kept a (State.mk ar nu qu ri tr cn er ni st ca da po cl pa db sp pt ru wr wi fr pe) ↔
      KeptBy a sp wr pe ar cn nu qu ri.base.size st.base.size st.period ca.period ni.interval ni.pos da.steps ni.starved := kept_iff _ _

@[simp] theorem keptBy_of (a s : State) (h : Kept a s) : KeptBy a s.straps s.wrap s.pending s.arch s.cnt s.num s.queues
    s.ring.base.size s.star.base.size s.star.period s.cal.period s.night.interval s.night.pos s.dawn.steps s.night.starved := (kept_iff a s).mp h

@[simp] theorem kept_ite (a s t : State) (c : Prop) [Decidable c] (h : c → Kept a s) (k : ¬c → Kept a t) :
    Kept a (if c then s else t) := by split <;> simp_all

@[simp] theorem kept_self (a : State) : Kept a a := Kept.refl a

/-- Only the storages change. -/
theorem keptBy_arch (a s : State) (x : Arch) (h : Kept a s) (hx : s.arch.Canonical → x.Canonical) :
    KeptBy a s.straps s.wrap s.pending x s.cnt s.num s.queues
      s.ring.base.size s.star.base.size s.star.period s.cal.period s.night.interval s.night.pos s.dawn.steps s.night.starved :=
  have k := (kept_iff a s).mp h
  ⟨k.1, k.2.1, k.2.2.1, fun o => ⟨hx (k.2.2.2 o).1, (k.2.2.2 o).2⟩⟩

/-- Only the counters change. -/
theorem keptBy_cnt (a s : State) (x : Counters) (h : Kept a s) (hx : s.cnt.Ok → x.Ok) :
    KeptBy a s.straps s.wrap s.pending s.arch x s.num s.queues
      s.ring.base.size s.star.base.size s.star.period s.cal.period s.night.interval s.night.pos s.dawn.steps s.night.starved :=
  have k := (kept_iff a s).mp h
  ⟨k.1, k.2.1, k.2.2.1, fun o => ⟨(k.2.2.2 o).1, hx (k.2.2.2 o).2.1, (k.2.2.2 o).2.2⟩⟩

/-- Only storages and counters change. -/
theorem keptBy_archCnt (a s : State) (x : Arch) (y : Counters) (h : Kept a s) (hx : s.arch.Canonical → x.Canonical)
    (hy : s.cnt.Ok → y.Ok) : KeptBy a s.straps s.wrap s.pending x y s.num s.queues
      s.ring.base.size s.star.base.size s.star.period s.cal.period s.night.interval s.night.pos s.dawn.steps s.night.starved :=
  have k := (kept_iff a s).mp h
  ⟨k.1, k.2.1, k.2.2.1, fun o => ⟨hx (k.2.2.2 o).1, hy (k.2.2.2 o).2.1, (k.2.2.2 o).2.2⟩⟩

/-- Only the counters are replaced. -/
theorem kept_ofCnt (z s : State) (h : Kept z s) {x : Counters} (hx : s.cnt.Ok → x.Ok) : Kept z { s with cnt := x } := by
  simp only [kept_mk]
  exact keptBy_cnt z s _ h hx

/-- Only the storages are replaced. -/
theorem kept_ofArch (z s : State) (h : Kept z s) {x : Arch} (hx : s.arch.Canonical → x.Canonical) : Kept z { s with arch := x } := by
  simp only [kept_mk]
  exact keptBy_arch z s _ h hx

/-- Only the numerics registers are replaced. -/
theorem kept_ofNum (z s : State) (h : Kept z s) {x : NumRegs} (hx : s.num.Ok → x.Ok) : Kept z { s with num := x } := by
  refine ⟨h.straps, h.wrap, h.pending, fun o => ?_⟩
  have k := h.ok o
  exact { k with num := hx k.num }

/-- The states of an answer to a request for lines. -/
def Asked.Kept (z : State) : Asked → Prop
  | .ready s _ => Machine.Kept z s
  | .wait s => Machine.Kept z s
  | .fault _ => True

/-! ### Counters -/

theorem Counters.raise_ok (c : Counters) (k n : Nat) (h : c.Ok) : (c.raise k n).Ok := by
  refine ⟨sparseWf_sset _ _ _ _ h.vals, h.snaps, fun j => ?_⟩
  by_cases hj : j = k
  · subst hj
    simp only [Counters.raise, Counters.value, sget_sset_self 0 _ _ _ h.vals]
    exact Nat.min_le_right _ _
  · simp only [Counters.raise, Counters.value, sget_sset_other 0 _ _ _ _ h.vals hj]
    exact h.bounded j

theorem Counters.raiseAll_ok (l : Sparse Nat) (c : Counters) (h : c.Ok) : (c.raiseAll l).Ok := by
  unfold Counters.raiseAll
  induction l generalizing c with
  | nil => exact h
  | cons x l ih => exact ih _ (c.raise_ok _ _ h)

@[simp] theorem kept_count (a s : State) (k : Nat) (h : Kept a s) : Kept a (s.count k) := by
  simp only [State.count, kept_mk]
  exact keptBy_cnt a s _ h (Counters.raise_ok _ _ _)

@[simp] theorem kept_countBy (a s : State) (k n : Nat) (h : Kept a s) : Kept a (s.countBy k n) := by
  simp only [State.countBy, kept_mk]
  exact keptBy_cnt a s _ h (Counters.raise_ok _ _ _)

@[simp] theorem kept_drawFree (a s : State) (h : Kept a s) : Kept a s.drawFree := by simp [State.drawFree, h]
@[simp] theorem kept_raiseErr (a s : State) (k : Nat) (h : Kept a s) : Kept a (s.raiseErr k) := by simp [State.raiseErr, h]
@[simp] theorem kept_drive (a s : State) (w : Wire) (h : Kept a s) : Kept a (s.drive w) := by simp [State.drive, h]
@[simp] theorem kept_recordErr (a s : State) (q : BitVec 2) (e : ErrRec) (h : Kept a s) : Kept a (s.recordErr q e) := by
  simp [State.recordErr, h]

/-! ### Queues -/

theorem Quad.set_all {α : Type} (p : α → Prop) (x : Quad α) (q : BitVec 2) (v : α) (h0 : p x.q0) (h1 : p x.q1) (h2 : p x.q2)
    (h3 : p x.q3) (hv : p v) : p (x.set q v).q0 ∧ p (x.set q v).q1 ∧ p (x.set q v).q2 ∧ p (x.set q v).q3 := by
  unfold Quad.set; split <;> (try split) <;> (try split) <;> simp_all

theorem Quad.get_all {α : Type} (p : α → Prop) (x : Quad α) (q : BitVec 2) (h0 : p x.q0) (h1 : p x.q1) (h2 : p x.q2)
    (h3 : p x.q3) : p (x.get q) := by
  unfold Quad.get; split <;> (try split) <;> (try split) <;> simp_all

theorem State.Ok.queue {s : State} (o : s.Ok) (q : BitVec 2) : (s.queue q).Ok :=
  Quad.get_all Queue.Ok s.queues q o.q0 o.q1 o.q2 o.q3

@[simp] theorem Queue.ok_mk (b : RingBase) (t h e p l c v i w n f g su wf) :
    Queue.Ok (Queue.mk b t h e p l c v i w n f g su wf) ↔ w.length ≤ 256 ∧ b.size.toNat ≤ 12 :=
  ⟨fun o => ⟨o.window, o.size⟩, fun o => ⟨o.1, o.2⟩⟩

@[simp] theorem Queue.ok_self (x : Queue) : (x.window.length ≤ 256 ∧ x.base.size.toNat ≤ 12) ↔ x.Ok :=
  ⟨fun o => ⟨o.1, o.2⟩, fun o => ⟨o.window, o.size⟩⟩

@[simp] theorem Queue.advance_ok (x : Queue) : x.advance.Ok ↔ x.Ok := by simp [Queue.advance]
@[simp] theorem Queue.accept_ok (x : Queue) (t : Word) : (x.accept t).Ok ↔ x.Ok := by simp [Queue.accept]

theorem Queue.enter_ok (x : Queue) (t : Word) (ws : List Word) (o : x.Ok) : (x.enter t ws).Ok := by
  refine ⟨?_, o.size⟩
  simp only [Queue.enter]
  have := o.window
  split
  · simp; omega
  · omega

/-- A queue is replaced by one whose window and ring size are as legal. -/
@[simp] theorem kept_setQueue (a s : State) (q : BitVec 2) (v : Queue) (h : Kept a s) (hv : (s.queue q).Ok → v.Ok) :
    Kept a (s.setQueue q v) := by
  refine ⟨h.straps, h.wrap, h.pending, fun o => ?_⟩
  have k := h.ok o
  have := Quad.set_all Queue.Ok s.queues q v k.q0 k.q1 k.q2 k.q3 (hv (k.queue q))
  exact { k with q0 := this.1, q1 := this.2.1, q2 := this.2.2.1, q3 := this.2.2.2 }

/-- Every queue is replaced. -/
theorem kept_mapQueues (a s : State) (f : Queue → Queue) (h : Kept a s) (hf : ∀ x : Queue, x.Ok → (f x).Ok) :
    Kept a { s with queues := s.queues.map f } := by
  refine ⟨h.straps, h.wrap, h.pending, fun o => ?_⟩
  have k := h.ok o
  exact { k with q0 := hf _ k.q0, q1 := hf _ k.q1, q2 := hf _ k.q2, q3 := hf _ k.q3 }

/-- A queue's window and ring size decide. -/
theorem Queue.Ok.of {x y : Queue} (h : x.Ok) (hw : y.window = x.window) (hb : y.base = x.base) : y.Ok :=
  ⟨hw ▸ h.window, hb ▸ h.size⟩

/-! ### Folds -/

theorem kept_foldl {β : Type} (a : State) (f : State → β → State) (hf : ∀ s x, Kept a s → Kept a (f s x)) (l : List β) (s : State)
    (h : Kept a s) : Kept a (l.foldl f s) := by
  induction l generalizing s with
  | nil => exact h
  | cons x l ih => exact ih _ (hf s x h)

@[simp] theorem kept_counts (a s : State) (l : List Nat) (h : Kept a s) : Kept a (l.foldl (fun s k => s.count k) s) :=
  kept_foldl a _ (fun s k h => kept_count a s k h) l s h

theorem canonical_foldl {β : Type} (f : Arch → β → Arch) (hf : ∀ a x, a.Canonical → (f a x).Canonical) (l : List β) (a : Arch)
    (h : a.Canonical) : (l.foldl f a).Canonical := by
  induction l generalizing a with
  | nil => exact h
  | cons x l ih => exact ih _ (hf a x h)

end Sys2Proof.Machine
end

