-- ==== Sys2Proof/Laws/Storages.lean ====
section
/-! SUPPORT. Every operation on the storages keeps their canonical form. -/

namespace Sys2Proof.Machine

open Sys2Proof

theorem Arch.setRow_canonical (a : Arch) (n i : Nat) (t : TileRow) (h : a.Canonical) : (a.setRow n i t).Canonical :=
  { h with trf := sparseWf_sset {} a.trf _ t h.trf }

theorem Arch.setMask_canonical (a : Arch) (m i : Nat) (v : MaskRow) (h : a.Canonical) : (a.setMask m i v).Canonical := by
  unfold Arch.setMask
  split
  · exact h
  · exact { h with masks := sparseWf_sset {} a.masks _ v h.masks }

theorem Arch.setSrow_canonical (a : Arch) (n i : Nat) (v : SRow) (h : a.Canonical) : (a.setSrow n i v).Canonical :=
  { h with sregs := sparseWf_sset {} a.sregs _ v h.sregs }

theorem Arch.setWas_canonical (a : Arch) (k : Nat) (d : Line) (c : Word) (p : Bool) (h : a.Canonical) :
    (a.setWas k d c p).Canonical := { h with was := sparseWf_sset {} a.was k _ h.was }

theorem Arch.setWasFresh_canonical (a : Arch) (k : Nat) (d : Line) (p : Bool) (h : a.Canonical) :
    (a.setWasFresh k d p).Canonical := { h with was := sparseWf_sset {} a.was k _ h.was }

theorem Arch.granule_canonical (a : Arch) (k : Nat) (v : BitVec 512) (h : a.Canonical) :
    ({ a with granules := sset 0 a.granules k v } : Arch).Canonical := { h with granules := sparseWf_sset 0 a.granules k v h.granules }

theorem Arch.poisonRow_canonical (a : Arch) (k j : Nat) (v : BitVec 64) (h : a.Canonical) : (a.poisonRow k j v).Canonical :=
  { h with trf := sparseWf_sset {} a.trf k _ h.trf }

theorem Arch.poisonTag_canonical (a : Arch) (k : Nat) (h : a.Canonical) : (a.poisonTag k).Canonical :=
  { h with trf := sparseWf_sset {} a.trf k _ h.trf }

theorem Arch.poisonField_canonical (a : Arch) (n j : Nat) (v : Word) (h : a.Canonical) : (a.poisonField n j v).Canonical :=
  Arch.setSrow_canonical _ _ _ _ h

theorem Arch.poisonProg_canonical (a : Arch) (g : Nat) (h : a.Canonical) : (a.poisonProg g).Canonical := { h with }

theorem Arch.poisonWord_canonical (a : Arch) (st w : Nat) (v : BitVec 64) (h : a.Canonical) : (a.poisonWord st w v).Canonical := by
  unfold Arch.poisonWord
  split
  · exact a.poisonRow_canonical _ _ _ h
  · exact a.poisonTag_canonical _ h
  · exact a.setMask_canonical _ _ _ h
  · exact Arch.poisonField_canonical _ _ _ _ (a.poisonField_canonical _ _ _ h)
  · exact a.setWas_canonical _ _ _ _ h
  · exact Arch.poisonProg_canonical _ _ (a.granule_canonical _ _ h)
  · exact h

theorem Arch.cleared_canonical : Arch.cleared.Canonical := ⟨rfl, rfl, rfl, rfl, rfl⟩

end Sys2Proof.Machine
end

