-- ==== Sys2Proof/Laws/Forms.lean ====
section
/-! SUPPORT. Every operation over the storages keeps their canonical form. -/

namespace Sys2Proof.Machine
open Sys2Proof

/-- A fold whose steps keep the storages' form in a pair's first part. -/
theorem canonical_foldl_fst {β γ : Type} (f : Arch × γ → β → Arch × γ) (hf : ∀ a x, a.1.Canonical → (f a x).1.Canonical) (l : List β)
    (a : Arch × γ) (h : a.1.Canonical) : (l.foldl f a).1.Canonical := by
  induction l generalizing a with
  | nil => exact h
  | cons x l ih => exact ih _ (hf a x h)

theorem ite_canonical {c : Prop} [Decidable c] {a b : Arch} (h : a.Canonical) (k : b.Canonical) : (if c then a else b).Canonical := by
  split <;> assumption

theorem Arch.poisonMask_canonical (a : Arch) (m row k : Nat) (v : BitVec 64) (h : a.Canonical) :
    (Arch.poisonMask a m row k v).Canonical := by
  unfold Arch.poisonMask
  try dsimp only
  repeat' first
    | assumption
    | with_reducible apply Arch.setMask_canonical

theorem Arch.poisonWas_canonical (a : Arch) (row k : Nat) (v : BitVec 64) (h : a.Canonical) :
    (Arch.poisonWas a row k v).Canonical := by
  unfold Arch.poisonWas
  try dsimp only
  repeat' first
    | assumption
    | with_reducible apply Arch.setWas_canonical

theorem Arch.spoilGranule_canonical (a : Arch) (g k : Nat) (v : BitVec 64) (h : a.Canonical) :
    (Arch.spoilGranule a g k v).Canonical := by
  unfold Arch.spoilGranule
  try dsimp only
  repeat' first
    | assumption
    | with_reducible apply Arch.granule_canonical

theorem writeTile_canonical (a : Arch) (producer reg span fmt : Nat) (rows : List (List Nat)) (h : a.Canonical) :
    (writeTile a producer reg span fmt rows).Canonical := by
  unfold writeTile
  try dsimp only
  repeat' first
    | assumption
    | (intro; intro; intro)
    | with_reducible apply Arch.setRow_canonical
    | with_reducible apply canonical_foldl

theorem PassWrite.apply_canonical (producer : Nat) (a : Arch) (w : PassWrite) (h : a.Canonical) :
    (PassWrite.apply producer a w).Canonical := by
  cases w with
  | tile reg span fmt rows => exact writeTile_canonical _ _ _ _ _ _ h
  | mask m rows => exact canonical_foldl _ (fun a i h => a.setMask_canonical _ _ _ h) _ _ h
  | sreg n rows => exact canonical_foldl _ (fun a i h => a.setSrow_canonical _ _ _ h) _ _ h

theorem loadBlock_canonical (a : Arch) (buf : Sparse RdLine) (d : Desc) (tr : Bool) (producer base row0 c0 n : Nat) (h : a.Canonical) :
    (loadBlock a buf d tr producer base row0 c0 n).1.Canonical := by
  unfold loadBlock
  try dsimp only
  repeat' first
    | assumption
    | (intro; intro; intro)
    | with_reducible apply Arch.setRow_canonical
    | with_reducible apply canonical_foldl
    | with_reducible apply canonical_foldl_fst

theorem writeOob_canonical (a : Arch) (w : Nat) (slots : List (Nat × List (List Bool))) (h : a.Canonical) :
    (writeOob a w slots).Canonical := by
  unfold writeOob
  try dsimp only
  repeat' first
    | assumption
    | (intro; intro; intro)
    | with_reducible apply Arch.setMask_canonical
    | with_reducible apply canonical_foldl
    | split

theorem loadStat_canonical (a : Arch) (buf : Sparse RdLine) (w : Walk) (band : Nat) (d : Desc) (e : Nat × Nat × Nat) (h : a.Canonical) :
    (loadStat a buf w band d e).Canonical := by
  unfold loadStat
  try dsimp only
  repeat' first
    | assumption
    | (intro; intro; intro)
    | with_reducible apply Arch.setSrow_canonical
    | with_reducible apply canonical_foldl

theorem holdOut_canonical (a b : Arch) (producer fmt base span t : Nat) (h : a.Canonical)
    (e : holdOut a producer fmt base span t = .ok b) : b.Canonical := by
  unfold holdOut at e
  dsimp only at e
  split at e
  · cases e
  · cases e
    exact canonical_foldl _ (fun a p h => a.setRow_canonical _ _ _ h) _ _ h

theorem holdIn_canonical (a b : Arch) (base span t : Nat) (h : a.Canonical) (e : holdIn a base span t = .ok b) : b.Canonical := by
  unfold holdIn at e
  dsimp only at e
  split at e
  · cases e
  · cases e
    exact canonical_foldl _ (fun a p h => a.setWas_canonical _ _ _ _ h) _ _ h

theorem loadSlots_canonical (a : Arch) (buf : Sparse RdLine) (r : Running) (P : Prog) (ds : List Nat) (row0 t : Nat) (h : a.Canonical) :
    (loadSlots a buf r P ds row0 t).Canonical := by
  unfold loadSlots
  try dsimp only
  repeat' first
    | assumption
    | (intro; intro; intro)
    | with_reducible apply loadBlock_canonical
    | with_reducible apply writeOob_canonical
    | with_reducible apply canonical_foldl_fst

theorem clearCross_canonical (a : Arch) (P : Prog) (h : a.Canonical) : (clearCross a P).Canonical := by
  unfold clearCross
  refine canonical_foldl _ (fun a u h => ?_) _ _ h
  exact canonical_foldl _ (fun b i k => b.setSrow_canonical _ i _ k) _ _ h

theorem foldValue_canonical (ctx : NumCtx) (P : Prog) (band : Nat) (acc : Arch × Pend × List Nat)
    (e : BitVec 7 × BitVec 5 × BitVec 3 × Word) (h : acc.1.Canonical) : (foldValue ctx P band acc e).1.Canonical := by
  unfold foldValue
  split
  · exact h
  · dsimp only
    split
    · exact h
    · exact acc.1.setSrow_canonical _ _ _ h

theorem foldStolen_canonical (a : Arch) (r : Running) (w : Walk) (x : StealReport) (h : a.Canonical) :
    (foldStolen a r w x).1.Canonical :=
  canonical_foldl_fst _ (fun a e h => foldValue_canonical _ _ _ a e h) _ _ h

theorem Item.load_canonical (it : Item) (r : Running) (buf : Sparse RdLine) (a : Arch) (h : a.Canonical) :
    (Item.load it r buf a).Canonical := by
  unfold Item.load
  try dsimp only
  repeat' first
    | assumption
    | (intro; intro; intro)
    | with_reducible apply Arch.setRow_canonical
    | with_reducible apply canonical_foldl

theorem Seg.setPay_canonical (g : Seg) (r : Running) (x : Side) (u i : Nat) (a : Arch) (kc : Nat × Nat) (h : a.Canonical) :
    (g.setPay r x u i a kc).Canonical := a.setRow_canonical _ _ _ h

theorem Seg.demoteBlock_canonical (g : Seg) (r : Running) (x : Side) (kept : List Nat) (u i q : Nat) (acc : Arch × Pend)
    (h : acc.1.Canonical) : (Seg.demoteBlock g r x kept u i q acc).1.Canonical := by
  unfold Seg.demoteBlock
  dsimp only
  split
  · exact h
  · have k := canonical_foldl (fun a k => g.setPay r x u i a (32 * q + k, 0)) (fun a k h => g.setPay_canonical _ _ _ _ a _ h)
      (List.range (Nat.min 32 (r.kTotal x - 32 * q))) acc.1 h
    exact ite_canonical (Arch.setRow_canonical _ _ _ _ k) k
  · split
    · exact h
    · refine Arch.setRow_canonical _ _ _ _ (canonical_foldl_fst _ (fun a s h => ?_) _ _ h)
      split
      · exact g.setPay_canonical _ _ _ _ _ _ h
      · exact g.setPay_canonical _ _ _ _ _ _ h

theorem Seg.demoteAll_canonical (g : Seg) (sel : List (Nat × Nat × Nat × List Nat)) (ar : Arch × Running) (h : ar.1.Canonical) :
    (Seg.demoteAll g sel ar).1.Canonical := by
  unfold Seg.demoteAll
  try dsimp only
  repeat' first
    | assumption
    | (intro; intro; intro)
    | with_reducible apply Seg.demoteBlock_canonical
    | with_reducible apply canonical_foldl_fst
    | split

theorem Seg.loadPanels_canonical (g : Seg) (sel : List (Nat × Nat × Nat × List Nat)) (cols : List (Nat × Bool)) (ar : Arch × Running)
    (h : ar.1.Canonical) : (g.loadPanels sel cols ar).1.Canonical :=
  canonical_foldl_fst _ (fun _ _ h => canonical_foldl_fst _ (fun _ _ h => canonical_foldl_fst _ (fun a _ h =>
    a.1.setRow_canonical _ _ _ h) _ _ h) _ _ h) _ _ h

theorem Arch.setWide_canonical (a : Arch) (t i : Nat) (ws : List Nat) (h : a.Canonical) :
    (Arch.setWide a t i ws).Canonical := by
  unfold Arch.setWide
  try dsimp only
  repeat' first
    | assumption
    | with_reducible apply Arch.setWasFresh_canonical

theorem landTile_canonical (a : Arch) (reg producer fmt : Nat) (bs : List DrnBeat) (h : a.Canonical) :
    (landTile a reg producer fmt bs).Canonical := canonical_foldl _ (fun a i h => a.setRow_canonical reg i _ h) _ _ h

theorem spillTile_canonical (g : Seg) (r : Running) (a : Arch) (t wide : Nat) (bs : List DrnBeat) (h : a.Canonical) :
    (spillTile g r a t wide bs).1.Canonical := by
  unfold spillTile
  dsimp only
  by_cases hi : r.isIntClass = true
  · rw [if_pos hi]
    exact canonical_foldl_fst _ (fun a i h => a.1.setWide_canonical wide i _ h) _ _ h
  · rw [if_neg hi]
    exact canonical_foldl _ (fun a i h => a.setWide_canonical wide i _ h) _ _ h

theorem fillSpan_canonical (a : Arch) (producer fmt base n : Nat) (fill : Nat → Nat → List Nat) (h : a.Canonical) :
    (fillSpan a producer fmt base n fill).Canonical := by
  unfold fillSpan
  try dsimp only
  repeat' first
    | assumption
    | (intro; intro; intro)
    | with_reducible apply Arch.setRow_canonical
    | with_reducible apply canonical_foldl

theorem Running.setStat_canonical (r : Running) (a : Arch) (n m l : Nat) (h : a.Canonical) :
    (Running.setStat r a n m l).Canonical := by
  unfold Running.setStat
  try dsimp only
  repeat' first
    | assumption
    | with_reducible apply Arch.setSrow_canonical

theorem stageProb_canonical (r : Running) (g : Geom) (a : Arch) (n : Nat) (ps : List Nat) (p : Pend) (h : a.Canonical) :
    (stageProb r g a n ps p).1.Canonical := by
  unfold stageProb
  try dsimp only
  repeat' first
    | assumption
    | (intro; intro; intro)
    | with_reducible apply Arch.setRow_canonical
    | with_reducible apply canonical_foldl

theorem linkStepRow_canonical (r0 : Running) (g : Geom) (src : Arch) (ar : Arch × Running) (n : Nat) (h : ar.1.Canonical) :
    (linkStepRow r0 g src ar n).1.Canonical := by
  unfold linkStepRow
  try dsimp only
  repeat' first
    | assumption
    | with_reducible apply Running.setStat_canonical
    | with_reducible apply stageProb_canonical

theorem linkMaxRow_canonical (r0 : Running) (g : Geom) (src : Arch) (ar : Arch × Running) (n : Nat) (h : ar.1.Canonical) :
    (linkMaxRow r0 g src ar n).1.Canonical := by
  unfold linkMaxRow
  try dsimp only
  repeat' first
    | assumption
    | with_reducible apply Running.setStat_canonical

theorem loadVScales_canonical (r : Running) (g : Geom) (buf : Sparse RdLine) (a : Arch) (h : a.Canonical) :
    (loadVScales r g buf a).Canonical := by
  unfold loadVScales
  try dsimp only
  repeat' first
    | assumption
    | (intro; intro; intro)
    | with_reducible apply Arch.setRow_canonical
    | with_reducible apply canonical_foldl

theorem correctTile_canonical (r : Running) (g : Geom) (a : Arch) (u c wide : Nat) (bs : List DrnBeat) (h : a.Canonical) :
    (correctTile r g a u c wide bs).1.Canonical := by
  unfold correctTile
  dsimp only
  refine canonical_foldl _ (fun x i h => ?_) _ _ h
  split
  · exact x.setWide_canonical wide i _ h
  · exact h

theorem Running.initStats_canonical (r : Running) (g : Geom) (a : Arch) (max : Option Nat) (l : Nat) (h : a.Canonical) :
    (Running.initStats r g a max l).Canonical := by
  unfold Running.initStats
  try dsimp only
  repeat' first
    | assumption
    | (intro; intro; intro)
    | with_reducible apply Running.setStat_canonical
    | with_reducible apply canonical_foldl

theorem Arch.removeProg_canonical (a : Arch) (id : Nat) (h : a.Canonical) :
    (Arch.removeProg a id).Canonical := by
  unfold Arch.removeProg
  try dsimp only
  repeat' first
    | exact { h with }

theorem placeProgs_canonical (a : Arch) (l : List (Nat × List Nat × Bool)) (h : a.Canonical) : (placeProgs a l).Canonical := by
  unfold placeProgs
  refine canonical_foldl_fst _ (fun x p h => ?_) _ _ { h with granules := rfl }
  have k := canonical_foldl (fun (a : Arch) k =>
    { a with granules := sset 0 a.granules (x.2 + k) (BitVec.ofNat 512 (pack 32 ((p.2.1.drop (16 * k)).take 16))) })
    (fun a k h => a.granule_canonical _ _ h) (List.range (granulesFor p.2.1.length)) x.1 h
  exact { k with }

theorem Arch.restoreMap_canonical (a : Arch) (ws : List Nat) (h : a.Canonical) : (a.restoreMap ws).Canonical :=
  { h with trf := sparseWf_filter _ _ _ h.trf }

theorem Arch.restoreMasks_canonical (a : Arch) (k : Nat) (l : RdLine) (h : a.Canonical) :
    (Arch.restoreMasks a k l).Canonical := by
  unfold Arch.restoreMasks
  try dsimp only
  repeat' first
    | assumption
    | (intro; intro; intro)
    | with_reducible apply Arch.setMask_canonical
    | with_reducible apply canonical_foldl

theorem Arch.restoreS_canonical (a : Arch) (k : Nat) (l : RdLine) (h : a.Canonical) : (a.restoreS k l).Canonical :=
  canonical_foldl _ (fun a j h => a.setSrow_canonical _ _ _ h) _ _ h

theorem Arch.restoreChain_canonical (a : Arch) (k : Nat) (l : RdLine) (h : a.Canonical) : (a.restoreChain k l).Canonical := by
  have e := Arch.granule_canonical _ (2 * k + 1) (BitVec.ofNat 512 (bits l.data.toNat (512 * 1) 512))
    (a.granule_canonical (2 * k + 0) (BitVec.ofNat 512 (bits l.data.toNat (512 * 0) 512)) h)
  unfold Arch.restoreChain
  dsimp only
  split
  · exact { e with }
  · exact e

theorem Arch.restoreTile_canonical (a : Arch) (n i : Nat) (valid : Bool) (l : RdLine) (h : a.Canonical) :
    (a.restoreTile n i valid l).1.Canonical := { h with trf := sparseWf_sset _ _ _ _ h.trf }

theorem restoreLine_canonical (explicit : Bool) (ws : List Nat) (am : Arch × Nat) (j : Nat) (l : RdLine) (h : am.1.Canonical) :
    (restoreLine explicit ws am j l).1.Canonical := by
  obtain ⟨a, m⟩ := am
  unfold restoreLine
  dsimp only
  by_cases h1 : j < 32
  · rw [if_pos h1]; exact h
  rw [if_neg h1]
  by_cases h2 : j < 160
  · rw [if_pos h2]; exact a.restoreMasks_canonical _ _ h
  rw [if_neg h2]
  by_cases h3 : j < 320
  · rw [if_pos h3]; exact a.restoreS_canonical _ _ h
  rw [if_neg h3]
  by_cases h4 : j < 4416
  · rw [if_pos h4]; exact a.setWasFresh_canonical _ _ _ h
  rw [if_neg h4]
  split
  · exact a.restoreChain_canonical _ _ h
  · split
    · exact a.restoreTile_canonical _ _ _ _ h
    · exact h

theorem Arch.takeEntry_canonical (a : Arch) (id x : Nat) (h : a.Canonical) : (a.takeEntry id x).Canonical := { h with }

theorem Arch.takeGranules_canonical (a : Arch) (id : Nat) (data : Line) (h : a.Canonical) : (a.takeGranules id data).Canonical :=
  { h with granules := sparseWf_sset _ _ _ _ (sparseWf_sset _ _ _ _ h.granules) }

theorem Arch.takeTile_canonical (a : Arch) (key x : Nat) (data : Line) (check : Word) (poison : Bool) (h : a.Canonical) :
    (a.takeTile key x data check poison).Canonical := { h with trf := sparseWf_sset _ _ _ _ h.trf }

theorem Arch.takeLine_canonical (a : Arch) (k x : Nat) (l : RdLine) (h : a.Canonical) : (a.takeLine k x l).Canonical := by
  unfold Arch.takeLine
  exact ite_canonical (a.restoreMasks_canonical _ _ h) (ite_canonical (a.restoreS_canonical _ _ h)
    (ite_canonical (a.setWasFresh_canonical _ _ _ h) (ite_canonical
      (Arch.takeGranules_canonical _ _ _ (a.takeEntry_canonical _ _ h)) (ite_canonical (a.takeGranules_canonical _ _ h)
        (a.takeTile_canonical _ _ _ _ _ h)))))

theorem Arch.takeCopy_canonical (a : Arch) (hdr : Nat) (data : Line) (check : Word) (poison : Bool) (h : a.Canonical) :
    (a.takeCopy hdr data check poison).Canonical := a.takeLine_canonical _ _ _ h

end Sys2Proof.Machine
end

