-- ==== Sys2Proof/Laws/KeptPort.lean ====
section
/-! SUPPORT. Registers, ports, queues, the beginning and the end of a command, errors, and staging of writes keep what `Kept` says. -/

namespace Sys2Proof.Machine

open Sys2Proof

/-! ### Flags.lean -/

/-! ### Registers.lean -/

@[simp] theorem kept_regReadEffect (z : State) (s : State) (a : Nat) (h : Kept z s) : Kept z (regReadEffect s a) := by
  have e (k n : Nat) : Kept z { s with cnt := { s.cnt with snaps := sset 0 s.cnt.snaps k n } } :=
    kept_ofCnt z s h fun o => { vals := o.vals, snaps := sparseWf_sset 0 _ k n o.snaps, bounded := o.bounded }
  unfold regReadEffect
  split
  · simp [h]
  · simp [h]
  · split
    · exact e _ _
    · exact h

theorem Counters.ok_stalls {c : Counters} {b : Bool} (h : c.Ok) : ({ c with stalls := b } : Counters).Ok :=
  { vals := h.vals, snaps := h.snaps, bounded := h.bounded }

@[simp] theorem kept_countStalls (z : State) (s : State) (h : Kept z s) : Kept z s.countStalls := by
  unfold State.countStalls
  split
  · exact kept_ofCnt z _ (kept_drawFree _ _ h) fun o =>
      Counters.ok_stalls (Counters.raise_ok _ _ _ (Counters.raise_ok _ _ _ o))
  · exact h

@[simp] theorem kept_upToDate (z : State) (s : State) (a : Nat) (h : Kept z s) : Kept z (s.upToDate a) := by
  unfold State.upToDate
  split <;> simp [h]

@[simp] theorem kept_ignored (z : State) (s : State) (kh : Kept z s) :
    Kept z (State.ignored s) := by
  simp [State.ignored, kh]

theorem RingBase.withHi_size (b : RingBase) (v : Word) (h : b.size.toNat ≤ 12) : (b.withHi v).size.toNat ≤ 12 := by
  simp only [RingBase.withHi]
  split
  · exact h
  · have : ¬ ((13 : BitVec 4) ≤ v.extractLsb' 28 4) := ‹_›
    simp only [BitVec.not_le] at this
    have := BitVec.lt_def.mp this
    simp at this ⊢
    omega

@[simp] theorem kept_writeTail (z : State) (s : State) (q : BitVec 2) (v : Word) (h : Kept z s) : Kept z (writeTail s q v) := by
  unfold writeTail
  dsimp only
  split
  · simp [h]
  · exact kept_setQueue _ _ _ _ h fun o => ⟨o.window, o.size⟩

@[simp] theorem kept_writeCtrl (z : State) (s : State) (q : BitVec 2) (v : Word) (h : Kept z s) : Kept z (writeCtrl s q v) := by
  unfold writeCtrl
  dsimp only
  split
  · simp only [kept_mk]
    exact keptBy_of z _ (kept_setQueue _ _ _ _ h fun o => ⟨o.window, o.size⟩)
  · exact kept_setQueue _ _ _ _ h fun o => ⟨o.window, o.size⟩

@[simp] theorem kept_writeQueue (z : State) (s : State) (q : BitVec 2) (o : Nat) (v : Word) (h : Kept z s) :
    Kept z (writeQueue s q o v) := by
  unfold writeQueue
  dsimp only
  split
  · split
    · simp [h]
    · exact kept_setQueue _ _ _ _ h fun o => ⟨o.window, o.size⟩
  · split
    · simp [h]
    · exact kept_setQueue _ _ _ _ h fun o => ⟨o.window, RingBase.withHi_size _ _ o.size⟩
  · simp [h]
  · simp [h]
  · split
    · simp [h]
    · exact kept_setQueue _ _ _ _ h fun o => ⟨o.window, o.size⟩
  · split
    · simp [h]
    · exact kept_setQueue _ _ _ _ h fun o => ⟨o.window, o.size⟩
  · exact h

@[simp] theorem kept_writeReplyTail (z : State) (s : State) (v : Word) (kh : Kept z s) :
    Kept z (writeReplyTail s v) := by
  simp [writeReplyTail, kh]

@[simp] theorem kept_writeQueues (z : State) (s : State) (a : Nat) (v : Word) (h : Kept z s) : Kept z (writeQueues s a v) := by
  unfold writeQueues
  split
  · split
    · simp [h]
    · simp [h, RingBase.withLo]
  · split
    · simp [h]
    · exact ⟨h.straps, h.wrap, h.pending, fun o => { h.ok o with reply := RingBase.withHi_size _ _ (h.ok o).reply }⟩
  · simp [h]
  · split <;> simp [h]

theorem rndField_lt (old new : Word) (k : Nat) : rndField old new k < 8 := by
  unfold rndField bits
  dsimp only
  split <;> omega

theorem rndField_ne (old new : Word) (k : Nat) (h : old.extractLsb' k 3 ≠ 7) : rndField old new k ≠ 7 := by
  unfold rndField bits
  dsimp only
  split
  · intro e
    exact h (BitVec.eq_of_toNat_eq (by simpa using e))
  · assumption

theorem NumRegs.Ok.write {n : NumRegs} (o : n.Ok) (v : Word) : ({ n with numCfg := w32 (bits v.toNat 2 7 <<< 2 +
    rndField n.numCfg v 9 <<< 9 + rndField n.numCfg v 12 <<< 12 + rndField n.numCfg v 15 <<< 15 + rndField n.numCfg v 18 <<< 18) } :
      NumRegs).Ok := by
  have h0 : bits v.toNat 2 7 < 128 := Nat.mod_lt _ (by decide)
  have h1 := rndField_lt n.numCfg v 9
  have h2 := rndField_lt n.numCfg v 12
  have h3 := rndField_lt n.numCfg v 15
  have h4 := rndField_lt n.numCfg v 18
  have g1 := rndField_ne _ v _ o.act
  have g2 := rndField_ne _ v _ o.weight
  have g3 := rndField_ne _ v _ o.grad
  have g4 := rndField_ne _ v _ o.state
  generalize bits v.toNat 2 7 = a at *
  generalize rndField n.numCfg v 9 = b at *
  generalize rndField n.numCfg v 12 = c at *
  generalize rndField n.numCfg v 15 = d at *
  generalize rndField n.numCfg v 18 = e at *
  have low : (w32 (a <<< 2 + b <<< 9 + c <<< 12 + d <<< 15 + e <<< 18)).toNat = a * 4 + b * 512 + c * 4096 + d * 32768 + e * 262144 := by
    simp only [w32, BitVec.toNat_ofNat, Nat.shiftLeft_eq, Nat.reducePow]
    omega
  generalize w32 (a <<< 2 + b <<< 9 + c <<< 12 + d <<< 15 + e <<< 18) = x at *

  refine ⟨?_, ?_, ?_, ?_, ?_, ?_⟩
  · apply BitVec.eq_of_toNat_eq; simp only [BitVec.extractLsb'_toNat, low, Nat.shiftRight_eq_div_pow, Nat.reducePow, BitVec.ofNat_eq_ofNat, BitVec.toNat_ofNat]; omega
  · apply BitVec.eq_of_toNat_eq; simp only [BitVec.extractLsb'_toNat, low, Nat.shiftRight_eq_div_pow, Nat.reducePow, BitVec.ofNat_eq_ofNat, BitVec.toNat_ofNat]; omega
  all_goals intro g; have g := congrArg BitVec.toNat g
  all_goals simp only [BitVec.extractLsb'_toNat, low, Nat.shiftRight_eq_div_pow, Nat.reducePow, BitVec.ofNat_eq_ofNat, BitVec.toNat_ofNat] at g; omega

@[simp] theorem kept_writeNumCfg (z : State) (s : State) (v : Word) (h : Kept z s) : Kept z (writeNumCfg s v) := by
  unfold writeNumCfg
  dsimp only
  split
  · exact kept_ignored z _ (kept_ofNum z s h fun o => o.write v)
  · exact kept_ofNum z s h fun o => o.write v

@[simp] theorem kept_writeNum (z : State) (s : State) (a : Nat) (v : Word) (h : Kept z s) : Kept z (writeNum s a v) := by
  unfold writeNum
  split
  · simp [h]
  all_goals first | exact h | exact kept_ofNum z s h fun o => ⟨o.low, o.high, o.act, o.weight, o.grad, o.state⟩

@[simp] theorem kept_clearTrap (z : State) (s : State) (v : Word) (h : Kept z s) : Kept z (clearTrap s v) := by
  unfold clearTrap
  split
  · have k := kept_mapQueues z s (fun x => { x with halted := false }) h fun x o => ⟨o.window, o.size⟩
    simp only [kept_mk]
    exact (kept_mk z _ _ _ _ _ _ _ _ _ _ _ _ _ _ _ _ _ _ _ _ _ _).mp k
  · exact h

@[simp] theorem kept_clearCounter (z : State) (s : State) (k : Nat) (v : Word) (h : Kept z s) : Kept z (clearCounter s k v) := by
  unfold clearCounter
  split
  · refine kept_ofCnt z s h fun o => { vals := sparseWf_sset 0 _ k 0 o.vals, snaps := sparseWf_sset 0 _ k 0 o.snaps, bounded := fun j => ?_ }
    by_cases hj : j = k
    · subst hj
      simp [Counters.value, sget_sset_self 0 _ _ _ o.vals]
    · simpa [Counters.value, sget_sset_other 0 _ _ _ _ o.vals hj] using o.bounded j
  · exact h

@[simp] theorem kept_clearCounters (z : State) (s : State) (v : Word) (h : Kept z s) : Kept z (clearCounters s v) := by
  unfold clearCounters
  split
  · exact kept_ofCnt z s h fun _ => ⟨rfl, rfl, fun _ => Nat.zero_le _⟩
  · exact h

@[simp] theorem kept_writeTrapCounters (z : State) (s : State) (a : Nat) (v : Word) (kh : Kept z s) :
    Kept z (writeTrapCounters s a v) := by
  unfold writeTrapCounters
  repeat' split
  all_goals simp_all (maxDischargeDepth := 50) [-BitVec.getLsbD_eq_getElem]

@[simp] theorem kept_clearErrStatus (z : State) (s : State) (v : Word) (kh : Kept z s) :
    Kept z (clearErrStatus s v) := by
  simp [clearErrStatus, kh]

@[simp] theorem kept_clearEccLog (z : State) (s : State) (v : Word) (kh : Kept z s) :
    Kept z (clearEccLog s v) := by
  simp [clearEccLog, kh]

@[simp] theorem kept_clearErrRecord (z : State) (s : State) (v : Word) (kh : Kept z s) :
    Kept z (clearErrRecord s v) := by
  simp [clearErrRecord, kh]

@[simp] theorem kept_clearDiverge (z : State) (s : State) (v : Word) (kh : Kept z s) :
    Kept z (clearDiverge s v) := by
  simp [clearDiverge, kh]

@[simp] theorem kept_clearPairStatus (z : State) (s : State) (v : Word) (kh : Kept z s) :
    Kept z (clearPairStatus s v) := by
  simp [clearPairStatus, kh]

@[simp] theorem kept_writeStarCtrl (z : State) (s : State) (v : Word) (h : Kept z s) : Kept z (writeStarCtrl s v) := by
  unfold writeStarCtrl
  dsimp only
  have e : 500 ≤ (if v.extractLsb' 0 24 < (500 : BitVec 24) then (500 : BitVec 24) else v.extractLsb' 0 24).toNat := by
    split
    · decide
    · rename_i k
      have := BitVec.not_lt.mp k
      simpa [BitVec.le_def] using this
  split
  all_goals exact ⟨h.straps, h.wrap, h.pending, fun o => { h.ok o with starPeriod := e }⟩

theorem floor_le {n : Nat} (x k : BitVec n) : k.toNat ≤ (if x < k then k else x).toNat := by
  split
  · exact Nat.le_refl _
  · exact BitVec.le_def.mp (BitVec.not_lt.mp ‹_›)

@[simp] theorem kept_writeErrors (z : State) (s : State) (a : Nat) (v : Word) (h : Kept z s) : Kept z (writeErrors s a v) := by
  unfold writeErrors
  split
  · simp [h]
  · simp [h]
  · simp [h]
  · simp [h]
  · exact ⟨h.straps, h.wrap, h.pending, fun o => { h.ok o with scrubInterval := by simpa using floor_le (v.extractLsb' 0 16) (16 : BitVec 16) }⟩
  · split <;> simp [h, RingBase.withLo]
  · split
    · simp [h]
    · exact ⟨h.straps, h.wrap, h.pending, fun o => { h.ok o with starRing := RingBase.withHi_size _ _ (h.ok o).starRing }⟩
  · dsimp only
    split <;> simp [h]
  · simp [h]
  · exact h

@[simp] theorem kept_forgetMarks (z : State) (s : State) (v : Word) (kh : Kept z s) :
    Kept z (forgetMarks s v) := by
  unfold forgetMarks
  split
  · exact ⟨kh.straps, kh.wrap, kh.pending, fun o => { kh.ok o with dawnSteps := sparseWf_ssetAll _ _ _ (kh.ok o).dawnSteps }⟩
  · exact kh

@[simp] theorem kept_requestRotation (z : State) (s : State) (v : Word) (kh : Kept z s) :
    Kept z (requestRotation s v) := by
  simp [requestRotation, kh]

@[simp] theorem kept_writeDawn (z : State) (s : State) (a : Nat) (v : Word) (h : Kept z s) : Kept z (writeDawn s a v) := by
  unfold writeDawn
  split
  · simp [h]
  · simp [h]
  · simp [h]
  · simp [h]
  · exact ⟨h.straps, h.wrap, h.pending, fun o => { h.ok o with calPeriod := by simpa using floor_le (v.extractLsb' 0 24) (5000 : BitVec 24) }⟩
  · exact h

@[simp] theorem kept_writeDbgSel (z : State) (s : State) (v : Word) (kh : Kept z s) :
    Kept z (writeDbgSel s v) := by
  unfold writeDbgSel
  split
  · exact kept_ignored z s kh
  · have k := kept_ofCnt z s kh (x := { s.cnt with stalls := true }) Counters.ok_stalls
    exact ⟨k.straps, k.wrap, k.pending, fun o => { k.ok o with }⟩

@[simp] theorem kept_writePower (z : State) (s : State) (a : Nat) (v : Word) (kh : Kept z s) :
    Kept z (writePower s a v) := by
  unfold writePower
  repeat' split
  all_goals simp_all (maxDischargeDepth := 50) [-BitVec.getLsbD_eq_getElem]

@[simp] theorem kept_regWrite (z : State) (s : State) (a : Nat) (v : Word) (kh : Kept z s) :
    Kept z (regWrite s a v) := by
  simp (maxDischargeDepth := 50) [regWrite, kh, -BitVec.getLsbD_eq_getElem]

@[simp] theorem kept_undefinedAccess (z : State) (s : State) (a : Nat) (read : Bool) (kh : Kept z s) :
    Kept z (undefinedAccess s a read) := by
  unfold undefinedAccess
  repeat' split
  all_goals simp [kh]

@[simp] theorem kept_portRead (z : State) (s : State) (a : BitVec 16) (kh : Kept z s) :
    Kept z (portRead s a) := by
  simp (maxDischargeDepth := 50) [portRead, kept_upToDate, kh, -BitVec.getLsbD_eq_getElem]

@[simp] theorem kept_portWrite (z : State) (s : State) (a : BitVec 16) (v : Word) (kh : Kept z s) :
    Kept z (portWrite s a v) := by
  simp (maxDischargeDepth := 50) [portWrite, kept_upToDate, kh, -BitVec.getLsbD_eq_getElem]

/-! ### Port.lean -/

@[simp] theorem kept_sendBeat (z : State) (s : State) (d : Line) (sb : BitVec 112) (kh : Kept z s) :
    Kept z (State.sendBeat s d sb) := by
  simp (maxDischargeDepth := 50) [State.sendBeat, kh, -BitVec.getLsbD_eq_getElem]

@[simp] theorem kept_sendWaiting (z : State) (s : State) (kh : Kept z s) :
    Kept z (State.sendWaiting s) := by
  unfold State.sendWaiting
  repeat' split
  all_goals simp_all (maxDischargeDepth := 50) [-BitVec.getLsbD_eq_getElem]

@[simp] theorem kept_sendWords (z : State) (s : State) (kind : Nat) (ws : List Nat) (h : Kept z s) :
    Kept z (s.sendWords kind ws) := by
  unfold State.sendWords
  exact kept_foldl _ _ (fun s k h => by simp [h]) _ _ h

@[simp] theorem kept_requestXlat (z : State) (s : State) (owner page kind pos va : Nat) (kh : Kept z s) :
    Kept z (State.requestXlat s owner page kind pos va) := by
  unfold State.requestXlat
  repeat' split
  all_goals simp_all (maxDischargeDepth := 50) [-BitVec.getLsbD_eq_getElem]

@[simp] theorem kept_dropXlats (z : State) (s : State) (kh : Kept z s) :
    Kept z (State.dropXlats s) := by
  simp [State.dropXlats, kh]

@[simp] theorem kept_requestLine (z : State) (s : State) (owner kind : Nat) (cls : BitVec 2) (idx vline pos : Nat) (kh : Kept z s) :
    Kept z (State.requestLine s owner kind cls idx vline pos) := by
  unfold State.requestLine
  dsimp only
  repeat' split
  all_goals simp_all (maxDischargeDepth := 50) [-BitVec.getLsbD_eq_getElem]

@[simp] theorem kept_dropReads (z : State) (s : State) (owner : Nat) (kh : Kept z s) :
    Kept z (State.dropReads s owner) := by
  simp [State.dropReads, kh]

theorem kept_requestLines (z s : State) (h : Kept z s) (owner kind : Nat) (cls : BitVec 2) (ls : List Nat) (pos : Nat → Nat) (ks : List Nat) :
    Kept z (ks.foldl (fun s k => s.requestLine owner kind cls k (nth ls k) (pos k)) s) :=
  kept_foldl z _ (fun s k h => kept_requestLine z s _ _ _ _ _ _ h) ks s h

@[simp] theorem kept_ask (z : State) (s : State) (owner kind : Nat) (cls : BitVec 2) (want : List (Nat × Nat)) (h : Kept z s) :
    (s.ask owner kind cls want).Kept z := by
  unfold State.ask
  split
  · trivial
  · dsimp only
    split
    · simp [Asked.Kept, h]
    · exact kept_requestLines z _ (by simp [h]) owner kind cls _ _ _

@[simp] theorem kept_askMirror (z : State) (s : State) (lines : List Nat) (h : Kept z s) : (s.askMirror lines).Kept z := by
  unfold State.askMirror
  split <;> simp [Asked.Kept, h]

@[simp] theorem kept_driveWrite (z : State) (s : State) (b : WriteBeat) (tag : BitVec 6) (line : BitVec 45) (kh : Kept z s) :
    Kept z (State.driveWrite s b tag line) := by
  simp [State.driveWrite, kh]

@[simp] theorem kept_issueWrite (z : State) (s : State) (b : WriteBeat) (kh : Kept z s) :
    Kept z (State.issueWrite s b).1 := by
  unfold State.issueWrite
  repeat' split
  all_goals simp_all (maxDischargeDepth := 50) [-BitVec.getLsbD_eq_getElem]

@[simp] theorem kept_pumpFrom (z : State) (s : State) (x0 : List WriteBeat) (h : Kept z s) : Kept z (State.pumpFrom s x0) := by
  induction x0 generalizing s with
  | nil => simp [State.pumpFrom, h]
  | cons b bs ih =>
    unfold State.pumpFrom
    have k := kept_issueWrite z s b h
    split
    · rename_i e; rw [e] at k; exact ih _ k
    · rename_i e; rw [e] at k; simp_all

@[simp] theorem kept_pump (z : State) (s : State) (kh : Kept z s) :
    Kept z (State.pump s) := by
  simp [State.pump, kh]

@[simp] theorem kept_post (z : State) (s : State) (bs : List WriteBeat) (kh : Kept z s) :
    Kept z (State.post s bs) := by
  simp [State.post, kh]

@[simp] theorem kept_dropOutbox (z : State) (s : State) (kh : Kept z s) :
    Kept z (State.dropOutbox s) := by
  simp [State.dropOutbox, kh]

@[simp] theorem kept_pumpSome (z : State) (s : State) (n : Nat) (kh : Kept z s) :
    Kept z (State.pumpSome s n) := by
  simp (maxDischargeDepth := 50) [State.pumpSome, kh, -BitVec.getLsbD_eq_getElem]

@[simp] theorem kept_pumpLed (z : State) (s : State) (tell : State → List WriteBeat → State)
    (ht : ∀ s l, Kept z s → Kept z (tell s l)) (h : Kept z s) : Kept z (s.pumpLed tell) := by
  unfold State.pumpLed
  dsimp only
  split
  · simp [h]
  · split
    · exact h
    · split
      · simp [ht, h]
      · refine kept_foldl _ _ (fun s b h => ?_) _ _ h
        split <;> simp [h]

@[simp] theorem kept_stray (z : State) (s : State) (kh : Kept z s) :
    Kept z (State.stray s) := by
  simp [State.stray, kh]

/-! ### Queues.lean -/

@[simp] theorem kept_push (z : State) (s : State) (r : Reply) (kh : Kept z s) :
    Kept z (State.push s r) := by
  simp [State.push, kh]

@[simp] theorem kept_tell (z : State) (s : State) (r : Reply) (kh : Kept z s) :
    Kept z (State.tell s r) := by
  simp [State.tell, kh]

@[simp] theorem kept_tellEnd (z : State) (s : State) (r : Reply) (kh : Kept z s) :
    Kept z (State.tellEnd s r) := by
  simp [State.tellEnd, kh]

@[simp] theorem kept_poisonedInput (z : State) (s : State) (q : BitVec 2) (seq : Nat) (kh : Kept z s) :
    Kept z (State.poisonedInput s q seq) := by
  simp [State.poisonedInput, kh]

@[simp] theorem kept_giveAnswer (z : State) (s : State) (q : BitVec 2) (kh : Kept z s) :
    Kept z (State.giveAnswer s q) := by
  unfold State.giveAnswer
  dsimp only
  repeat' split
  all_goals simp_all (maxDischargeDepth := 50) [-BitVec.getLsbD_eq_getElem]

@[simp] theorem kept_fetchStep (z : State) (s : State) (q : BitVec 2) (h : Kept z s) : Kept z (s.fetchStep q) := by
  have put (x : State) (k : Kept z x) (f : Fetch) : Kept z ((x.setQueue q { (x.queue q) with fetch := f }).giveAnswer q) :=
    kept_giveAnswer _ _ _ (kept_setQueue _ _ _ _ k fun o => ⟨o.window, o.size⟩)
  unfold State.fetchStep
  dsimp only
  split
  · simp [h]
  · exact h
  · have k := kept_ask z s (ownFetch q) 3 0 [((s.queue q).packetAddr / 128, 0xFF)] h
    split
    · exact put _ (by simp [h]) _
    · rename_i e; rw [e] at k; exact k
    · rename_i e; rw [e] at k
      split <;> exact put _ k _
  · split
    · exact h
    · split
      · exact put _ (by simp [h]) _
      · rename_i e
        exact (e ▸ kept_ask z s _ 2 0 _ h : (Asked.wait _).Kept z)
      · rename_i e
        have k : Kept z _ := (e ▸ kept_ask z s _ 2 0 _ h : (Asked.ready _ _).Kept z)
        split
        · exact put _ k _
        · split <;> exact put _ k _

@[simp] theorem kept_discardFetch (z : State) (s : State) (q : BitVec 2) (kh : Kept z s) :
    Kept z (State.discardFetch s q) := by
  simp [State.discardFetch, kh]

@[simp] theorem kept_nextReply (z : State) (s : State) (h : Kept z s) : Kept z s.nextReply := by
  unfold State.nextReply
  repeat' split
  all_goals first | exact h | exact kept_push _ _ _ (by simp [h])

@[simp] theorem kept_replyWritten (z : State) (s : State) (h : Kept z s) : Kept z (State.replyWritten s) := by
  unfold State.replyWritten
  split
  · exact h
  · dsimp only
    have e (x : State) (k : Kept z x) (r : Reply) (ws : List Word) :
        Kept z (x.setQueue r.queue ((x.queue r.queue).enter r.w1 ws)) :=
      kept_setQueue _ _ _ _ k fun o => Queue.enter_ok _ _ _ o
    refine kept_nextReply _ _ ?_
    repeat' split
    all_goals first | (refine e _ ?_ _ _; simp [h, ReplyRing.next]; done) | (simp [h, ReplyRing.next]; done)

@[simp] theorem kept_writeReply (z : State) (s : State) (h : Kept z s) : Kept z s.writeReply := by
  unfold State.writeReply
  split
  · exact h
  · rename_i r _ _
    have k := kept_issueWrite z s (s.ring.beat r) h
    split
    · exact h
    · split
      · split
        · rename_i e; rw [e] at k
          split <;> simp_all
        · rename_i e; rw [e] at k; exact k
      · split <;> simp [h]

@[simp] theorem kept_replyFault (z : State) (s : State) (h : Kept z s) : Kept z s.replyFault := by
  have k : Kept z (allQ.foldl State.discardFetch s) := kept_foldl _ _ (fun s q h => kept_discardFetch z s q h) _ _ h
  have k2 := kept_mapQueues z _ (fun x => { x with enable := false }) k fun x o => ⟨o.window, o.size⟩
  unfold State.replyFault
  dsimp only
  refine kept_raiseErr _ _ _ (kept_count _ _ _ ?_)
  simp only [kept_mk]
  exact keptBy_of z _ k2

/-! ### Begin.lean -/

@[simp] theorem kept_releaseToken (z : State) (s : State) (kh : Kept z s) :
    Kept z (State.releaseToken s) := by
  simp [State.releaseToken, kh]

@[simp] theorem kept_abandonSegment (z : State) (s : State) (r : Running) (kh : Kept z s) :
    Kept z (State.abandonSegment s r) := by
  simp [State.abandonSegment, kh]

@[simp] theorem kept_leave (z : State) (s : State) (r : Running) (kh : Kept z s) :
    Kept z (State.leave s r) := by
  simp (maxDischargeDepth := 50) [State.leave, kh, -BitVec.getLsbD_eq_getElem]

@[simp] theorem kept_abandonBand (z : State) (s : State) (r : Running) (kh : Kept z s) :
    Kept z (State.abandonBand s r) := by
  simp [State.abandonBand, kh]

@[simp] theorem kept_recallBands (z : State) (s : State) (r : Running) (kh : Kept z s) :
    Kept z (State.recallBands s r).1 := by
  unfold State.recallBands
  repeat' split
  all_goals simp_all (maxDischargeDepth := 50) [-BitVec.getLsbD_eq_getElem]

@[simp] theorem kept_giveFinal (z : State) (s : State) (r : Running) (y : Reply) (kh : Kept z s) :
    Kept z (State.giveFinal s r y) := by
  simp [State.giveFinal, kh]

@[simp] theorem kept_endRun (z : State) (s : State) (r : Running) (x : Say) (counts : List Nat) (kh : Kept z s) :
    Kept z (State.endRun s r x counts) := by
  have k0 := kept_recallBands z s r kh
  unfold State.endRun
  revert k0
  generalize s.recallBands r = p
  obtain ⟨u, v⟩ := p
  intro k0
  have k := kept_counts z _ counts (kept_leave z u v k0)
  refine kept_ite _ _ _ _ (fun _ => kept_abandonBand _ _ _ kh) fun _ => kept_giveFinal _ _ _ _ ?_
  exact kept_ite _ _ _ _ (fun _ => k) fun _ => kept_ite _ _ _ _ (fun _ => kept_tellEnd _ _ _ k) fun _ => kept_tell _ _ _ k

@[simp] theorem kept_refuseRun (z : State) (s : State) (r : Running) (status reason index value : Nat) (kh : Kept z s) :
    Kept z (State.refuseRun s r status reason index value) := by
  simp [State.refuseRun, kh]

@[simp] theorem kept_endError (z : State) (s : State) (r : Running) (k : Nat) (e : ErrRec) (kh : Kept z s) :
    Kept z (State.endError s r k e) := by
  simp (maxDischargeDepth := 50) [State.endError, kh, -BitVec.getLsbD_eq_getElem]

@[simp] theorem kept_endPoison (z : State) (s : State) (r : Running) (index : Nat) (e : ErrRec) (kh : Kept z s) :
    Kept z (State.endPoison s r index e) := by
  unfold State.endPoison
  split <;> simp [kh]

@[simp] theorem kept_endOk (z : State) (s : State) (r : Running) (kh : Kept z s) :
    Kept z (State.endOk s r) := by
  simp [State.endOk, kh]

@[simp] theorem kept_countFallback (z : State) (s : State) (fb : Bool) (kh : Kept z s) :
    Kept z (State.countFallback s fb) := by
  simp [State.countFallback, kh]

@[simp] theorem kept_execute (z : State) (s : State) (r : Running) (kh : Kept z s) : Kept z (s.execute r) := by
  have k := kept_ofCnt z s kh (x := { s.cnt with stalls := true }) Counters.ok_stalls
  exact ⟨k.straps, k.wrap, k.pending, fun o => { k.ok o with }⟩

@[simp] theorem kept_takeToken (z : State) (s : State) (kh : Kept z s) : Kept z s.takeToken := by
  simp [State.takeToken, kh]

@[simp] theorem kept_starts (z : State) (s : State) (r : Running) (kh : Kept z s) : Kept z (s.starts r) := by
  exact kept_ite _ _ _ _ (fun _ => kept_takeToken _ _ (kept_execute _ _ _ kh)) fun _ => kept_execute _ _ _ kh

@[simp] theorem kept_beginQueue (z : State) (s : State) (q : BitVec 2) (kh : Kept z s) :
    Kept z (State.beginQueue s q) := by
  unfold State.beginQueue
  dsimp only
  repeat' first
    | with_reducible exact kh
    | with_reducible apply kept_push
    | with_reducible apply kept_tell
    | with_reducible apply kept_count
    | with_reducible apply kept_endPoison
    | with_reducible apply kept_countFallback
    | with_reducible apply kept_starts
    | with_reducible apply kept_dropXlats
    | with_reducible apply kept_setQueue
    | with_reducible exact fun o => (Queue.accept_ok _ _).mpr ((Queue.advance_ok _).mpr o)
    | (simp only [kept_mk])
    | with_reducible refine keptBy_of _ _ ?_
    | split

/-! ### Ecc.lean -/

@[simp] theorem kept_poisonBeat (z : State) (s : State) (n : Nat) (kh : Kept z s) :
    Kept z (State.poisonBeat s n) := by
  unfold State.poisonBeat
  repeat' split
  all_goals first | exact kh | (simp only [kept_mk]; exact keptBy_of _ _ kh)

@[simp] theorem kept_wantWrite (z : State) (s : State) (a b : Nat) (kh : Kept z s) : Kept z (State.wantWrite s a b) := by
  unfold State.wantWrite
  split
  · have e (u : Nat) : (s.night.wantWrite u).starved = s.night.starved ∧ (s.night.wantWrite u).interval = s.night.interval ∧
        (s.night.wantWrite u).pos = s.night.pos := by
      unfold Nightwatch.wantWrite; split <;> exact ⟨rfl, rfl, rfl⟩
    refine ⟨kh.straps, kh.wrap, kh.pending, fun o => ?_⟩
    have k := kh.ok o
    exact { k with
      scrubInterval := (e _).2.1 ▸ k.scrubInterval
      scrubPos := (e _).2.2 ▸ k.scrubPos
      starved := (e _).1 ▸ k.starved }
  · exact kh

@[simp] theorem kept_logCorrected (z : State) (s : State) (storage requester : BitVec 3) (word : BitVec 16) (pos0 : BitVec 7) (pos1 : Option (BitVec 7)) (kh : Kept z s) :
    Kept z (State.logCorrected s storage requester word pos0 pos1) := by
  have k := kept_wantWrite z _ storage.toNat word.toNat (kept_raiseErr z _ 0 (kept_count z s cECCCORR kh))
  unfold State.logCorrected
  simp only [kept_mk]
  exact keptBy_of _ _ k

@[simp] theorem kept_logUncorrectable (z : State) (s : State) (storage requester : BitVec 3) (word : BitVec 16) (kh : Kept z s) :
    Kept z (State.logUncorrectable s storage requester word) := by
  have k := kept_raiseErr z _ 1 (kept_count z s cECCUNC kh)
  unfold State.logUncorrectable
  revert k
  dsimp only
  generalize State.raiseErr _ 1 = u
  intro k
  split
  · exact k
  · simp only [kept_mk]; exact keptBy_of _ _ k

@[simp] theorem kept_eccHit (z : State) (s : State) (x : EccHit) (h : Kept z s) : Kept z (s.eccHit x) := by
  unfold State.eccHit
  split
  · simp [h]
  · dsimp only
    split
    · simp (maxDischargeDepth := 9) [h]
    · exact kept_ofArch z _ (kept_logUncorrectable z s _ _ _ h) (Arch.poisonWord_canonical _ _ _ _)

@[simp] theorem kept_eccList (z : State) (s : State) (l : List EccHit) (h : Kept z s) : Kept z (s.eccList l) :=
  kept_foldl z State.eccHit (fun s x h => kept_eccHit z s x h) l s h

@[simp] theorem kept_eccHits (z : State) (s : State) (m : Mishap) (h : Kept z s) : Kept z (s.eccHits m) :=
  kept_eccList z s m.ecc h

@[simp] theorem kept_residue (z : State) (s : State) (m : Mishap) (kh : Kept z s) :
    Kept z (State.residue s m) :=
  kept_foldl z State.residueFail (fun s x h => kept_ite _ _ _ _ (fun _ => kept_count _ _ _ (kept_countBy _ _ _ _ h))
    fun _ => kept_raiseErr _ _ _ (kept_count _ _ _ (kept_count _ _ _ h))) m.residue s kh

@[simp] theorem kept_endResidue (z : State) (s : State) (r : Running) (m : Mishap) (e : ErrRec) (kh : Kept z s) :
    Kept z (State.endResidue s r m e) := by
  simp (maxDischargeDepth := 50) [State.endResidue, kh, -BitVec.getLsbD_eq_getElem]

@[simp] theorem kept_endRowCheck (z : State) (s : State) (r : Running) (e : ErrRec) (kh : Kept z s) :
    Kept z (State.endRowCheck s r e) := by
  exact kept_ite _ _ _ _ (fun _ => kept_abandonBand _ _ _ (kept_raiseErr _ _ _ (kept_count _ _ _ kh)))
    fun _ => kept_endError _ _ _ _ _ (kept_endRun _ _ _ _ _ kh)

@[simp] theorem kept_fillTrap (z : State) (s : State) (x : Rec5) (kh : Kept z s) :
    Kept z (State.fillTrap s x) := by
  simp [State.fillTrap, kh]

@[simp] theorem kept_commitPend (z : State) (s : State) (r : Running) (p : Pend) (h : Kept z s) : Kept z (s.commitPend r p) := by
  have k := kept_ofCnt z s h (x := s.cnt.raiseAll p.counts) (Counters.raiseAll_ok _ _)
  unfold State.commitPend
  dsimp only
  split
  · exact kept_fillTrap _ _ _ k
  · exact k

@[simp] theorem kept_haltQueue (z : State) (s : State) (q : BitVec 2) (kh : Kept z s) :
    Kept z (State.haltQueue s q) := by
  simp [State.haltQueue, kh]

@[simp] theorem kept_endTrap (z : State) (s : State) (r : Running) (kh : Kept z s) :
    Kept z (State.endTrap s r) := by
  simp (maxDischargeDepth := 50) [State.endTrap, kh, -BitVec.getLsbD_eq_getElem]

/-! ### Operands.lean -/

@[simp] theorem kept_announce (z : State) (s : State) (bs : List WriteBeat) (kh : Kept z s) :
    Kept z (announce s bs) := by
  simp [announce, kh]

@[simp] theorem kept_askRun (z : State) (s : State) (r : Running) (want : List (Nat × Nat)) (h : Kept z s) :
    (s.askRun r want).Kept z := by
  unfold State.askRun
  split <;> simp [h]

@[simp] theorem kept_pumpMirror (z : State) (s : State) (h : Kept z s) : Kept z s.pumpMirror := by
  unfold State.pumpMirror
  dsimp only
  have k := kept_foldl z (fun s (b : WriteBeat) => s.drive (.pairCheck (beatCheck b.data b.ben)))
    (fun s b h => kept_drive z s _ h) (s.port.outbox.take (Nat.min s.pair.goes s.port.outbox.length)) s h
  simp only [kept_mk]
  exact keptBy_of z _ k

@[simp] theorem kept_pumpRun (z : State) (s : State) (r : Running) (kh : Kept z s) :
    Kept z (State.pumpRun s r) := by
  unfold State.pumpRun
  repeat' split
  all_goals simp_all (maxDischargeDepth := 50) [-BitVec.getLsbD_eq_getElem]

/-- The state of an answered request. -/
theorem kept_ready {z s t : State} {r : Running} {want : List (Nat × Nat)} {buf : Sparse RdLine} (k : Kept z s)
    (e : s.askRun r want = .ready t buf) : Kept z t := (e ▸ kept_askRun z s r want k : (Asked.ready t buf).Kept z)

/-- The state of a request that waits. -/
theorem kept_waiting {z s t : State} {r : Running} {want : List (Nat × Nat)} (k : Kept z s) (e : s.askRun r want = .wait t) :
    Kept z t := (e ▸ kept_askRun z s r want k : (Asked.wait t).Kept z)

/-- A fold over a pair whose first part is the state. -/
theorem kept_foldl_fst {β γ : Type} (a : State) (f : State × γ → β → State × γ) (hf : ∀ s x, Kept a s.1 → Kept a (f s x).1)
    (l : List β) (s : State × γ) (h : Kept a s.1) : Kept a (l.foldl f s).1 := by
  induction l generalizing s with
  | nil => exact h
  | cons x l ih => exact ih _ (hf s x h)

end Sys2Proof.Machine
end

