-- ==== Sys2Proof/Laws/KeptRun.lean ====
section
/-! SUPPORT. The executing commands and their passes keep what `Kept` says. -/

namespace Sys2Proof.Machine

open Sys2Proof

/-! ### Staging.lean -/

@[simp] theorem kept_handOver (z : State) (s : State) (kh : Kept z s) :
    Kept z (State.handOver s) := by
  simp [State.handOver, kh]

@[simp] theorem kept_driveMxa (z : State) (s : State) (r : Running) (w : Wire) (kh : Kept z s) :
    Kept z (State.driveMxa s r w) := by
  simp [State.driveMxa, kh]

/-- Either of two results. -/
theorem kept_either {z x y : State} {c : Prop} [Decidable c] (h : Kept z x) (k : Kept z y) : Kept z (if c then x else y) := by
  split <;> assumption

/-- Either of two results with a second part. -/
theorem kept_either_fst {β : Type} {z : State} {x y : State × β} {c : Prop} [Decidable c] (h : Kept z x.1) (k : Kept z y.1) :
    Kept z (if c then x else y).1 := by
  split <;> assumption

theorem kept_sendWindow (z : State) (g : Seg) (sel : List (Nat × Nat × Nat × List Nat)) (sr : State × Running) (w : Nat)
    (kh : Kept z sr.1) : Kept z (g.sendWindow sel sr w).1 := by
  unfold Seg.sendWindow
  dsimp only
  refine kept_either_fst kh (kept_foldl_fst z _ (fun x k h => ?_) _ _ (kept_driveMxa _ _ _ _ kh))
  exact kept_foldl z _ (fun s b h => kept_driveMxa _ _ _ _ h) _ _ (kept_foldl z _ (fun s b h => kept_driveMxa _ _ _ _ h) _ _
    (kept_ofArch z _ h (g.loadPanels_canonical _ _ (x.1.arch, x.2))))

theorem kept_sendPanels (z : State) (g : Seg) (sel : List (Nat × Nat × Nat × List Nat)) (s : State) (r : Running) (kh : Kept z s) :
    Kept z (g.sendPanels sel s r).1 :=
  kept_either_fst kh (kept_foldl_fst z (g.sendWindow sel) (fun _ _ h => kept_sendWindow _ _ _ _ _ h) g.windows (s, r) kh)

@[simp] theorem kept_seg_transmit (z : State) (g : Seg) (s : State) (r : Running) (sel : List (Nat × Nat × Nat × List Nat)) (kh : Kept z s) :
    Kept z (g.transmit s r sel) := by
  unfold Seg.transmit
  have hc := g.demoteAll_canonical sel (s.arch, r)
  generalize g.demoteAll sel (s.arch, r) = ar at hc ⊢
  dsimp only
  have tell (x : State) (f : BitVec 4096 → Wire) (l : List (BitVec 4096)) (k : Kept z x) :
      Kept z (l.foldl (fun s b => s.driveMxa ar.2 (f b)) x) := kept_foldl z _ (fun s b h => kept_driveMxa _ _ _ _ h) _ _ k
  have tells (x : State) (f : BitVec 4096 × Nat → Wire) (l : List (BitVec 4096 × Nat)) (k : Kept z x) :
      Kept z (l.foldl (fun s b => s.driveMxa ar.2 (f b)) x) := kept_foldl z _ (fun s b h => kept_driveMxa _ _ _ _ h) _ _ k
  have k := kept_ofArch z s kh hc
  have k := tells _ (fun b => .opb b.1 (BitVec.ofNat 2 b.2)) (g.mainBeats ar.2 ar.1 g.b (g.nc / 32))
    (tells _ (fun b => .opa b.1 (BitVec.ofNat 2 b.2)) (g.mainBeats ar.2 ar.1 g.a (g.mr / 32))
      (kept_either (c := (g.kseg = 0 && g.pre != 0) = true) (tell _ .pre (g.preBeats ar.2 ar.1 (shiftOf ar.2.prod.shift)) k) k))
  have k := kept_sendPanels z g sel _ ar.2 k
  simp only [kept_mk]
  exact keptBy_of _ _ (kept_driveMxa _ _ _ _ k)

@[simp] theorem kept_seg_open (z : State) (g : Seg) (s : State) (r : Running) (kh : Kept z s) : Kept z (g.open s r) := by
  unfold Seg.open
  dsimp only
  split
  · exact kh
  · exact kept_waiting kh ‹_›
  · have k := kept_driveMxa z _ r (.ctl (g.beginWord r r.prod.shift)) (kept_ready kh ‹_›)
    split
    · exact kept_endPoison _ _ _ _ _ k
    · split
      · exact kept_endPoison _ _ _ _ _ k
      · split
        · exact kept_endRowCheck _ _ _ _ k
        · exact kept_seg_transmit _ _ _ _ _ k

@[simp] theorem kept_seg_stage (z : State) (g : Seg) (s : State) (r : Running) (k : Nat) (kh : Kept z s) :
    Kept z (Seg.stage g s r k) := by
  unfold Seg.stage
  try dsimp only
  repeat' first
    | assumption
    | with_reducible apply kept_seg_open
    | with_reducible apply Item.load_canonical
    | (refine kept_ready (e := ‹_ = Asked.ready _ _›) ?_)
    | (refine kept_waiting (e := ‹_ = Asked.wait _›) ?_)
    | (simp only [kept_mk])
    | with_reducible refine keptBy_arch _ _ _ ?_ ?_
    | (split <;> try (rename_i e; obtain rfl := congrArg Prod.fst e))

/-! ### Chain.lean -/

@[simp] theorem kept_verifyStep (z : State) (s : State) (r : Running) (pos tile crc : Nat) (kh : Kept z s) :
    Kept z (verifyStep s r pos tile crc) := by
  have run (x : State) (r : Running) (k : Kept z x) : Kept z { x with run := some r } := by simp [k]
  unfold verifyStep
  dsimp only
  refine kept_either ?_ ?_
  · split
    · exact kh
    · exact kept_waiting kh ‹_›
    · exact kept_either (kept_endPoison _ _ _ _ _ (kept_ready kh ‹_›)) (run _ _ (kept_ready kh ‹_›))
  · split
    · exact kh
    · exact kept_waiting kh ‹_›
    · refine kept_either (kept_endPoison _ _ _ _ _ (kept_ready kh ‹_›)) ?_
      have k := kept_ready kh ‹_›
      split
      · exact kept_refuseRun _ _ _ _ _ _ _ k
      · exact run _ _ k

theorem State.residue_arch (s : State) (m : Mishap) : (s.residue m).arch = s.arch :=
  foldl_frame (·.arch) State.residueFail (fun s f => by unfold State.residueFail; split <;> rfl) _ _

theorem runPass_canonical {a x : Arch} {b : Blk} {cap : List Nat} {us : List Uop} {q p : Pend}
    {ch : List (Nat × Nat × List (Nat × ChunkRec))} (h : a.Canonical) (e : runPass a b cap us q = .done x p ch) : x.Canonical := by
  unfold runPass at e
  split at e
  · cases e
  · cases e
    exact canonical_foldl _ (fun a w h => PassWrite.apply_canonical _ _ _ h) _ _ h

@[simp] theorem kept_chainLoadUnit (z : State) (s : State) (r : Running) (kh : Kept z s) : Kept z (chainLoadUnit s r) := by
  have held (a b : Arch) (c : Prop) [Decidable c] (n f p q t : Nat) (h : a.Canonical)
      (e : (if c then holdOut a n f p q t else .ok a) = .ok b) : b.Canonical := by
    split at e
    · exact holdOut_canonical _ _ _ _ _ _ _ h e
    · cases e; exact h
  unfold chainLoadUnit
  dsimp only
  split
  · exact kh
  · exact kept_waiting kh ‹_›
  · have k := kept_ready kh ‹_›
    split
    · exact kept_endPoison _ _ _ _ _ k
    · exact kept_refuseRun _ _ _ _ _ _ _ k
    · split
      · exact kept_endRowCheck _ _ _ _ k
      · rename_i e
        simp only [kept_mk]
        refine keptBy_arch z _ _ k fun o => loadSlots_canonical _ _ _ _ _ _ _ (held _ _ _ _ _ _ _ _ ?_ e)
        refine ite_canonical (clearCross_canonical _ _ ?_) ?_ <;>
          exact ite_canonical (canonical_foldl _ (fun a e h => loadStat_canonical _ _ _ _ _ _ h) _ _ o) o

@[simp] theorem kept_passStep (z : State) (s : State) (r : Running) (P : Prog) (b : Blk) (stop : Nat) (m : Mishap) (kh : Kept z s) :
    Kept z (passStep s r P b stop m) := by
  unfold passStep
  dsimp only
  have k := kept_eccHits z s m kh
  split
  · exact kept_endPoison _ _ _ _ _ k
  · rename_i e
    refine kept_either (kept_endResidue _ _ _ _ _ k) ?_
    simp only [kept_mk]
    refine keptBy_arch z _ _ (kept_drawFree _ _ (kept_residue _ _ _ k)) fun o => ?_
    exact runPass_canonical (State.residue_arch _ (ofUnits m 1) ▸ o) e

@[simp] theorem kept_chainPass (z : State) (s : State) (r : Running) (m : Mishap) (kh : Kept z s) :
    Kept z (chainPass s r m) := by
  simp [chainPass, kh]

@[simp] theorem kept_chainForm (z : State) (s : State) (r : Running) (kh : Kept z s) :
    Kept z (chainForm s r) := by
  unfold chainForm
  try dsimp only
  repeat' first
    | assumption
    | with_reducible apply kept_post
    | with_reducible apply kept_endPoison
    | with_reducible apply kept_endRowCheck
    | with_reducible apply kept_endTrap
    | with_reducible apply kept_pumpRun
    | with_reducible apply holdIn_canonical
    | (simp only [kept_mk])
    | with_reducible refine keptBy_arch _ _ _ ?_ ?_
    | (split <;> try (rename_i e; obtain rfl := congrArg Prod.fst e))
    | (intro)

@[simp] theorem kept_thiefUnit (z : State) (s : State) (r : Running) (w : Walk) (band : Nat) (p : Pend) (kh : Kept z s) :
    Kept z (thiefUnit s r w band p) := by
  unfold thiefUnit
  try dsimp only
  repeat' first
    | assumption
    | with_reducible apply kept_sendWords
    | with_reducible apply kept_leave
    | (simp only [kept_mk])
    | with_reducible exact keptBy_of _ _ ‹_›
    | (split <;> try (rename_i e; obtain rfl := congrArg Prod.fst e))

@[simp] theorem kept_chainFinish (z : State) (s : State) (r : Running) (kh : Kept z s) :
    Kept z (chainFinish s r) := by
  unfold chainFinish
  try dsimp only
  repeat' first
    | assumption
    | with_reducible apply kept_endRowCheck
    | with_reducible apply kept_commitPend
    | with_reducible apply kept_thiefUnit
    | (simp only [kept_mk])
    | with_reducible refine keptBy_of _ _ ?_
    | (split <;> try (rename_i e; obtain rfl := congrArg Prod.fst e))

@[simp] theorem kept_commitReport (z : State) (s : State) (r : Running) (w : Walk) (x : StealReport) (kh : Kept z s) :
    Kept z (commitReport s r w x).1 := by
  unfold commitReport
  try dsimp only
  repeat' first
    | assumption
    | with_reducible apply kept_fillTrap
    | with_reducible apply foldStolen_canonical
    | (simp only [kept_mk])
    | with_reducible refine keptBy_archCnt _ _ _ _ ?_ ?_ ?_
    | with_reducible apply Counters.raiseAll_ok
    | (split <;> try (rename_i e; obtain rfl := congrArg Prod.fst e))

@[simp] theorem kept_commitReports (z : State) (s : State) (r : Running) (w : Walk) (l : List StealReport) (kh : Kept z s) :
    Kept z (commitReports s r w l).1 := by
  induction l generalizing s r with
  | nil => exact kh
  | cons x xs ih =>
    unfold commitReports
    have k := kept_commitReport z s r w x kh
    dsimp only
    split
    · exact kept_haltQueue _ _ _ (kept_endRun _ _ _ _ _ k)
    · exact ih _ _ k

@[simp] theorem kept_chainTrailer (z : State) (s : State) (r : Running) (kh : Kept z s) :
    Kept z (chainTrailer s r) := by
  unfold chainTrailer
  try dsimp only
  repeat' first
    | assumption
    | with_reducible apply kept_post
    | with_reducible apply kept_pumpRun
    | with_reducible apply kept_commitReports
    | (simp only [kept_mk])
    | with_reducible refine keptBy_of _ _ ?_
    | (split <;> try (rename_i e; obtain rfl := congrArg Prod.fst e))

@[simp] theorem kept_chainStep (z : State) (s : State) (r : Running) (m : Mishap) (kh : Kept z s) :
    Kept z (chainStep s r m) := by
  unfold chainStep
  try dsimp only
  repeat' first
    | assumption
    | with_reducible apply kept_abandonBand
    | with_reducible apply kept_eccHits
    | with_reducible apply kept_verifyStep
    | with_reducible apply kept_chainLoadUnit
    | with_reducible apply kept_chainPass
    | with_reducible apply kept_commitReports
    | (simp only [kept_mk])
    | with_reducible exact keptBy_of _ _ ‹_›
    | (split <;> try (rename_i e; obtain rfl := congrArg Prod.fst e))

/-! ### Move.lean -/

@[simp] theorem kept_tileReady (z : State) (s : State) (r : Running) (x : Stored) (p : Pend) (next : Sparse Nat) (kh : Kept z s) :
    Kept z (State.tileReady s r x p next) := by
  simp [State.tileReady, kh]

@[simp] theorem kept_copyTile (z : State) (s : State) (r : Running) (m : Mishap) (kh : Kept z s) :
    Kept z (copyTile s r m) := by
  unfold copyTile
  try dsimp only
  repeat' first
    | assumption
    | with_reducible apply kept_endPoison
    | with_reducible apply kept_residue
    | with_reducible apply kept_endResidue
    | with_reducible apply kept_tileReady
    | (refine kept_ready (e := ‹_ = Asked.ready _ _›) ?_)
    | (refine kept_waiting (e := ‹_ = Asked.wait _›) ?_)
    | (simp only [kept_mk])
    | with_reducible refine keptBy_of _ _ ?_
    | (split <;> try (rename_i e; obtain rfl := congrArg Prod.fst e))

@[simp] theorem kept_sealTileStep (z : State) (s : State) (r : Running) (kh : Kept z s) :
    Kept z (sealTileStep s r) := by
  unfold sealTileStep
  try dsimp only
  repeat' first
    | assumption
    | with_reducible apply kept_endPoison
    | with_reducible apply kept_endOk
    | (refine kept_ready (e := ‹_ = Asked.ready _ _›) ?_)
    | (refine kept_waiting (e := ‹_ = Asked.wait _›) ?_)
    | (simp only [kept_mk])
    | with_reducible refine keptBy_of _ _ ?_
    | (split <;> try (rename_i e; obtain rfl := congrArg Prod.fst e))

@[simp] theorem kept_quantTile (z : State) (s : State) (r : Running) (m : Mishap) (kh : Kept z s) : Kept z (quantTile s r m) := by
  unfold quantTile
  dsimp only
  split
  · exact kh
  · exact kept_waiting kh ‹_›
  · have k := kept_ready kh ‹_›
    split
    · exact kept_endPoison _ _ _ _ _ k
    · refine kept_either (kept_endResidue _ _ _ _ _ k) ?_
      exact kept_tileReady _ _ _ _ _ _ (kept_residue _ _ _ k)

@[simp] theorem kept_tileForm (z : State) (s : State) (r : Running) (kh : Kept z s) :
    Kept z (tileForm s r) := by
  unfold tileForm
  try dsimp only
  repeat' first
    | assumption
    | with_reducible apply kept_dropOutbox
    | with_reducible apply kept_endTrap
    | with_reducible apply kept_pumpRun
    | with_reducible apply kept_post
    | (simp only [kept_mk])
    | with_reducible refine keptBy_of _ _ ?_
    | (split <;> try (rename_i e; obtain rfl := congrArg Prod.fst e))

@[simp] theorem kept_tileFinish (z : State) (s : State) (r : Running) (total : Nat) (kh : Kept z s) :
    Kept z (tileFinish s r total) := by
  simp [tileFinish, kh]

@[simp] theorem kept_sealTrailer (z : State) (s : State) (r : Running) (ps : List Nat) (kh : Kept z s) :
    Kept z (sealTrailer s r ps) := by
  unfold sealTrailer
  try dsimp only
  repeat' first
    | assumption
    | with_reducible apply kept_post
    | with_reducible apply kept_pumpRun
    | (simp only [kept_mk])
    | with_reducible refine keptBy_of _ _ ?_

/-! ### Partial.lean -/

@[simp] theorem kept_mergeHeader (z : State) (s : State) (r : Running) (kh : Kept z s) :
    Kept z (mergeHeader s r) := by
  unfold mergeHeader
  try dsimp only
  repeat' first
    | assumption
    | with_reducible apply kept_refuseRun
    | with_reducible apply kept_endPoison
    | (refine kept_ready (e := ‹_ = Asked.ready _ _›) ?_)
    | (refine kept_waiting (e := ‹_ = Asked.wait _›) ?_)
    | (simp only [kept_mk])
    | with_reducible refine keptBy_of _ _ ?_
    | (split <;> try (rename_i e; obtain rfl := congrArg Prod.fst e))

@[simp] theorem kept_mergeBody (z : State) (s : State) (r : Running) (t : Nat) (kh : Kept z s) :
    Kept z (mergeBody s r t) := by
  unfold mergeBody
  try dsimp only
  repeat' first
    | assumption
    | with_reducible apply kept_refuseRun
    | with_reducible apply kept_endPoison
    | (refine kept_ready (e := ‹_ = Asked.ready _ _›) ?_)
    | (refine kept_waiting (e := ‹_ = Asked.wait _›) ?_)
    | (simp only [kept_mk])
    | with_reducible refine keptBy_of _ _ ?_
    | (split <;> try (rename_i e; obtain rfl := congrArg Prod.fst e))

@[simp] theorem kept_mergeBand (z : State) (s : State) (r : Running) (kh : Kept z s) :
    Kept z (mergeBand s r) := by
  unfold mergeBand
  try dsimp only
  repeat' first
    | assumption
    | with_reducible apply kept_endPoison
    | with_reducible apply kept_tileReady
    | (refine kept_ready (e := ‹_ = Asked.ready _ _›) ?_)
    | (refine kept_waiting (e := ‹_ = Asked.wait _›) ?_)
    | (split <;> try (rename_i e; obtain rfl := congrArg Prod.fst e))

@[simp] theorem kept_mergeStep (z : State) (s : State) (r : Running) (kh : Kept z s) :
    Kept z (mergeStep s r) := by
  unfold mergeStep
  try dsimp only
  repeat' first
    | assumption
    | with_reducible apply kept_verifyStep
    | with_reducible apply kept_mergeHeader
    | with_reducible apply kept_mergeBody
    | with_reducible apply kept_mergeBand
    | (simp only [kept_mk])
    | with_reducible exact keptBy_of _ _ ‹_›
    | (split <;> try (rename_i e; obtain rfl := congrArg Prod.fst e))

@[simp] theorem kept_mergeTrailer (z : State) (s : State) (r : Running) (kh : Kept z s) :
    Kept z (mergeTrailer s r) := by
  unfold mergeTrailer
  try dsimp only
  repeat' first
    | assumption
    | with_reducible apply kept_post
    | with_reducible apply kept_pumpRun
    | (simp only [kept_mk])
    | with_reducible refine keptBy_of _ _ ?_

/-! ### Product.lean -/

@[simp] theorem kept_settle (z : State) (s : State) (r : Running) (kh : Kept z s) :
    Kept z (State.settle s r).1 := by
  unfold State.settle
  try dsimp only
  repeat' first
    | assumption
    | with_reducible apply kept_commitPend
    | (split <;> try (rename_i e; obtain rfl := congrArg Prod.fst e))

@[simp] theorem kept_protocolError (z : State) (s : State) (r : Running) (kh : Kept z s) :
    Kept z (State.protocolError s r) := by
  unfold State.protocolError
  try dsimp only
  repeat' first
    | assumption
    | with_reducible apply kept_endRun
    | with_reducible apply kept_raiseErr
    | with_reducible apply kept_settle
    | (split <;> try (rename_i e; obtain rfl := congrArg Prod.fst e))

/-- A sub-tile is spilled, and its own events commit. -/
theorem kept_spillTo (z : State) (s : State) (r : Running) (m : Mishap) (t : Nat) (f : Running → Arch → Arch × Pend × Sparse Nat)
    (kh : Kept z s) (h : ∀ r a, a.Canonical → (f r a).1.Canonical) : Kept z (s.spillTo r m t f).1 :=
  kept_settle _ _ _ (kept_ofArch z _ (kept_residue _ _ _ (kept_settle _ _ r kh)) fun o =>
    h _ _ (State.residue_arch _ m ▸ o))

@[simp] theorem kept_seg_spill (z : State) (g : Seg) (s : State) (r : Running) (t wide : Nat) (bs : List DrnBeat) (m : Mishap)
    (kh : Kept z s) : Kept z (g.spill s r t wide bs m).1 := by
  unfold Seg.spill
  dsimp only
  have land (x : Arch) (h : s.arch.Canonical → x.Canonical) : Kept z { s with arch := x } := kept_ofArch z s kh h
  refine kept_either_fst (land _ (landTile_canonical _ _ _ _ _)) (kept_either_fst ?_ (kept_either_fst ?_ ?_))
  · exact kept_endPoison _ _ _ _ _ (land _ (landTile_canonical _ _ _ _ _))
  · exact kept_endResidue _ _ _ _ _ (land _ (landTile_canonical _ _ _ _ _))
  · exact kept_spillTo z _ _ _ _ _ (land _ (landTile_canonical _ _ _ _ _)) fun r a o => spillTile_canonical _ _ _ _ _ _ o

@[simp] theorem kept_seg_drained (z : State) (g : Seg) (s : State) (r : Running) (tiles : Nat) (next : Running → Running) (kh : Kept z s) :
    Kept z (Seg.drained g s r tiles next) := by
  unfold Seg.drained
  try dsimp only
  repeat' first
    | assumption
    | with_reducible apply kept_endTrap
    | with_reducible apply kept_count
    | with_reducible apply kept_settle
    | (simp only [kept_mk])
    | with_reducible refine keptBy_of _ _ ?_
    | (split <;> try (rename_i e; obtain rfl := congrArg Prod.fst e))

@[simp] theorem kept_productDrain (z : State) (s : State) (r : Running) (h : DrnHdr) (data : BitVec 4096) (m : Mishap) (kh : Kept z s) :
    Kept z (productDrain s r h data m) := by
  unfold productDrain
  try dsimp only
  repeat' first
    | assumption
    | with_reducible apply kept_protocolError
    | with_reducible apply kept_seg_spill
    | with_reducible apply kept_seg_drained
    | (simp only [kept_mk])
    | with_reducible refine keptBy_of _ _ ?_
    | (split <;> try (rename_i e; obtain rfl := congrArg Prod.fst e))

@[simp] theorem kept_finishBlock (z : State) (s : State) (r : Running) (g : Seg) (m : Mishap) (kh : Kept z s) :
    Kept z (finishBlock s r g m) := by
  unfold finishBlock
  try dsimp only
  repeat' first
    | assumption
    | with_reducible apply kept_endPoison
    | with_reducible apply kept_residue
    | with_reducible apply kept_endResidue
    | with_reducible apply kept_tileReady
    | (split <;> try (rename_i e; obtain rfl := congrArg Prod.fst e))

@[simp] theorem kept_loadEpi (z : State) (s : State) (r : Running) (g : Seg) (w : Walk) (e : Nat) (m : Mishap) (kh : Kept z s) :
    Kept z (loadEpi s r g w e m) := by
  unfold loadEpi
  dsimp only
  split
  · exact kh
  · exact kept_waiting kh ‹_›
  · have k := kept_ready kh ‹_›
    split
    · exact kept_endPoison _ _ _ _ _ k
    · refine kept_either (kept_endResidue _ _ _ _ _ k) ?_
      simp only [kept_mk]
      refine keptBy_arch z _ _ (kept_residue _ _ _ k) fun o => loadSlots_canonical _ _ _ _ _ _ _ (fillSpan_canonical _ _ _ _ _ _ ?_)
      exact State.residue_arch _ _ ▸ o

@[simp] theorem kept_productForm (z : State) (s : State) (r : Running) (kh : Kept z s) :
    Kept z (productForm s r) := by
  unfold productForm
  try dsimp only
  repeat' first
    | assumption
    | with_reducible apply kept_post
    | with_reducible apply kept_endTrap
    | with_reducible apply kept_pumpRun
    | with_reducible apply kept_tileForm
    | (simp only [kept_mk])
    | with_reducible refine keptBy_of _ _ ?_
    | (split <;> try (rename_i e; obtain rfl := congrArg Prod.fst e))

@[simp] theorem kept_productFinish (z : State) (s : State) (r : Running) (kh : Kept z s) :
    Kept z (productFinish s r) := by
  unfold productFinish
  try dsimp only
  repeat' first
    | assumption
    | with_reducible apply kept_endRowCheck
    | with_reducible apply kept_commitPend
    | (simp only [kept_mk])
    | with_reducible refine keptBy_of _ _ ?_
    | (split <;> try (rename_i e; obtain rfl := congrArg Prod.fst e))

@[simp] theorem kept_productTrailer (z : State) (s : State) (r : Running) (kh : Kept z s) :
    Kept z (productTrailer s r) := by
  simp [productTrailer, kh]

@[simp] theorem kept_endProduct (z : State) (s : State) (r : Running) (kh : Kept z s) :
    Kept z (endProduct s r) := by
  simp [endProduct, kh]

@[simp] theorem kept_productLoad (z : State) (s : State) (r : Running) (g : Seg) (kh : Kept z s) :
    Kept z (productLoad s r g) := by
  unfold productLoad
  try dsimp only
  repeat' first
    | assumption
    | (refine kept_ready (e := ‹_ = Asked.ready _ _›) ?_)
    | (refine kept_waiting (e := ‹_ = Asked.wait _›) ?_)
    | (simp only [kept_mk])
    | with_reducible refine keptBy_of _ _ ?_
    | (split <;> try (rename_i e; obtain rfl := congrArg Prod.fst e))

@[simp] theorem kept_tokenStep (z : State) (s : State) (r : Running) (kh : Kept z s) :
    Kept z (tokenStep s r) := by
  unfold tokenStep
  try dsimp only
  repeat' first
    | assumption
    | with_reducible apply kept_takeToken
    | (simp only [kept_mk])
    | with_reducible refine keptBy_of _ _ ?_
    | (split <;> try (rename_i e; obtain rfl := congrArg Prod.fst e))

@[simp] theorem kept_productStep (z : State) (s : State) (r : Running) (m : Mishap) (kh : Kept z s) :
    Kept z (productStep s r m) := by
  unfold productStep
  try dsimp only
  repeat' first
    | assumption
    | with_reducible apply kept_eccHits
    | with_reducible apply kept_seg_stage
    | with_reducible apply kept_verifyStep
    | with_reducible apply kept_passStep
    | with_reducible apply kept_finishBlock
    | with_reducible apply kept_loadEpi
    | with_reducible apply kept_productLoad
    | with_reducible apply kept_tokenStep
    | (split <;> try (rename_i e; obtain rfl := congrArg Prod.fst e))

/-! ### Link.lean -/

@[simp] theorem kept_keepLogits (z : State) (s : State) (r : Running) (g : Geom) (e : Nat) (kh : Kept z s) :
    Kept z (keepLogits s r g e).1 :=
  kept_ofArch z s kh fun o => canonical_foldl _ (fun a k h => canonical_foldl _ (fun a i h => a.setRow_canonical _ _ _ h) _ _ h) _ _ o

@[simp] theorem kept_scoreForm (z : State) (s : State) (r : Running) (g : Geom) (kh : Kept z s) :
    Kept z (scoreForm s r g) := by
  unfold scoreForm
  try dsimp only
  repeat' first
    | assumption
    | with_reducible apply kept_post
    | with_reducible apply kept_endPoison
    | with_reducible apply kept_endTrap
    | with_reducible apply kept_pumpRun
    | with_reducible apply kept_keepLogits
    | (simp only [kept_mk])
    | with_reducible refine keptBy_of _ _ ?_
    | (split <;> try (rename_i e; obtain rfl := congrArg Prod.fst e))

@[simp] theorem kept_scoreFinish (z : State) (s : State) (r : Running) (g : Geom) (kh : Kept z s) :
    Kept z (scoreFinish s r g) := by
  unfold scoreFinish
  try dsimp only
  repeat' first
    | assumption
    | with_reducible apply kept_endRowCheck
    | (simp only [kept_mk])
    | with_reducible exact keptBy_of _ _ ‹_›
    | (split <;> try (rename_i e; obtain rfl := congrArg Prod.fst e))

@[simp] theorem kept_reportBlock (z : State) (s : State) (r : Running) (kh : Kept z s) :
    Kept z (State.reportBlock s r) := by
  simp [State.reportBlock, kh]

@[simp] theorem kept_linkStep (z : State) (s : State) (r : Running) (g : Geom) (kh : Kept z s) :
    Kept z (linkStep s r g) := by
  unfold linkStep
  try dsimp only
  repeat' first
    | assumption
    | with_reducible apply kept_endPoison
    | with_reducible apply kept_endTrap
    | with_reducible apply kept_settle
    | with_reducible apply kept_reportBlock
    | with_reducible apply linkStepRow_canonical
    | with_reducible apply linkMaxRow_canonical
    | with_reducible apply canonical_foldl_fst
    | (simp only [kept_mk])
    | with_reducible refine keptBy_arch _ _ _ ?_ ?_
    | (split <;> try (rename_i e; obtain rfl := congrArg Prod.fst e))
    | (intro)

@[simp] theorem kept_linkOpen (z : State) (s : State) (r : Running) (g : Geom) (kh : Kept z s) :
    Kept z (linkOpen s r g) := by
  unfold linkOpen
  try dsimp only
  repeat' first
    | assumption
    | (intro; intro; intro)
    | with_reducible apply kept_endPoison
    | with_reducible apply kept_endRowCheck
    | with_reducible apply kept_driveMxa
    | with_reducible apply kept_foldl
    | (simp only [kept_mk])
    | with_reducible refine keptBy_of _ _ ?_
    | (split <;> try (rename_i e; obtain rfl := congrArg Prod.fst e))

@[simp] theorem kept_stageV (z : State) (s : State) (r : Running) (g : Geom) (k : Nat) (kh : Kept z s) :
    Kept z (stageV s r g k) := by
  unfold stageV
  try dsimp only
  repeat' first
    | assumption
    | with_reducible apply kept_takeToken
    | with_reducible apply kept_linkOpen
    | with_reducible apply Item.load_canonical
    | with_reducible apply loadVScales_canonical
    | (refine kept_ready (e := ‹_ = Asked.ready _ _›) ?_)
    | (refine kept_waiting (e := ‹_ = Asked.wait _›) ?_)
    | (simp only [kept_mk])
    | with_reducible refine keptBy_arch _ _ _ ?_ ?_
    | (split <;> try (rename_i e; obtain rfl := congrArg Prod.fst e))

@[simp] theorem kept_linkCorrected (z : State) (s : State) (r : Running) (g : Geom) (kh : Kept z s) :
    Kept z (linkCorrected s r g) := by
  unfold linkCorrected
  try dsimp only
  repeat' first
    | assumption
    | with_reducible apply kept_endTrap
    | with_reducible apply kept_settle
    | with_reducible apply kept_reportBlock
    | (simp only [kept_mk])
    | with_reducible refine keptBy_of _ _ ?_
    | (split <;> try (rename_i e; obtain rfl := congrArg Prod.fst e))

theorem kept_linkDrained (z : State) (s : State) (r : Running) (g : Geom) (d : Drain) (kh : Kept z s) : Kept z (linkDrained s r g d) :=
  kept_either (kept_linkCorrected _ _ _ _ kh) (by simp [kh])

@[simp] theorem kept_linkDrain2 (z : State) (s : State) (r : Running) (g : Geom) (h : DrnHdr) (data : BitVec 4096) (m : Mishap)
    (kh : Kept z s) : Kept z (linkDrain2 s r g h data m) := by
  have run (x : State) (r : Running) (k : Kept z x) : Kept z { x with run := some r } := by simp [k]
  have land (x : Arch) (h : s.arch.Canonical → x.Canonical) : Kept z { s with arch := x } := kept_ofArch z s kh h
  unfold linkDrain2
  dsimp only
  split
  · exact kept_protocolError _ _ _ kh
  · split
    · exact run _ _ kh
    · refine kept_either (kept_linkDrained _ _ _ _ _ kh) (kept_either ?_ (kept_either ?_ ?_))
      · exact kept_endPoison _ _ _ _ _ (land _ (landTile_canonical _ _ _ _ _))
      · exact kept_endResidue _ _ _ _ _ (land _ (landTile_canonical _ _ _ _ _))
      · exact kept_linkDrained _ _ _ _ _ (kept_spillTo z _ _ _ _ _ (land _ (landTile_canonical _ _ _ _ _))
          fun r a o => correctTile_canonical _ _ _ _ _ _ _ o)

@[simp] theorem kept_linkDrain1 (z : State) (s : State) (r : Running) (g : Geom) (h : DrnHdr) (data : BitVec 4096) (m : Mishap) (kh : Kept z s) :
    Kept z (linkDrain1 s r g h data m) := by
  unfold linkDrain1
  try dsimp only
  repeat' first
    | assumption
    | with_reducible apply kept_protocolError
    | with_reducible apply kept_seg_spill
    | with_reducible apply kept_seg_drained
    | with_reducible apply kept_reportBlock
    | (simp only [kept_mk])
    | with_reducible refine keptBy_of _ _ ?_
    | (split <;> try (rename_i e; obtain rfl := congrArg Prod.fst e))

@[simp] theorem kept_linkFinishBlock (z : State) (s : State) (r : Running) (g : Geom) (m : Mishap) (kh : Kept z s) :
    Kept z (linkFinishBlock s r g m) := by
  unfold linkFinishBlock
  try dsimp only
  repeat' first
    | assumption
    | with_reducible apply kept_endPoison
    | with_reducible apply kept_residue
    | with_reducible apply kept_endResidue
    | with_reducible apply kept_tileReady
    | (split <;> try (rename_i e; obtain rfl := congrArg Prod.fst e))

@[simp] theorem kept_linkLoad (z : State) (s : State) (r : Running) (g : Geom) (kh : Kept z s) :
    Kept z (linkLoad s r g) := by
  unfold linkLoad
  try dsimp only
  repeat' first
    | assumption
    | with_reducible apply Running.initStats_canonical
    | (refine kept_ready (e := ‹_ = Asked.ready _ _›) ?_)
    | (refine kept_waiting (e := ‹_ = Asked.wait _›) ?_)
    | (simp only [kept_mk])
    | with_reducible refine keptBy_of _ _ ?_
    | with_reducible refine keptBy_arch _ _ _ ?_ ?_
    | (split <;> try (rename_i e; obtain rfl := congrArg Prod.fst e))

@[simp] theorem kept_linkFinish (z : State) (s : State) (r : Running) (g : Geom) (kh : Kept z s) :
    Kept z (linkFinish s r g) := by
  unfold linkFinish
  try dsimp only
  repeat' first
    | assumption
    | with_reducible apply kept_commitPend
    | with_reducible apply kept_reportBlock
    | (simp only [kept_mk])
    | with_reducible refine keptBy_of _ _ ?_
    | (split <;> try (rename_i e; obtain rfl := congrArg Prod.fst e))

@[simp] theorem kept_linkForm (z : State) (s : State) (r : Running) (kh : Kept z s) :
    Kept z (linkForm s r) := by
  unfold linkForm
  try dsimp only
  repeat' first
    | assumption
    | with_reducible apply kept_dropOutbox
    | with_reducible apply kept_pumpRun
    | with_reducible apply kept_tileForm
    | with_reducible apply kept_scoreForm
    | with_reducible apply kept_reportBlock
    | (simp only [kept_mk])
    | with_reducible refine keptBy_of _ _ ?_
    | (split <;> try (rename_i e; obtain rfl := congrArg Prod.fst e))

@[simp] theorem kept_linkCommit (z : State) (s : State) (r : Running) (kh : Kept z s) :
    Kept z (linkCommit s r) := by
  simp [linkCommit, kh]

@[simp] theorem kept_linkTrailer (z : State) (s : State) (r : Running) (kh : Kept z s) :
    Kept z (linkTrailer s r) := by
  unfold linkTrailer
  try dsimp only
  repeat' first
    | assumption
    | with_reducible apply kept_commitReports
    | with_reducible apply kept_sealTrailer
    | (split <;> try (rename_i e; obtain rfl := congrArg Prod.fst e))

@[simp] theorem kept_linkDrain (z : State) (s : State) (r : Running) (h : DrnHdr) (data : BitVec 4096) (m : Mishap) (kh : Kept z s) :
    Kept z (linkDrain s r h data m) := by
  simp [linkDrain, kh]

@[simp] theorem kept_linkStage1 (z : State) (s : State) (r : Running) (g : Geom) (k : Nat) (kh : Kept z s) :
    Kept z (linkStage1 s r g k) := by
  simp [linkStage1, kh]

@[simp] theorem kept_linkStepRun (z : State) (s : State) (r : Running) (m : Mishap) (kh : Kept z s) :
    Kept z (linkStepRun s r m) := by
  unfold linkStepRun
  try dsimp only
  repeat' first
    | assumption
    | with_reducible apply kept_releaseToken
    | with_reducible apply kept_abandonBand
    | with_reducible apply kept_eccHits
    | with_reducible apply kept_verifyStep
    | with_reducible apply kept_passStep
    | with_reducible apply kept_loadEpi
    | with_reducible apply kept_tokenStep
    | with_reducible apply kept_linkStep
    | with_reducible apply kept_stageV
    | with_reducible apply kept_linkFinishBlock
    | with_reducible apply kept_linkLoad
    | with_reducible apply kept_linkStage1
    | with_reducible apply kept_commitReports
    | (simp only [kept_mk])
    | with_reducible refine keptBy_of _ _ ?_
    | (split <;> try (rename_i e; obtain rfl := congrArg Prod.fst e))

end Sys2Proof.Machine
end

