-- ==== Sys2Proof/Laws/KeptSequence.lean ====
section
/-! SUPPORT. Sequencing, contexts, pairing, power and the commands keep what `Kept` says. -/

namespace Sys2Proof.Machine

open Sys2Proof

/-! ### Context.lean -/

@[simp] theorem kept_countMismatches (z : State) (s : State) (n : Nat) (kh : Kept z s) :
    Kept z (State.countMismatches s n) := by
  unfold State.countMismatches
  try dsimp only
  repeat' first
    | assumption
    | with_reducible apply kept_countBy
    | with_reducible apply kept_raiseErr
    | (split <;> try (rename_i e; obtain rfl := congrArg Prod.fst e))

@[simp] theorem kept_stopRun (z : State) (s : State) (r : Running) (status : Nat) (kh : Kept z s) :
    Kept z (State.stopRun s r status) := by
  unfold State.stopRun
  try dsimp only
  repeat' first
    | assumption
    | with_reducible apply kept_sendWords
    | with_reducible apply kept_dropXlats
    | with_reducible apply kept_dropReads
    | with_reducible apply kept_post
    | with_reducible apply kept_dropOutbox
    | with_reducible apply kept_releaseToken
    | with_reducible apply kept_abandonSegment
    | with_reducible apply kept_recallBands
    | with_reducible apply kept_endRun
    | with_reducible apply kept_pumpRun
    | with_reducible apply kept_countMismatches
    | with_reducible apply kept_settle
    | (simp only [kept_mk])
    | with_reducible refine keptBy_of _ _ ?_
    | (split <;> try (rename_i e; obtain rfl := congrArg Prod.fst e))

@[simp] theorem kept_saved (z : State) (s : State) (r : Running) (kh : Kept z s) :
    Kept z (State.saved s r) := by
  unfold State.saved
  try dsimp only
  repeat' first
    | assumption
    | with_reducible exact fun o => ⟨o.window, o.size⟩
    | with_reducible apply kept_dropXlats
    | with_reducible apply kept_push
    | with_reducible apply kept_tell
    | with_reducible apply kept_count
    | with_reducible apply kept_setQueue
    | (simp only [kept_mk])
    | with_reducible refine keptBy_of _ _ ?_
    | (split <;> try (rename_i e; obtain rfl := congrArg Prod.fst e))

@[simp] theorem kept_saveFailed (z : State) (s : State) (r : Running) (x : Say) (k : Nat) (kh : Kept z s) :
    Kept z (State.saveFailed s r x k) := kept_raiseErr _ _ _ (kept_endRun _ _ _ _ _ kh)

@[simp] theorem kept_saveStep (z : State) (s : State) (r : Running) (kh : Kept z s) :
    Kept z (State.saveStep s r) := by
  unfold State.saveStep
  try dsimp only
  repeat' first
    | assumption
    | with_reducible apply kept_saveFailed
    | with_reducible apply kept_pumpRun
    | with_reducible apply kept_raiseErr
    | with_reducible apply kept_saved
    | (split <;> try (rename_i e; obtain rfl := congrArg Prod.fst e))

@[simp] theorem kept_continueRun (z : State) (s : State) (q : BitVec 2) (p : Suspended) (r : Running) (kh : Kept z s) :
    Kept z (State.continueRun s q p r) := by
  unfold State.continueRun
  try dsimp only
  repeat' first
    | assumption
    | with_reducible exact fun o => ⟨o.window, o.size⟩
    | with_reducible apply kept_starts
    | with_reducible apply kept_setQueue
    | (simp only [kept_mk])
    | with_reducible refine keptBy_of _ _ ?_
    | (split <;> try (rename_i e; obtain rfl := congrArg Prod.fst e))

@[simp] theorem kept_resumeFailed (z : State) (s : State) (q : BitVec 2) (p : Suspended) (kh : Kept z s) :
    Kept z (State.resumeFailed s q p) := by
  unfold State.resumeFailed
  try dsimp only
  repeat' first
    | assumption
    | with_reducible exact fun o => ⟨o.window, o.size⟩
    | with_reducible apply kept_endRun
    | with_reducible apply kept_raiseErr
    | with_reducible apply kept_setQueue

@[simp] theorem kept_endFault (z : State) (s : State) (r : Running) (f : XlatFault) (kh : Kept z s) :
    Kept z (State.endFault s r f) := by
  simp [State.endFault, kh]

@[simp] theorem kept_badContext (z : State) (s : State) (r : Running) (reason : Nat) (kh : Kept z s) :
    Kept z (State.badContext s r reason) := by
  simp [State.badContext, kh]

@[simp] theorem kept_ctxSaveStep (z : State) (s : State) (r : Running) (ecc : List EccHit) (kh : Kept z s) :
    Kept z (ctxSaveStep s r ecc) := by
  unfold ctxSaveStep
  try dsimp only
  repeat' first
    | assumption
    | with_reducible apply kept_post
    | with_reducible apply kept_endOk
    | with_reducible apply kept_pumpRun
    | with_reducible apply kept_countMismatches
    | with_reducible apply kept_endFault
    | with_reducible apply kept_eccList
    | (simp only [kept_mk])
    | with_reducible refine keptBy_of _ _ ?_
    | (split <;> try (rename_i e; obtain rfl := congrArg Prod.fst e))

theorem State.countMismatches_arch (s : State) (n : Nat) : (s.countMismatches n).arch = s.arch := by
  unfold State.countMismatches
  split <;> rfl

/-- The state of a piece of restoring. -/
def Restored.Kept (z : State) : Restored → Prop
  | .on s => Machine.Kept z s
  | .failed s => Machine.Kept z s
  | .done s => Machine.Kept z s

theorem kept_askImage (z : State) (s : State) (r : Running) (base k n : Nat) (kh : Kept z s) :
    (s.askImage r base k n).Kept z := by
  unfold State.askImage
  dsimp only
  split
  · exact kept_askMirror _ _ _ kh
  · exact kept_ask _ _ _ _ _ _ kh

theorem kept_restoreLines (z : State) (s : State) (r : Running) (base k : Nat) (explicit : Bool) (kh : Kept z s) :
    (s.restoreLines r base k explicit).Kept z := by
  unfold State.restoreLines
  dsimp only
  split
  · exact kh
  · have a := kept_askImage z s r base k (Nat.min 32 (imageTotal r.blockWords explicit - k)) kh
    split
    · exact kh
    · rename_i e; rw [e] at a; exact a
    · rename_i e; rw [e] at a
      show Machine.Kept z _
      simp only [kept_mk]
      refine keptBy_arch z _ _ (kept_countMismatches _ _ _ a) fun o => ?_
      rw [State.countMismatches_arch] at o
      exact canonical_foldl_fst _ (fun x j h => restoreLine_canonical _ _ _ _ _ h) _ _ o

theorem kept_resumeStep (z : State) (s : State) (r : Running) (p : Suspended) (base : Nat) (kh : Kept z s) :
    (s.resumeStep r p base).Kept z := by
  unfold State.resumeStep
  split
  · exact kh
  · have a := kept_askImage z s r base 0 32 kh
    split
    · exact kh
    · rename_i e; rw [e] at a; exact a
    · rename_i e; rw [e] at a
      dsimp only
      split
      · exact a
      · show Machine.Kept z _
        simp only [kept_mk]
        exact keptBy_arch z _ _ a fun o => Arch.restoreMap_canonical _ _ o
  · exact kept_restoreLines _ _ _ _ _ _ kh
  · exact kh

theorem kept_on {z s t : State} {r : Running} {p : Suspended} {base : Nat} (kh : Kept z s) (e : s.resumeStep r p base = .on t) :
    Kept z t := (e ▸ kept_resumeStep z s r p base kh : (Restored.on t).Kept z)

theorem kept_unrestored {z s t : State} {r : Running} {p : Suspended} {base : Nat} (kh : Kept z s)
    (e : s.resumeStep r p base = .failed t) : Kept z t := (e ▸ kept_resumeStep z s r p base kh : (Restored.failed t).Kept z)

theorem kept_restored {z s t : State} {r : Running} {p : Suspended} {base : Nat} (kh : Kept z s)
    (e : s.resumeStep r p base = .done t) : Kept z t := (e ▸ kept_resumeStep z s r p base kh : (Restored.done t).Kept z)

@[simp] theorem kept_ctxRestoreStep (z : State) (s : State) (r : Running) (kh : Kept z s) : Kept z (ctxRestoreStep s r) := by
  have run (x : State) (r : Running) (k : Kept z x) : Kept z { x with run := some r } := by simp [k]
  unfold ctxRestoreStep
  dsimp only
  split
  · exact kept_endFault _ _ _ _ kh
  · split
    · rename_i k _
      refine kept_either (kept_either (kept_badContext _ _ _ _ kh) ?_) ?_
      · simp only [kept_mk]
        exact keptBy_arch z _ _ kh fun o => { Arch.restoreMap_canonical _ _ o with }
      · have a := kept_askImage z s r (pAddr r.ws) (4416 + k) 32 kh
        split
        · exact kh
        · rename_i e; exact (e ▸ a : (Asked.wait _).Kept z)
        · rename_i e; exact run _ _ (e ▸ a : (Asked.ready _ _).Kept z)
    · rename_i k _
      have a := kept_restoreLines z s r (pAddr r.ws) k true kh
      split
      · rename_i e; exact (e ▸ a : (Restored.on _).Kept z)
      · rename_i e; exact (e ▸ a : (Restored.failed _).Kept z)
      · rename_i e; exact kept_endOk _ _ _ (e ▸ a : (Restored.done _).Kept z)
    · have a := kept_askImage z s r (pAddr r.ws) 0 32 kh
      split
      · exact kh
      · rename_i e; exact (e ▸ a : (Asked.wait _).Kept z)
      · rename_i e
        have k := (e ▸ a : (Asked.ready _ _).Kept z)
        exact kept_either (kept_endPoison _ _ _ _ _ k) (kept_either (kept_badContext _ _ _ _ k) (kept_either
          (kept_badContext _ _ _ _ k) (kept_either (kept_badContext _ _ _ _ k) (run _ _ k))))

/-! ### Pairing.lean -/

@[simp] theorem kept_forwardBegin (z : State) (s : State) (r : Running) (kh : Kept z s) :
    Kept z (State.forwardBegin s r) := by
  simp [State.forwardBegin, kh]

@[simp] theorem kept_replyCheck (z : State) (s : State) (r : Reply) (kh : Kept z s) :
    Kept z (State.replyCheck s r) := by
  simp [State.replyCheck, kh]

@[simp] theorem kept_mirrorKeep (z : State) (s t : State) (kh : Kept z s) (kt : Kept z t) : Kept z (s.mirrorKeep t) := by
  refine kept_foldl z _ (fun s r h => kept_replyCheck _ _ _ h) _ _ ?_
  simp only [kept_mk]
  have a := (kept_iff z s).mp kh
  have b := (kept_iff z t).mp kt
  refine ⟨b.1, b.2.1, b.2.2.1, fun o => ?_⟩
  have a := a.2.2.2 o
  have b := b.2.2.2 o
  exact ⟨b.1, a.2.1, b.2.2.1, a.2.2.2.1, a.2.2.2.2.1, a.2.2.2.2.2.1, a.2.2.2.2.2.2.1, a.2.2.2.2.2.2.2.1, b.2.2.2.2.2.2.2.2⟩

@[simp] theorem kept_onAny (z : State) (s : State) (f : State → Running → State) (kh : Kept z s)
    (hf : ∀ s r, Kept z s → Kept z (f s r)) : Kept z (s.onAny f) := by
  unfold State.onAny
  split
  · exact kept_either kh (kept_either (kept_mirrorKeep _ _ _ kh (hf _ _ kh)) (hf _ _ kh))
  · exact kh

@[simp] theorem kept_onRun (z : State) (s : State) (op : Nat) (f : State → Running → State) (kh : Kept z s)
    (hf : ∀ s r, Kept z s → Kept z (f s r)) : Kept z (s.onRun op f) :=
  kept_onAny z s _ kh fun s r h => kept_either (hf s r h) h

@[simp] theorem kept_sendCopy (z : State) (s : State) (kh : Kept z s) : Kept z s.sendCopy :=
  kept_foldl z _ (fun s k h => kept_sendBeat _ _ _ _ h) _ _ kh

@[simp] theorem kept_splitDiverged (z : State) (s : State) (kh : Kept z s) :
    Kept z (State.splitDiverged s) := by
  unfold State.splitDiverged
  try dsimp only
  repeat' first
    | assumption
    | with_reducible apply kept_raiseErr
    | (simp only [kept_mk])
    | with_reducible refine keptBy_of _ _ ?_
    | (split <;> try (rename_i e; obtain rfl := congrArg Prod.fst e))

@[simp] theorem kept_fillDiverge (z : State) (s : State) (line : BitVec 45) (tag a b : Word) (timeout : Bool) (kh : Kept z s) :
    Kept z (State.fillDiverge s line tag a b timeout) := by
  simp [State.fillDiverge, kh]

@[simp] theorem kept_replyDiverged (z : State) (s : State) (kh : Kept z s) : Kept z s.replyDiverged := by
  unfold State.replyDiverged
  split
  · exact kh
  · exact kept_either (kept_setQueue _ _ _ _ (by simp [kh]) fun o => ⟨o.window, o.size⟩) (by simp [kh])

@[simp] theorem kept_diverge (z : State) (s : State) (b : WriteBeat) (line : BitVec 45) (check : Word) (timeout : Bool)
    (kh : Kept z s) : Kept z (s.diverge b line check timeout) := by
  unfold State.diverge
  dsimp only
  have k := kept_splitDiverged z _ (kept_sendBeat z _ 0 (sideband 4 6 (rowCheck 0) false 0)
    (kept_fillDiverge z s line (s.divergedTag b) (beatCheck b.data b.ben) check timeout kh))
  refine kept_either ?_ ?_
  · exact kept_count _ _ _ (kept_foldl z _ (fun s h k => kept_driveWrite _ _ _ _ _ k) _ _ (kept_replyDiverged _ _ k))
  · split
    · exact kept_either (kept_count _ _ _ k) (kept_endRun _ _ _ _ _ k)
    · exact kept_count _ _ _ k

@[simp] theorem kept_compareHeld (z : State) (s : State) (n : Nat) (kh : Kept z s) : Kept z (s.compareHeld n) := by
  induction n generalizing s with
  | zero => exact kh
  | succ n ih =>
    unfold State.compareHeld
    split
    · have k (p : Pair) : Kept z { s with pair := p } := by simp [kh]
      exact kept_either (ih _ (kept_either (kept_replyWritten _ _ (kept_driveWrite _ _ _ _ _ (k _)))
        (kept_driveWrite _ _ _ _ _ (k _)))) (kept_diverge _ _ _ _ _ _ kh)
    · exact kh

@[simp] theorem kept_releaseHeld (z : State) (s : State) (kh : Kept z s) :
    Kept z (State.releaseHeld s) := by
  unfold State.releaseHeld
  try dsimp only
  repeat' first
    | assumption
    | (intro; intro; intro)
    | with_reducible apply kept_driveWrite
    | with_reducible apply kept_replyWritten
    | with_reducible apply kept_foldl
    | (simp only [kept_mk])
    | with_reducible exact keptBy_of _ _ ‹_›
    | (split <;> try (rename_i e; obtain rfl := congrArg Prod.fst e))

/-! ### Commands.lean -/

@[simp] theorem kept_configStep (z : State) (s : State) (r : Running) (kh : Kept z s) :
    Kept z (configStep s r) := by
  unfold configStep
  try dsimp only
  repeat' first
    | assumption
    | (intro; intro; intro)
    | with_reducible apply kept_regWrite
    | with_reducible apply kept_endOk
    | with_reducible apply kept_foldl

@[simp] theorem kept_chainLoadStep (z : State) (s : State) (r : Running) (kh : Kept z s) :
    Kept z (chainLoadStep s r) := by
  unfold chainLoadStep
  try dsimp only
  repeat' first
    | assumption
    | with_reducible apply kept_refuseRun
    | with_reducible apply kept_endPoison
    | with_reducible apply kept_endOk
    | with_reducible apply kept_endFault
    | with_reducible apply Arch.removeProg_canonical
    | with_reducible apply placeProgs_canonical
    | (refine kept_ready (e := ‹_ = Asked.ready _ _›) ?_)
    | (refine kept_waiting (e := ‹_ = Asked.wait _›) ?_)
    | (simp only [kept_mk])
    | with_reducible refine keptBy_arch _ _ _ ?_ ?_
    | (split <;> try (rename_i e; obtain rfl := congrArg Prod.fst e))

@[simp] theorem kept_queryStep (z : State) (s : State) (r : Running) (kh : Kept z s) :
    Kept z (queryStep s r) := by
  unfold queryStep
  try dsimp only
  repeat' first
    | assumption
    | with_reducible apply kept_post
    | with_reducible apply kept_endOk
    | with_reducible apply kept_pumpRun
    | with_reducible apply kept_endFault
    | with_reducible apply kept_sendWords
    | (simp only [kept_mk])
    | with_reducible refine keptBy_of _ _ ?_
    | (split <;> try (rename_i e; obtain rfl := congrArg Prod.fst e))

@[simp] theorem kept_fenceStep (z : State) (s : State) (r : Running) (kh : Kept z s) :
    Kept z (fenceStep s r) := by
  have k := kept_setQueue z s r.queue { s.queue r.queue with waitFence := some r.packet } kh (fun o => ⟨o.window, o.size⟩)
  unfold fenceStep
  simp only [kept_mk]
  exact keptBy_of _ _ k

@[simp] theorem kept_fenceRelease (z : State) (s : State) (q : BitVec 2) (kh : Kept z s) :
    Kept z (fenceRelease s q) := by
  unfold fenceRelease
  try dsimp only
  repeat' first
    | assumption
    | with_reducible exact fun o => ⟨o.window, o.size⟩
    | with_reducible apply kept_push
    | with_reducible apply kept_tell
    | with_reducible apply kept_setQueue
    | (split <;> try (rename_i e; obtain rfl := congrArg Prod.fst e))

@[simp] theorem kept_resumeCommand (z : State) (s : State) (r : Running) (kh : Kept z s) : Kept z (resumeCommand s r) := by
  unfold resumeCommand
  dsimp only
  split
  · exact kept_either (kept_endRun _ _ _ _ _ kh) kh
  · split
    · exact kept_on kh ‹_›
    · have k := kept_resumeFailed z _ (BitVec.ofNat 2 (pf r.ws 6 0 2)) ‹_› (kept_unrestored kh ‹_›)
      refine kept_either ?_ kh
      simp only [kept_mk]
      exact keptBy_of _ _ k
    · exact kept_either (kept_push _ _ _ (kept_tell _ _ _ (kept_continueRun _ _ _ _ _ (kept_restored kh ‹_›)))) kh
  · simp only [kept_mk]
    exact keptBy_of _ _ (kept_dropXlats _ _ (kept_either (kept_sendWords _ _ _ _ kh) kh))
  · exact kept_refuseRun _ _ _ _ _ _ _ kh

@[simp] theorem kept_abortCommand (z : State) (s : State) (r : Running) (kh : Kept z s) :
    Kept z (abortCommand s r) := by
  unfold abortCommand
  try dsimp only
  repeat' first
    | assumption
    | with_reducible exact fun o => ⟨o.window, o.size⟩
    | with_reducible apply kept_push
    | with_reducible apply kept_tellEnd
    | with_reducible apply kept_refuseRun
    | with_reducible apply kept_endOk
    | with_reducible apply kept_count
    | with_reducible apply kept_setQueue
    | (simp only [kept_mk])
    | with_reducible refine keptBy_of _ _ ?_
    | (split <;> try (rename_i e; obtain rfl := congrArg Prod.fst e))

@[simp] theorem kept_setSteal (z : State) (s : State) (b : Bool) (kh : Kept z s) :
    Kept z (State.setSteal s b) := by
  unfold State.setSteal
  try dsimp only
  repeat' first
    | with_reducible apply kept_sendBeat
    | (simp only [kept_mk])
    | with_reducible exact keptBy_of _ _ ‹_›
    | (split <;> try (rename_i e; obtain rfl := congrArg Prod.fst e))

@[simp] theorem kept_pairModeStep (z : State) (s : State) (r : Running) (kh : Kept z s) :
    Kept z (pairModeStep s r) := by
  unfold pairModeStep
  try dsimp only
  repeat' first
    | assumption
    | with_reducible apply kept_endOk
    | with_reducible apply kept_setSteal
    | (simp only [kept_mk])
    | with_reducible refine keptBy_of _ _ ?_
    | (split <;> try (rename_i e; obtain rfl := congrArg Prod.fst e))

@[simp] theorem kept_startDusk (z : State) (s : State) (kh : Kept z s) :
    Kept z (State.startDusk s) := by
  have k := kept_foldl z State.discardFetch (fun s q h => kept_discardFetch z s q h) allQueues s kh
  unfold State.startDusk
  revert k
  dsimp only
  generalize List.foldl State.discardFetch s allQueues = v
  intro k
  have k : Kept z { v with pair := { v.pair with claim := none } } := by simp [k]
  revert k
  generalize ({ v with pair := { v.pair with claim := none } } : State) = u
  intro k
  have k2 : Kept z (match v.run with
      | some r => if r.stolen.isSome then u.abandonBand r else u
      | none => u.releaseToken) := by
    split
    · split
      · exact kept_abandonBand _ _ _ k
      · exact k
    · exact kept_releaseToken _ _ k
  simp only [kept_mk]
  exact keptBy_of _ _ k2

@[simp] theorem kept_duskCommand (z : State) (s : State) (r : Running) (kh : Kept z s) : Kept z (duskCommand s r) := by
  have k : Kept z { s with run := none, pow := s.pow.spent } := by simp [kh]
  have k := kept_startDusk z _ k
  unfold duskCommand
  simp only [kept_mk]
  exact keptBy_of _ _ k

@[simp] theorem kept_latchDawn (z : State) (s : State) (kh : Kept z s) :
    Kept z (State.latchDawn s) := by
  unfold State.latchDawn
  try dsimp only
  repeat' first
    | assumption
    | with_reducible exact fun o => (Queue.advance_ok _).mpr o
    | with_reducible apply kept_setQueue
    | (simp only [kept_mk])
    | with_reducible refine keptBy_of _ _ ?_
    | (split <;> try (rename_i e; obtain rfl := congrArg Prod.fst e))

@[simp] theorem kept_unlessFault (z : State) (s t : State) (kh : Kept z s) (kt : Kept z t) : Kept z (s.unlessFault t) :=
  kept_either kh kt

@[simp] theorem kept_copyStep (z : State) (s : State) (r : Running) (m : Mishap) (kh : Kept z s) :
    Kept z (copyStep s r m) := by
  unfold copyStep
  try dsimp only
  repeat' first
    | assumption
    | with_reducible apply kept_verifyStep
    | with_reducible apply kept_copyTile
    | with_reducible apply kept_eccHits
    | with_reducible apply kept_unlessFault
    | (split <;> try (rename_i e; obtain rfl := congrArg Prod.fst e))

@[simp] theorem kept_quantStep (z : State) (s : State) (r : Running) (m : Mishap) (kh : Kept z s) :
    Kept z (quantStep s r m) := by
  unfold quantStep
  try dsimp only
  repeat' first
    | assumption
    | with_reducible apply kept_verifyStep
    | with_reducible apply kept_quantTile
    | with_reducible apply kept_eccHits
    | with_reducible apply kept_unlessFault
    | (split <;> try (rename_i e; obtain rfl := congrArg Prod.fst e))

@[simp] theorem kept_sealStep (z : State) (s : State) (r : Running) (kh : Kept z s) :
    Kept z (sealStep s r) := by
  unfold sealStep
  try dsimp only
  repeat' first
    | assumption
    | with_reducible apply kept_verifyStep
    | with_reducible apply kept_sealTileStep
    | with_reducible apply kept_unlessFault
    | (split <;> try (rename_i e; obtain rfl := congrArg Prod.fst e))

@[simp] theorem kept_mergeWork (z : State) (s : State) (r : Running) (m : Mishap) (kh : Kept z s) :
    Kept z (mergeWork s r m) := by
  unfold mergeWork
  try dsimp only
  repeat' first
    | assumption
    | with_reducible apply kept_mergeStep
    | with_reducible apply kept_eccHits
    | with_reducible apply kept_unlessFault

@[simp] theorem kept_formUnit (z : State) (s : State) (r : Running) (kh : Kept z s) :
    Kept z (formUnit s r) := by
  unfold formUnit
  try dsimp only
  repeat' first
    | assumption
    | with_reducible apply kept_chainForm
    | with_reducible apply kept_tileForm
    | with_reducible apply kept_productForm
    | with_reducible apply kept_linkForm
    | (split <;> try (rename_i e; obtain rfl := congrArg Prod.fst e))

@[simp] theorem kept_finishUnit (z : State) (s : State) (r : Running) (kh : Kept z s) :
    Kept z (finishUnit s r) := by
  unfold finishUnit
  try dsimp only
  repeat' first
    | assumption
    | with_reducible apply kept_chainFinish
    | with_reducible apply kept_tileFinish
    | with_reducible apply kept_productFinish
    | with_reducible apply kept_linkCommit
    | (split <;> try (rename_i e; obtain rfl := congrArg Prod.fst e))

@[simp] theorem kept_formTrailer (z : State) (s : State) (r : Running) (kh : Kept z s) :
    Kept z (formTrailer s r) := by
  unfold formTrailer
  try dsimp only
  repeat' first
    | assumption
    | with_reducible apply kept_chainTrailer
    | with_reducible apply kept_sealTrailer
    | with_reducible apply kept_mergeTrailer
    | with_reducible apply kept_productTrailer
    | with_reducible apply kept_linkTrailer
    | (split <;> try (rename_i e; obtain rfl := congrArg Prod.fst e))

@[simp] theorem kept_endTrailer (z : State) (s : State) (r : Running) (kh : Kept z s) :
    Kept z (endTrailer s r) := by
  simp [endTrailer, kh]

@[simp] theorem kept_commitStep (z : State) (s : State) (r : Running) (m : Mishap) (kh : Kept z s) :
    Kept z (commitStep s r m) := by
  unfold commitStep
  try dsimp only
  repeat' first
    | assumption
    | with_reducible apply kept_abandonBand
    | with_reducible apply kept_eccHits
    | with_reducible apply kept_pumpRun
    | with_reducible apply kept_formUnit
    | with_reducible apply kept_finishUnit
    | with_reducible apply kept_formTrailer
    | with_reducible apply kept_endTrailer
    | (split <;> try (rename_i e; obtain rfl := congrArg Prod.fst e))

@[simp] theorem kept_drainBeat (z : State) (s : State) (r : Running) (h : BitVec 64) (data : BitVec 4096) (m : Mishap) (kh : Kept z s) :
    Kept z (drainBeat s r h data m) := by
  simp [drainBeat, kh]

@[simp] theorem kept_mirrorDrain (z : State) (s : State) (r : Running) (m : Mishap) (kh : Kept z s) :
    Kept z (mirrorDrain s r m) := by
  unfold mirrorDrain
  try dsimp only
  repeat' first
    | assumption
    | with_reducible apply kept_drainBeat
    | (simp only [kept_mk])
    | with_reducible exact keptBy_of _ _ ‹_›
    | (split <;> try (rename_i e; obtain rfl := congrArg Prod.fst e))

@[simp] theorem kept_beginStep (z : State) (s : State) (kh : Kept z s) :
    Kept z (beginStep s) := by
  unfold beginStep
  try dsimp only
  repeat' first
    | assumption
    | with_reducible apply kept_beginQueue
    | with_reducible apply kept_forwardBegin
    | (simp only [kept_mk])
    | with_reducible exact keptBy_of _ _ ‹_›
    | (split <;> try (rename_i e; obtain rfl := congrArg Prod.fst e))

@[simp] theorem kept_startResume (z : State) (s : State) (q : BitVec 2) (p : Suspended) (kh : Kept z s) :
    Kept z (State.startResume s q p) := by
  unfold State.startResume
  try dsimp only
  repeat' first
    | assumption
    | with_reducible apply kept_execute
    | with_reducible apply kept_sendWords
    | with_reducible apply kept_dropXlats
    | (simp only [kept_mk])
    | with_reducible refine keptBy_of _ _ ?_
    | (split <;> try (rename_i e; obtain rfl := congrArg Prod.fst e))

@[simp] theorem kept_mirrorResume (z : State) (s : State) (r : Running) (kh : Kept z s) : Kept z (mirrorResume s r) := by
  unfold mirrorResume
  split
  · simp [kh]
  · split
    · exact kept_on kh ‹_›
    · simp [kept_unrestored kh ‹_›]
    · simp [kept_restored kh ‹_›]

@[simp] theorem kept_resumeRun (z : State) (s : State) (r : Running) (kh : Kept z s) : Kept z (resumeRun s r) := by
  unfold resumeRun
  split
  · refine kept_either kh (kept_either (kept_mirrorResume _ _ _ kh) ?_)
    split
    · exact kh
    · split
      · exact kept_on kh ‹_›
      · exact kept_resumeFailed _ _ _ _ (kept_unrestored kh ‹_›)
      · exact kept_continueRun _ _ _ _ _ (kept_restored kh ‹_›)
  · exact kh

@[simp] theorem kept_resumeNext (z : State) (s : State) (kh : Kept z s) :
    Kept z (resumeNext s) := by
  unfold resumeNext
  try dsimp only
  repeat' first
    | assumption
    | with_reducible apply kept_onAny
    | with_reducible apply kept_startResume
    | with_reducible apply kept_resumeRun
    | (split <;> try (rename_i e; obtain rfl := congrArg Prod.fst e))

@[simp] theorem kept_mirrorSuspend (z : State) (s : State) (r : Running) (ecc : List EccHit) (kh : Kept z s) :
    Kept z (mirrorSuspend s r ecc) := by
  unfold mirrorSuspend
  try dsimp only
  repeat' first
    | assumption
    | with_reducible apply kept_pumpMirror
    | with_reducible apply kept_stopRun
    | with_reducible apply kept_eccList
    | (simp only [kept_mk])
    | with_reducible refine keptBy_of _ _ ?_
    | (split <;> try (rename_i e; obtain rfl := congrArg Prod.fst e))

@[simp] theorem kept_suspendRun (z : State) (s : State) (r : Running) (ecc : List EccHit) (kh : Kept z s) :
    Kept z (suspendRun s r ecc) := by
  unfold suspendRun
  try dsimp only
  repeat' first
    | assumption
    | with_reducible apply kept_abandonBand
    | with_reducible apply kept_stopRun
    | with_reducible apply kept_saveStep
    | with_reducible apply kept_eccList
    | with_reducible apply kept_mirrorSuspend
    | (split <;> try (rename_i e; obtain rfl := congrArg Prod.fst e))

/-! ### PortCmds.lean -/

@[simp] theorem kept_forwardRead (z : State) (s : State) (r : ReadReq) (tag : BitVec 7) (idx : BitVec 16) (l : RdLine) (kh : Kept z s) :
    Kept z (State.forwardRead s r tag idx l) := by
  simp [State.forwardRead, kh]

@[simp] theorem kept_readBeat (z : State) (s : State) (tag : BitVec 7) (idx : BitVec 16) (l : RdLine) (kh : Kept z s) :
    Kept z (readBeat s tag idx l) := by
  unfold readBeat
  try dsimp only
  repeat' first
    | assumption
    | with_reducible apply kept_stray
    | with_reducible apply kept_forwardRead
    | (simp only [kept_mk])
    | with_reducible exact keptBy_of _ _ ‹_›
    | (split <;> try (rename_i e; obtain rfl := congrArg Prod.fst e))

@[simp] theorem kept_writeAnswer (z : State) (s : State) (tag : BitVec 6) (kh : Kept z s) :
    Kept z (writeAnswer s tag) := by
  simp [writeAnswer, kh]

@[simp] theorem kept_starDropped (z : State) (s : State) (kh : Kept z s) :
    Kept z (State.starDropped s) := by
  unfold State.starDropped
  try dsimp only
  repeat' first
    | with_reducible apply kept_count
    | with_reducible apply kept_raiseErr
    | (simp only [kept_mk])
    | with_reducible exact keptBy_of _ _ ‹_›

@[simp] theorem kept_dropStarlog (z : State) (s : State) (kh : Kept z s) :
    Kept z (State.dropStarlog s) := by
  simp [State.dropStarlog, kh]

@[simp] theorem kept_xlatFaulted (z : State) (s : State) (a : AtpReq) (kh : Kept z s) : Kept z (s.xlatFaulted a) := by
  unfold State.xlatFaulted
  refine kept_either kh (kept_either (kept_replyFault _ _ kh) (kept_either (kept_dropStarlog _ _ kh) ?_))
  simp [kh]

@[simp] theorem kept_atpAnswer (z : State) (s : State) (id : BitVec 6) (pa : BitVec 40) (size : BitVec 2) (fault : Bool) (kh : Kept z s) :
    Kept z (atpAnswer s id pa size fault) := by
  unfold atpAnswer
  try dsimp only
  repeat' first
    | assumption
    | with_reducible apply kept_stray
    | with_reducible apply kept_xlatFaulted
    | (simp only [kept_mk])
    | with_reducible exact keptBy_of _ _ ‹_›
    | (split <;> try (rename_i e; obtain rfl := congrArg Prod.fst e))

@[simp] theorem kept_forwardDrain (z : State) (s : State) (h : BitVec 64) (data : BitVec 4096) (kh : Kept z s) :
    Kept z (State.forwardDrain s h data) := by
  unfold State.forwardDrain
  try dsimp only
  repeat' first
    | assumption
    | (intro; intro; intro)
    | with_reducible apply kept_sendBeat
    | with_reducible apply kept_foldl
    | (split <;> try (rename_i e; obtain rfl := congrArg Prod.fst e))

@[simp] theorem kept_drainStep (z : State) (s : State) (h : BitVec 64) (data : BitVec 4096) (m : Mishap) (kh : Kept z s) :
    Kept z (drainStep s h data m) := by
  unfold drainStep
  try dsimp only
  repeat' first
    | assumption
    | with_reducible apply kept_protocolError
    | with_reducible apply kept_eccHits
    | with_reducible apply kept_drainBeat
    | with_reducible apply kept_forwardDrain
    | (split <;> try (rename_i e; obtain rfl := congrArg Prod.fst e))

@[simp] theorem kept_bandAbandoned (z : State) (s : State) (band : Nat) (kh : Kept z s) :
    Kept z (State.bandAbandoned s band) := by
  unfold State.bandAbandoned
  try dsimp only
  repeat' first
    | assumption
    | with_reducible apply kept_count
    | (simp only [kept_mk])
    | with_reducible refine keptBy_of _ _ ?_
    | (split <;> try (rename_i e; obtain rfl := congrArg Prod.fst e))

@[simp] theorem kept_enterLockstep (z : State) (s : State) (r : Running) (kh : Kept z s) :
    Kept z (State.enterLockstep s r) := by
  unfold State.enterLockstep
  try dsimp only
  repeat' first
    | assumption
    | with_reducible apply kept_discardFetch
    | with_reducible apply kept_endOk
    | with_reducible apply kept_foldl
    | (simp only [kept_mk])
    | with_reducible refine keptBy_of _ _ ?_

@[simp] theorem kept_copyBeat (z : State) (s : State) (hdr : Nat) (data : Line) (check : Word) (poison : Bool) (kh : Kept z s) :
    Kept z (State.copyBeat s hdr data check poison) := by
  unfold State.copyBeat
  try dsimp only
  repeat' first
    | assumption
    | with_reducible apply kept_sendBeat
    | with_reducible apply kept_endRun
    | with_reducible apply kept_raiseErr
    | with_reducible apply kept_enterLockstep
    | with_reducible apply Arch.takeCopy_canonical
    | (simp only [kept_mk])
    | with_reducible refine keptBy_arch _ _ _ ?_ ?_
    | (split <;> try (rename_i e; obtain rfl := congrArg Prod.fst e))

@[simp] theorem kept_partnerPoison (z : State) (s : State) (tag index : Nat) (e : ErrRec) (kh : Kept z s) :
    Kept z (State.partnerPoison s tag index e) := by
  unfold State.partnerPoison
  try dsimp only
  repeat' first
    | assumption
    | with_reducible apply kept_endPoison
    | (split <;> try (rename_i e; obtain rfl := congrArg Prod.fst e))

@[simp] theorem kept_answerClaim (z : State) (s : State) (band : Nat) (kh : Kept z s) :
    Kept z (State.answerClaim s band) := by
  unfold State.answerClaim
  try dsimp only
  repeat' first
    | assumption
    | with_reducible apply kept_sendBeat
    | with_reducible apply kept_sendWords
    | (simp only [kept_mk])
    | with_reducible exact keptBy_of _ _ ‹_›
    | (split <;> try (rename_i e; obtain rfl := congrArg Prod.fst e))

@[simp] theorem kept_announced (z : State) (s : State) (n : Nat) (kh : Kept z s) :
    Kept z (State.announced s n) := by
  simp [State.announced, kh]

@[simp] theorem kept_pairMessage (z : State) (s : State) (hdr : Nat) (kh : Kept z s) :
    Kept z (State.pairMessage s hdr) := by
  unfold State.pairMessage
  try dsimp only
  repeat' first
    | assumption
    | with_reducible apply kept_leave
    | with_reducible apply kept_endRun
    | with_reducible apply kept_splitDiverged
    | with_reducible apply kept_raiseErr
    | with_reducible apply kept_bandAbandoned
    | with_reducible apply kept_enterLockstep
    | with_reducible apply kept_partnerPoison
    | with_reducible apply kept_answerClaim
    | with_reducible apply kept_announced
    | (simp only [kept_mk])
    | with_reducible exact keptBy_of _ _ ‹_›
    | (split <;> try (rename_i e; obtain rfl := congrArg Prod.fst e))

@[simp] theorem kept_echoReply (z : State) (s : State) (ws : List Nat) (kh : Kept z s) :
    Kept z (State.echoReply s ws) := by
  simp [State.echoReply, kh]

@[simp] theorem kept_dropMirror (z : State) (s : State) (tag : Nat) (kh : Kept z s) :
    Kept z (State.dropMirror s tag) := by
  unfold State.dropMirror
  try dsimp only
  repeat' first
    | (simp only [kept_mk])
    | with_reducible exact keptBy_of _ _ ‹_›
    | (split <;> try (rename_i e; obtain rfl := congrArg Prod.fst e))

@[simp] theorem kept_startStolen (z : State) (s : State) (ws : List Nat) (kh : Kept z s) :
    Kept z (State.startStolen s ws) := by
  unfold State.startStolen
  try dsimp only
  repeat' first
    | with_reducible apply kept_execute
    | with_reducible apply kept_sendBeat
    | (simp only [kept_mk])
    | with_reducible exact keptBy_of _ _ ‹_›
    | (split <;> try (rename_i e; obtain rfl := congrArg Prod.fst e))

@[simp] theorem kept_forwarded (z : State) (s : State) (ws : List Nat) (kh : Kept z s) :
    Kept z (State.forwarded s ws) := by
  unfold State.forwarded
  try dsimp only
  repeat' first
    | assumption
    | (intro; intro; intro)
    | with_reducible apply kept_either
    | with_reducible apply kept_execute
    | with_reducible apply kept_partnerPoison
    | with_reducible apply kept_drive
    | with_reducible apply kept_echoReply
    | with_reducible apply kept_dropMirror
    | with_reducible apply kept_startStolen
    | with_reducible apply kept_foldl
    | (simp only [kept_mk])
    | with_reducible exact keptBy_of _ _ ‹_›
    | (split <;> try (rename_i e; obtain rfl := congrArg Prod.fst e))

@[simp] theorem kept_forwardBeat (z : State) (s : State) (hdr : Nat) (data : Line) (kh : Kept z s) :
    Kept z (State.forwardBeat s hdr data) := by
  unfold State.forwardBeat
  try dsimp only
  repeat' first
    | with_reducible apply kept_forwarded
    | (simp only [kept_mk])
    | with_reducible exact keptBy_of _ _ ‹_›
    | (split <;> try (rename_i e; obtain rfl := congrArg Prod.fst e))

@[simp] theorem kept_pairBeat (z : State) (s : State) (data : Line) (sb : BitVec 112) (kh : Kept z s) :
    Kept z (pairBeat s data sb) := by
  unfold pairBeat
  try dsimp only
  repeat' first
    | assumption
    | with_reducible apply kept_abandonBand
    | with_reducible apply kept_count
    | with_reducible apply kept_raiseErr
    | with_reducible apply kept_drive
    | with_reducible apply kept_copyBeat
    | with_reducible apply kept_pairMessage
    | with_reducible apply kept_forwardBeat
    | (simp only [kept_mk])
    | with_reducible refine keptBy_of _ _ ?_
    | (split <;> try (rename_i e; obtain rfl := congrArg Prod.fst e))

@[simp] theorem kept_creditStep (z : State) (s : State) (kh : Kept z s) :
    Kept z (creditStep s) :=
  kept_either kh (kept_sendWaiting _ _ (by simp [kh]))

/-! ### RegCmds.lean -/

@[simp] theorem kept_dropStopped (z : State) (s t : State) (kt : Kept z t) : Kept z (s.dropStopped t) :=
  kept_foldl z _ (fun x q h => kept_either (kept_dropReads _ _ _ h) h) _ _ kt

@[simp] theorem kept_regPort (z : State) (s : State) (a : BitVec 16) (v : Word) (kh : Kept z s) : Kept z (s.regPort a v) :=
  kept_dropStopped _ _ _ (kept_portWrite _ _ _ _ kh)

/-! ### PairCmds.lean -/

@[simp] theorem kept_joinStep (z : State) (s : State) (mode : Nat) (ecc : List EccHit) (kh : Kept z s) :
    Kept z (joinStep s mode ecc) := by
  unfold joinStep
  split
  · exact kh
  · refine kept_either ?_ ?_
    · refine kept_setSteal _ _ _ ?_
      simp only [kept_mk]
      exact keptBy_of _ _ (kept_endOk _ _ _ kh)
    · dsimp only
      have k (r : Running) : Kept z { s with run := some r } := by simp [kh]
      exact kept_either (kept_either (kept_sendCopy _ _ (kept_eccList _ _ _ (k _))) (k _)) kh

@[simp] theorem kept_joinTimeout (z : State) (s : State) (kh : Kept z s) :
    Kept z (joinTimeout s) := by
  unfold joinTimeout
  try dsimp only
  repeat' first
    | assumption
    | with_reducible apply kept_refuseRun
    | (split <;> try (rename_i e; obtain rfl := congrArg Prod.fst e))

@[simp] theorem kept_handoverStep (z : State) (s : State) (kh : Kept z s) :
    Kept z (handoverStep s) := by
  unfold handoverStep
  try dsimp only
  repeat' first
    | assumption
    | with_reducible apply kept_handOver
    | (split <;> try (rename_i e; obtain rfl := congrArg Prod.fst e))

@[simp] theorem kept_tokenSignal (z : State) (s : State) (tok : BitVec 4) (gnt : BitVec 2) (kh : Kept z s) :
    Kept z (tokenSignal s tok gnt) := by
  unfold tokenSignal
  try dsimp only
  repeat' first
    | assumption
    | (simp only [kept_mk])
    | with_reducible exact keptBy_of _ _ ‹_›
    | (split <;> try (rename_i e; obtain rfl := congrArg Prod.fst e))

@[simp] theorem kept_checkStep (z : State) (s : State) (c : Word) (kh : Kept z s) :
    Kept z (checkStep s c) := by
  unfold checkStep
  try dsimp only
  repeat' first
    | assumption
    | with_reducible apply kept_compareHeld
    | (simp only [kept_mk])
    | with_reducible exact keptBy_of _ _ ‹_›
    | (split <;> try (rename_i e; obtain rfl := congrArg Prod.fst e))

@[simp] theorem kept_checkTimeout (z : State) (s : State) (kh : Kept z s) :
    Kept z (checkTimeout s) := by
  unfold checkTimeout
  try dsimp only
  repeat' first
    | assumption
    | with_reducible apply kept_diverge
    | with_reducible apply kept_compareHeld
    | (split <;> try (rename_i e; obtain rfl := congrArg Prod.fst e))

@[simp] theorem kept_autoSolo (z : State) (s : State) (kh : Kept z s) :
    Kept z (State.autoSolo s) := by
  unfold State.autoSolo
  try dsimp only
  repeat' first
    | with_reducible apply kept_releaseHeld
    | (simp only [kept_mk])
    | with_reducible exact keptBy_of _ _ ‹_›
    | (split <;> try (rename_i e; obtain rfl := congrArg Prod.fst e))

@[simp] theorem kept_dropSteals (z : State) (s : State) (kh : Kept z s) :
    Kept z (State.dropSteals s) := by
  unfold State.dropSteals
  try dsimp only
  repeat' first
    | with_reducible apply kept_leave
    | with_reducible apply kept_bandAbandoned
    | with_reducible apply kept_foldl
    | (simp only [kept_mk])
    | with_reducible exact keptBy_of _ _ ‹_›
    | (split <;> try (rename_i e; obtain rfl := congrArg Prod.fst e))

@[simp] theorem kept_aliveStep (z : State) (s : State) (p : PartnerState) (kh : Kept z s) :
    Kept z (aliveStep s p) := by
  unfold aliveStep
  try dsimp only
  repeat' first
    | assumption
    | with_reducible apply kept_setSteal
    | with_reducible apply kept_autoSolo
    | with_reducible apply kept_dropSteals
    | (simp only [kept_mk])
    | with_reducible refine keptBy_of _ _ ?_
    | (split <;> try (rename_i e; obtain rfl := congrArg Prod.fst e))

@[simp] theorem kept_stealStep (z : State) (s : State) (o : StealOffer) (kh : Kept z s) :
    Kept z (stealStep s o) := by
  unfold stealStep
  try dsimp only
  repeat' first
    | assumption
    | with_reducible apply kept_sendBeat
    | (simp only [kept_mk])
    | with_reducible exact keptBy_of _ _ ‹_›
    | (split <;> try (rename_i e; obtain rfl := congrArg Prod.fst e))

@[simp] theorem kept_stealDone (z : State) (s : State) (x : StealReport) (kh : Kept z s) :
    Kept z (stealDone s x) := by
  unfold stealDone
  try dsimp only
  repeat' first
    | assumption
    | with_reducible apply kept_count
    | with_reducible apply foldStolen_canonical
    | (simp only [kept_mk])
    | with_reducible refine keptBy_arch _ _ _ ?_ ?_
    | (split <;> try (rename_i e; obtain rfl := congrArg Prod.fst e))
    | (intro)

/-! ### Integrity.lean -/

/-- A grant zeroes the starvation count of its bank. -/
theorem Nightwatch.granted_fields (n : Nightwatch) (u : Nat) :
    (n.granted u).interval = n.interval ∧ (sparseWf 0 n.starved = true → sparseWf 0 (n.granted u).starved = true) := by
  unfold Nightwatch.granted
  split
  · rename_i b _
    exact ⟨rfl, fun h => sparseWf_sset 0 n.starved b 0 h⟩
  · exact ⟨rfl, id⟩

theorem Nightwatch.granted_pos (n : Nightwatch) (u : Nat) : (n.granted u).pos = n.pos := by
  unfold Nightwatch.granted
  split <;> rfl

@[simp] theorem kept_scrubStep (z : State) (s : State) (hits : List ScrubHit) (kh : Kept z s) : Kept z (scrubStep s hits) := by
  unfold scrubStep
  refine kept_either kh ?_
  have k := kept_foldl z (fun (t : State) h => t.eccHit (scrubHit s.night.pos.toNat h)) (fun s x h => kept_eccHit _ _ _ h) hits s kh
  have k := kept_either (c := decide (s.night.pos.toNat + 1 ≥ scrubUnits) = true) (kept_count _ _ cSCRUB k) k
  dsimp only
  revert k
  generalize (if decide (s.night.pos.toNat + 1 ≥ scrubUnits) = true then _ else _ : State) = t
  intro k
  have g := Nightwatch.granted_fields t.night s.night.pos.toNat
  refine ⟨k.straps, k.wrap, k.pending, fun o => { k.ok o with
    scrubInterval := ?_
    starved := g.2 (k.ok o).starved
    scrubPos := ?_ }⟩
  · show 16 ≤ (t.night.granted s.night.pos.toNat).interval.toNat
    rw [g.1]; exact (k.ok o).scrubInterval
  have := (kh.ok o).scrubPos
  dsimp only
  by_cases h : s.night.pos.toNat + 1 ≥ scrubUnits
  · rw [if_pos (decide_eq_true h)]; decide
  · rw [if_neg (by simpa using h), BitVec.toNat_ofNat]
    have : scrubUnits < 2 ^ 13 := by decide
    omega

/-- A write-back changes neither the cadence nor the position of scrubbing. -/
theorem kept_wroteBack (z : State) (s : State) (u : BitVec 13) (kh : Kept z s) : Kept z { s with night := s.night.wroteBack u } := by
  have g := Nightwatch.granted_fields s.night u.toNat
  refine ⟨kh.straps, kh.wrap, kh.pending, fun o => { kh.ok o with
    scrubInterval := ?_
    starved := g.2 (kh.ok o).starved
    scrubPos := ?_ }⟩
  · show 16 ≤ (s.night.granted u.toNat).interval.toNat
    rw [g.1]; exact (kh.ok o).scrubInterval
  · show (s.night.granted u.toNat).pos.toNat < scrubUnits
    rw [Nightwatch.granted_pos]; exact (kh.ok o).scrubPos

@[simp] theorem kept_writebackStep (z : State) (s : State) (kh : Kept z s) :
    Kept z (writebackStep s) := by
  unfold writebackStep
  refine kept_either kh ?_
  split
  · exact kh
  · exact kept_wroteBack _ _ _ kh

@[simp] theorem kept_starvationGrant (z : State) (s : State) (bank : BitVec 5) (wb : Bool) (hits : List ScrubHit) (kh : Kept z s) :
    Kept z (starvationGrant s bank wb hits) := by
  unfold starvationGrant
  refine kept_either kh (kept_either ?_ (kept_either (kept_scrubStep _ _ _ kh) kh))
  split
  · exact kept_wroteBack _ _ _ kh
  · exact kh

@[simp] theorem kept_trimStep (z : State) (s : State) (ok : Bool) (ro : BitVec 16) (droop roT : BitVec 6) (kh : Kept z s) :
    Kept z (trimStep s ok ro droop roT) := by
  unfold trimStep
  try dsimp only
  repeat' first
    | assumption
    | with_reducible apply kept_count
    | with_reducible apply kept_raiseErr
    | (simp only [kept_mk])
    | with_reducible exact keptBy_of _ _ ‹_›
    | (split <;> try (rename_i e; obtain rfl := congrArg Prod.fst e))

@[simp] theorem kept_droopStep (z : State) (s : State) (kh : Kept z s) :
    Kept z (droopStep s) := by
  unfold droopStep
  try dsimp only
  repeat' first
    | assumption
    | with_reducible apply kept_count
    | (simp only [kept_mk])
    | with_reducible exact keptBy_of _ _ ‹_›
    | (split <;> try (rename_i e; obtain rfl := congrArg Prod.fst e))

@[simp] theorem kept_rotationStep (z : State) (s : State) (kh : Kept z s) :
    Kept z (rotationStep s) := by
  unfold rotationStep
  try dsimp only
  repeat' first
    | assumption
    | with_reducible apply kept_count
    | (simp only [kept_mk])
    | with_reducible exact keptBy_of _ _ ‹_›
    | (split <;> try (rename_i e; obtain rfl := congrArg Prod.fst e))

@[simp] theorem kept_starRecord (z : State) (s : State) (x : StarlogSample) (kh : Kept z s) :
    Kept z (starRecord s x) := by
  unfold starRecord
  try dsimp only
  repeat' first
    | assumption
    | with_reducible apply kept_starDropped
    | (simp only [kept_mk])
    | with_reducible exact keptBy_of _ _ ‹_›
    | (split <;> try (rename_i e; obtain rfl := congrArg Prod.fst e))

@[simp] theorem kept_starWrite (z : State) (s : State) (kh : Kept z s) :
    Kept z (starWrite s) := by
  unfold starWrite
  try dsimp only
  repeat' first
    | assumption
    | with_reducible apply kept_dropStarlog
    | with_reducible apply kept_issueWrite
    | (simp only [kept_mk])
    | with_reducible refine keptBy_of _ _ ?_
    | (split <;> try (rename_i e; obtain rfl := congrArg Prod.fst e))

@[simp] theorem kept_promoteStep (z : State) (s : State) (kh : Kept z s) :
    Kept z (promoteStep s) :=
  kept_either (kept_starWrite _ _ (by simp [kh])) kh

@[simp] theorem kept_captureStep (z : State) (s : State) (e : Option EccKind) (kh : Kept z s) :
    Kept z (captureStep s e) := by
  unfold captureStep
  try dsimp only
  repeat' first
    | assumption
    | with_reducible apply kept_eccHit
    | (simp only [kept_mk])
    | with_reducible refine keptBy_of _ _ ?_
    | (split <;> try (rename_i e; obtain rfl := congrArg Prod.fst e))

/-! ### Power.lean -/

@[simp] theorem kept_startDawn (z : State) (s : State) (kh : Kept z s) :
    Kept z (State.startDawn s) :=
  ⟨kh.straps, kh.wrap, kh.pending, fun o => { kh.ok o with dawnSteps := sparseWf_ssetAll _ _ _ (kh.ok o).dawnSteps }⟩

@[simp] theorem kept_logStep (z : State) (s : State) (k : Nat) (x : StepLog) (kh : Kept z s) :
    Kept z (State.logStep s k x) :=
  ⟨kh.straps, kh.wrap, kh.pending, fun o => { kh.ok o with dawnSteps := sparseWf_sset _ _ _ _ (kh.ok o).dawnSteps }⟩

@[simp] theorem kept_toStep (z : State) (s : State) (k : Nat) (kh : Kept z s) :
    Kept z (State.toStep s k) := by
  simp [State.toStep, kh]

@[simp] theorem kept_stepDone (z : State) (s : State) (k result method attempts : Nat) (mark : Bool) (kh : Kept z s) :
    Kept z (State.stepDone s k result method attempts mark) := by
  simp [State.stepDone, kh]

@[simp] theorem kept_stepPassed (z : State) (s : State) (k : Nat) (kh : Kept z s) :
    Kept z (State.stepPassed s k) := by
  simp [State.stepPassed, kh]

@[simp] theorem kept_dawnFailed (z : State) (s : State) (k attempts : Nat) (kh : Kept z s) :
    Kept z (State.dawnFailed s k attempts) := by
  simp [State.dawnFailed, kh]

@[simp] theorem kept_initStorages (z : State) (s : State) (kh : Kept z s) : Kept z s.initStorages := by
  refine kept_stepPassed _ _ _ ⟨kh.straps, kh.wrap, kh.pending, fun o => ?_⟩
  exact { kh.ok o with arch := Arch.cleared_canonical, scrubPos := (by decide : (0 : BitVec 13).toNat < scrubUnits) }

@[simp] theorem kept_alignClocks (z : State) (s : State) (kh : Kept z s) :
    Kept z (State.alignClocks s) := by
  unfold State.alignClocks
  try dsimp only
  repeat' first
    | assumption
    | with_reducible apply kept_stepDone
    | (split <;> try (rename_i e; obtain rfl := congrArg Prod.fst e))

@[simp] theorem kept_setFirmware (z : State) (s : State) (rom : Bool) (v : BitVec 16) (kh : Kept z s) :
    Kept z (State.setFirmware s rom v) := by
  simp [State.setFirmware, kh]

@[simp] theorem kept_firmwareDone (z : State) (s : State) (a b : Nat) (c : Bool) (kh : Kept z s) :
    Kept z (State.firmwareDone s a b c) := kept_stepDone _ _ _ _ _ _ _ (kept_dropXlats _ _ (kept_dropReads _ _ _ kh))

@[simp] theorem kept_loadFirmware (z : State) (s : State) (o : DawnOutcome) (kh : Kept z s) :
    Kept z (State.loadFirmware s o) := by
  have rom (t : State) (h : Kept z t) (a b : Nat) (c : Bool) : Kept z ((t.setFirmware true 0x0310).firmwareDone a b c) :=
    kept_firmwareDone _ _ _ _ _ (kept_setFirmware _ _ _ _ h)
  unfold State.loadFirmware
  refine kept_either (rom _ kh _ _ _) (kept_either (rom _ kh _ _ _) ?_)
  have a := kept_ask z s ownFirmware 0 0 (s.dawn.imageLines (o.imageLines.toNat + 1)) kh
  split
  · rename_i e; exact (e ▸ a : (Asked.wait _).Kept z)
  · exact rom _ kh _ _ _
  · rename_i e
    have k := (e ▸ a : (Asked.ready _ _).Kept z)
    split
    · exact kept_firmwareDone _ _ _ _ _ (kept_setFirmware _ _ _ _ k)
    · exact rom _ k _ _ _

@[simp] theorem kept_setSpare (z : State) (s : State) (x : BitVec 6) (kh : Kept z s) :
    Kept z (State.setSpare s x) := by
  simp [State.setSpare, kh]

@[simp] theorem kept_testLanes (z : State) (s : State) (o : DawnOutcome) (kh : Kept z s) :
    Kept z (State.testLanes s o) := by
  unfold State.testLanes
  try dsimp only
  repeat' first
    | assumption
    | with_reducible apply kept_stepDone
    | with_reducible apply kept_dawnFailed
    | with_reducible apply kept_setSpare
    | (simp only [kept_mk])
    | with_reducible refine keptBy_of _ _ ?_
    | (split <;> try (rename_i e; obtain rfl := congrArg Prod.fst e))

@[simp] theorem kept_recordSpare (z : State) (s : State) (x : BitVec 6) (kh : Kept z s) :
    Kept z (State.recordSpare s x) := by
  have k := kept_setSpare z s x kh
  exact ⟨k.straps, k.wrap, k.pending, fun o => { k.ok o with }⟩

@[simp] theorem kept_restoreLanes (z : State) (s : State) (o : DawnOutcome) (kh : Kept z s) :
    Kept z (State.restoreLanes s o) := by
  unfold State.restoreLanes
  try dsimp only
  repeat' first
    | assumption
    | with_reducible apply kept_stepDone
    | with_reducible apply kept_setSpare
    | with_reducible apply kept_recordSpare
    | (split <;> try (rename_i e; obtain rfl := congrArg Prod.fst e))

@[simp] theorem kept_calibrate (z : State) (s : State) (o : DawnOutcome) (kh : Kept z s) :
    Kept z (State.calibrate s o) := by
  unfold State.calibrate
  try dsimp only
  repeat' first
    | with_reducible apply kept_stepDone
    | (simp only [kept_mk])
    | with_reducible exact keptBy_of _ _ ‹_›
    | (split <;> try (rename_i e; obtain rfl := congrArg Prod.fst e))

@[simp] theorem kept_answerDawn (z : State) (s : State) (kh : Kept z s) : Kept z s.answerDawn := by
  unfold State.answerDawn
  refine kept_nextReply _ _ ?_
  simp only [kept_mk]
  refine keptBy_of _ _ (kept_foldl z _ (fun s x h => ?_) _ _ kh)
  simp only [kept_mk]
  exact keptBy_of _ _ (kept_setQueue _ _ _ _ h fun o => (Queue.accept_ok _ _).mpr o)

@[simp] theorem kept_dawnReady (z : State) (s : State) (kh : Kept z s) : Kept z s.dawnReady := by
  unfold State.dawnReady
  have k := kept_logStep z s 9 ⟨s.marked 9, 1, 0, 1⟩ kh
  generalize s.logStep 9 ⟨s.marked 9, 1, 0, 1⟩ = t at k ⊢
  have k := kept_mapQueues z t (fun x => { x with window := [], newest := none, fenceTag := none }) k
    fun x o => ⟨by simp, o.size⟩
  have k := kept_answerDawn z { t with
    queues := t.queues.map fun x => { x with window := [], newest := none, fenceTag := none }
    ring := { t.ring with head := 0, tail := 0, serial := 0, phase := true, issued := false }
    star := { t.star with head := 0, tail := 0 }
    pair := t.pair.dawned
    pow := { t.pow with state := .run, dawnDone := true }
    dawn := { t.dawn with failed := false, lastExit := 1 } } ⟨k.straps, k.wrap, k.pending, fun o => { k.ok o with }⟩
  exact kept_either (kept_startDusk _ _ k) k

@[simp] theorem kept_dawnStep (z : State) (s : State) (o : DawnOutcome) (kh : Kept z s) :
    Kept z (dawnStep s o) := by
  unfold dawnStep
  try dsimp only
  repeat' first
    | assumption
    | with_reducible apply kept_stepPassed
    | with_reducible apply kept_dawnFailed
    | with_reducible apply kept_initStorages
    | with_reducible apply kept_alignClocks
    | with_reducible apply kept_loadFirmware
    | with_reducible apply kept_testLanes
    | with_reducible apply kept_restoreLanes
    | with_reducible apply kept_calibrate
    | with_reducible apply kept_dawnReady
    | (split <;> try (rename_i e; obtain rfl := congrArg Prod.fst e))

@[simp] theorem kept_duskStarlog (z : State) (s : State) (kh : Kept z s) :
    Kept z (State.duskStarlog s) := by
  unfold State.duskStarlog
  try dsimp only
  repeat' first
    | assumption
    | with_reducible apply kept_dropStarlog
    | with_reducible apply kept_starWrite
    | (simp only [kept_mk])
    | with_reducible exact keptBy_of _ _ ‹_›
    | (split <;> try (rename_i e; obtain rfl := congrArg Prod.fst e))

@[simp] theorem kept_turnOff (z : State) (s : State) (kh : Kept z s) : Kept z s.turnOff := by
  have k := kept_foldl z State.discardFetch (fun s q h => kept_discardFetch _ _ _ h) allQ s kh
  unfold State.turnOff
  generalize allQ.foldl State.discardFetch s = t at k ⊢
  have k : Kept z { t with pow := { t.pow with state := .off, duskStep := 0 } } := by simp [k]
  exact kept_either (kept_startDawn _ _ k) k

@[simp] theorem kept_duskStep (z : State) (s : State) (kh : Kept z s) :
    Kept z (duskStep s) := by
  unfold duskStep
  try dsimp only
  repeat' first
    | assumption
    | with_reducible apply kept_push
    | with_reducible apply kept_tell
    | with_reducible apply kept_releaseToken
    | with_reducible apply kept_duskStarlog
    | with_reducible apply kept_turnOff
    | (simp only [kept_mk])
    | with_reducible refine keptBy_of _ _ ?_
    | (split <;> try (rename_i e; obtain rfl := congrArg Prod.fst e))

@[simp] theorem kept_enRise (z : State) (s : State) (kh : Kept z s) :
    Kept z (enRise s) := by
  unfold enRise
  try dsimp only
  repeat' first
    | with_reducible apply kept_startDawn
    | (simp only [kept_mk])
    | with_reducible exact keptBy_of _ _ ‹_›
    | (split <;> try (rename_i e; obtain rfl := congrArg Prod.fst e))

@[simp] theorem kept_enFall (z : State) (s : State) (kh : Kept z s) :
    Kept z (enFall s) := by
  unfold enFall
  try dsimp only
  repeat' first
    | with_reducible apply kept_startDusk
    | (simp only [kept_mk])
    | with_reducible exact keptBy_of _ _ ‹_›
    | (split <;> try (rename_i e; obtain rfl := congrArg Prod.fst e))

@[simp] theorem kept_preemptEdge (z : State) (s : State) (kh : Kept z s) :
    Kept z (preemptEdge s) := by
  unfold preemptEdge
  try dsimp only
  repeat' first
    | assumption
    | with_reducible apply kept_count
    | (simp only [kept_mk])
    | with_reducible exact keptBy_of _ _ ‹_›
    | (split <;> try (rename_i e; obtain rfl := congrArg Prod.fst e))

@[simp] theorem kept_fenceUp (z : State) (s : State) (kh : Kept z s) :
    Kept z (fenceUp s) := by
  unfold fenceUp
  try dsimp only
  repeat' first
    | with_reducible apply kept_releaseToken
    | with_reducible apply kept_abandonBand
    | (simp only [kept_mk])
    | with_reducible exact keptBy_of _ _ ‹_›
    | (split <;> try (rename_i e; obtain rfl := congrArg Prod.fst e))

@[simp] theorem kept_fenceDown (z : State) (s : State) (kh : Kept z s) :
    Kept z (fenceDown s) := by
  simp [fenceDown, kh]

@[simp] theorem kept_syncPulse (z : State) (s : State) (kh : Kept z s) :
    Kept z (syncPulse s) := by
  unfold syncPulse
  try dsimp only
  repeat' first
    | assumption
    | with_reducible apply kept_count
    | (simp only [kept_mk])
    | with_reducible exact keptBy_of _ _ ‹_›
    | (split <;> try (rename_i e; obtain rfl := congrArg Prod.fst e))

@[simp] theorem kept_syncLate (z : State) (s : State) (kh : Kept z s) :
    Kept z (syncLate s) := by
  simp [syncLate, kh]

/-- A queue with an empty window and a size field of 0 is well-formed. -/
theorem reset_queue_ok (x : Queue) (hw : x.window = []) (hz : x.base.size = 0) : x.Ok := ⟨by simp [hw], by simp [hz]⟩

theorem reset_ok : State.reset.Ok := by
  refine .mk (.mk rfl rfl rfl rfl rfl) (.mk rfl rfl fun k => by simp [State.reset, Counters.value, sget]) ?_ ?_ ?_ ?_ ?_ ?_ ?_ ?_ ?_ ?_ ?_ rfl rfl
  case refine_1 => constructor <;> decide
  all_goals first | exact reset_queue_ok _ rfl rfl | decide

@[simp] theorem kept_warmReset (z : State) (s : State) (kh : Kept z s) : Kept z (warmReset s) := by
  have k : Kept z (s.keepOutside { State.reset with
      straps := s.straps, wrap := s.wrap
      dawn := { s.dawn with
        lastExit := if (s.pow.state = .dawn && !s.pow.failed) then 3 else s.dawn.lastExit
        failed := s.dawn.failed && !(s.pow.state = .dawn && !s.pow.failed) } }) :=
    ⟨kh.straps, kh.wrap, kh.pending, fun o => { reset_ok with dawnSteps := (kh.ok o).dawnSteps }⟩
  exact kept_either (kept_startDawn _ _ k) k

/-! ### Wrapper.lean -/

end Sys2Proof.Machine
end

