-- ==== Sys2Proof/Tests/Slice0.lean ====
section
/-! SUPPORT. Tests: the well-formedness smoke, the spec's worked examples, and for every statement a state and operands that meet its
hypotheses, clause by clause. A theorem named after an obligation is about its hypotheses. -/

open Sys2Proof Sys2Proof.Machine

section Tests

set_option Elab.async false

/-- A Dawn outcome in which all goes well, but for a lane. -/
def outcome (c : Option (BitVec 6)) : DawnOutcome := ⟨true, 0, some 1, c, true, true, true, 100, 0x20, 0x20⟩

/-- The packet of 12's worked example. -/
def examplePacket : List Nat := [0x03800200, 0x401, 1000, 0, 0x123400, 0x05000000, 0x11000000, 0, 7, 0x32000000, 0xA, 0xBA800000, 0, 0, 0, 0]

/-- A QUANTIZE of queue 2 that has just begun. -/
def exampleRun : Running := { queue := 2, home := 1, packet := words [0x06000200, 0x401], descs := [], cfg := {}, almanac := 0 }

/-! ### Well-formedness: one ill-formed term for each check, and a well-formed one beside it -/

theorem test_wf_ecc_position : (EccKind.corrected 79 none).wf = true ∧ (EccKind.corrected 80 none).wf = false := by decide
theorem test_wf_ecc_two_positions : (EccKind.corrected 5 (some 79)).wf = true ∧ (EccKind.corrected 5 (some 5)).wf = false ∧
    (EccKind.corrected 5 (some 80)).wf = false := by decide
theorem test_wf_hit_storage : (EccHit.mk 6 5 0 (.uncorrectable 0)).wf = true ∧ (EccHit.mk 7 5 0 (.uncorrectable 0)).wf = false := by decide
theorem test_wf_hit_requester : (EccHit.mk 0 6 0 (.uncorrectable 0)).wf = false := by decide
theorem test_wf_hit_kind : (EccHit.mk 0 0 0 (.corrected 80 none)).wf = false := by decide
theorem test_wf_scrub_hit : (Instr.scrubUnit [⟨false, 0, .corrected 80 none⟩]).wf = false := by decide
theorem test_wf_mishap_order : (Mishap.mk [⟨0, false, 0, 0⟩, ⟨1, true, 31, 7⟩] []).wf = true ∧
    (Mishap.mk [⟨1, false, 0, 0⟩, ⟨1, true, 31, 7⟩] []).wf = false := by decide
theorem test_wf_mishap_hits : (Instr.chainRun ⟨[], [⟨7, 0, 0, .uncorrectable 0⟩]⟩).wf = false := by decide
theorem test_wf_drain_mishap : (Instr.mxaDrainBeat 0 0 ⟨[⟨2, false, 0, 0⟩, ⟨1, false, 0, 0⟩], []⟩).wf = false := by decide
theorem test_wf_image_hits : (Instr.ctxSave [⟨1, 5, 0, .uncorrectable 0⟩]).wf = true ∧ (Instr.ctxSave [⟨7, 0, 0, .uncorrectable 0⟩]).wf = false ∧
    (Instr.commandSuspend [⟨0, 6, 0, .uncorrectable 0⟩]).wf = false := by decide
theorem test_wf_grant_hits : (Instr.scrubStarvationGrant 31 false [⟨true, 0, .corrected 80 none⟩]).wf = false := by decide
theorem test_wf_counter_high : (Instr.counterClear 0x1884 0).wf = true ∧ (Instr.counterClear 0x1A94 0).wf = true ∧
    (Instr.counterClear 0x1880 0).wf = false ∧ (Instr.counterClear 0x187C 0).wf = false ∧ (Instr.counterClear 0x1A9C 0).wf = false := by decide
theorem test_wf_capture : (Instr.debugCapture (some (.corrected 80 none))).wf = false := by decide
theorem test_wf_join : (Instr.pairModeJoin 1 []).wf = true ∧ (Instr.pairModeJoin 2 []).wf = false ∧
    (Instr.pairModeJoin 1 [⟨7, 0, 0, .uncorrectable 0⟩]).wf = false := by decide
theorem test_wf_pair_kind : (Instr.pairDataBeat 0 (BitVec.ofNat 112 (6 * 2 ^ 108))).wf = true ∧
    (Instr.pairDataBeat 0 (BitVec.ofNat 112 (7 * 2 ^ 108))).wf = false := by decide
theorem test_wf_offer : (Instr.bandSteal ⟨3, 31, 0, false, 0⟩).wf = true ∧ (Instr.bandSteal ⟨5, 0x3F, 0, false, 0⟩).wf = true ∧
    (Instr.bandSteal ⟨4, 0, 0, false, 0⟩).wf = false ∧ (Instr.bandSteal ⟨3, 32, 0, false, 0⟩).wf = false := by decide
theorem test_wf_report_slot : (Instr.stealBandDone ⟨0, [(64, 1)], none, [], []⟩).wf = true ∧ (Instr.stealBandDone ⟨0, [(65, 1)], none, [], []⟩).wf = false ∧
    (Instr.stealBandDone ⟨0, [(13, 1)], none, [], []⟩).wf = false := by decide
theorem test_wf_report_field : (Instr.stealBandDone ⟨0, [], none, [(0, 0, 4, 0)], []⟩).wf = true ∧
    (Instr.stealBandDone ⟨0, [], none, [(0, 0, 5, 0)], []⟩).wf = false := by decide
theorem test_wf_dawn : (Instr.dawnSequence (outcome (some 32))).wf = true ∧ (Instr.dawnSequence (outcome (some 33))).wf = false ∧
    (Instr.dawnSequence (outcome none)).wf = true := by decide

/-! ### The spec's worked examples -/

/-- 02, packing three narrow rows: FP4, T2 and FP6 E2M3. -/
theorem test_packing : pack 4 [7, 9, 3, 0] = 0x0397 ∧ pack 2 [1, 3, 0, 1] = 0x4D ∧ pack 6 [0x08, 0x24, 0x1F, 0x01] = 0x05F908 := by decide

/-- 02, the E4M3 saturation edge: 460, 464, 465 and minus infinity. -/
theorem test_e4m3_edge : ((convert ⟨true, false, false⟩ 3 0 0 (.fin false 460 1)).1 = 0x7E) ∧ (convert ⟨true, false, false⟩ 3 0 0 (.fin false 464 1) = (0x7E, {})) ∧
    (convert ⟨true, false, false⟩ 3 0 0 (.fin false 465 1) = (0x7E, { sat := true })) ∧ (convert ⟨true, false, false⟩ 3 0 0 (.inf true) = (0xFE, { sat := true })) := by
  decide +kernel

/-- 02, reading one scaled element: 3 × 2^-3 × 0.75 in BF16, and 2.25 in FP4. -/
theorem test_scaled_element : (convert ⟨false, false, false⟩ 1 0 0 (xmul (xmul (decode 7 5) (decode 12 0x7C)) (.fin false 3 4))).1 = 0x3E90 ∧
    (convert ⟨false, false, false⟩ 7 0 0 (.fin false 9 4)).1 = 4 := by decide +kernel

/-- 03, one Stardust evaluation: word 4 of its group, and both roundings. -/
theorem test_stardust : stardust ⟨0x0123456789ABCDEF, 0x42, 0x1F40⟩ 3 0x1234 = 0x2208 ∧
    (convert ⟨false, false, false⟩ 7 5 0x2208 (decode 0 0x40399999)).1 = 5 ∧ (convert ⟨false, false, false⟩ 7 5 0x2208 (decode 0 0x40199999)).1 = 4 := by
  decide +kernel

/-- 04, encoding one micro-op. -/
theorem test_uop_fields : uopOf 0x02006261FFFF00403F4C422A =
    .mk 2 0 0 0x62 0x61 0xFF 0xFF 0 false 0 false true 0 0x3F4C422A 0 0 0 := by decide +kernel

/-- 05, exp2 of 2^-20 into FP32 and BF16, and log2 just above 1. -/
theorem test_functions : (fnStage ⟨false, false, false⟩ 0x30 0 0 0 (decode 0 0x35800000)).1 = 0x3F800006 ∧
    (fnStage ⟨false, false, false⟩ 0x30 1 0 0 (decode 0 0x35800000)).1 = 0x3F80 ∧ (fnStage ⟨false, false, false⟩ 0x31 0 0 0 (decode 0 0x3F800001)).1 = 0x3438AA3A := by
  decide +kernel

/-- A block whose element 0 to 2 are given and whose others are all alike. -/
def exampleBlock (l : List (Nat × XVal)) (rest : XVal) : List (Nat × XVal) :=
  (List.range 32).map fun j => (j, ((l.find? fun p => p.1 = j).map (·.2)).getD rest)

/-- What QUANTIZE makes of one block: its codes, its scale and its sidecar word. -/
def quantOf (limit : Nat) (bias : Int) (l : List (Nat × XVal)) : List Nat × Nat × Nat :=
  (quantBlock (exampleRun.tileBlk (descOf []) 0 0 0) 7 0 limit bias 0 0 false l {}).1

/-- 07, a normal block. -/
theorem test_normal_block : quantOf 2 0 (exampleBlock [(0, .fin false 5 1), (1, .fin true 37 10), (2, .fin false 11 10)] (.fin false 4 10)) =
    ([6, 0xE, 2] ++ List.replicate 29 1, 0x7F, 0) := by decide +kernel

/-- 07, two stars. -/
theorem test_two_stars : (quantOf 2 0 (exampleBlock [(0, .fin false 3 2), (5, .fin false 96 1), (17, .fin true 40 1)] (.fin false 3 4))).2 = (0x7D, 0x0000C32043C00A25) := by
  decide +kernel

/-- 07, an all-zero block, and the scale bias. -/
theorem test_zero_and_bias : (quantOf 2 0 (exampleBlock [] (.fin true 0 1))).2 = (0, 0x0001000000000000) ∧
    (quantOf 2 8 (exampleBlock [(0, .fin false (5 * 2 ^ 132) 1), (1, .fin false (5 * 2 ^ 132) 1), (2, .fin false (5 * 2 ^ 132) 1), (3, .fin false (5 * 2 ^ 132) 1)]
      (.fin false (2 ^ 133) 1))) = ([6, 6, 6, 6] ++ List.replicate 28 4, 0xFB, 0) := by decide +kernel

/-- 12, the window across the wrap of the tag: which of five tags are after 0x0000_008F, 0x0000_0090 in the last two. -/
theorem test_tag_order : tagAfter 0x00000010 0x0000008F = false ∧ tagAfter 0x00000090 0x0000008F = true ∧ tagAfter 0xFFFFFF90 0x00000090 = false ∧
    tagAfter 0x80000090 0x00000090 = false ∧ tagAfter 0x8000008F 0x00000090 = true := by decide

/-- 12, a CHAIN_RUN packet: its fields, and word 0 of its reply. -/
theorem test_packet_fields : pOp examplePacket = 3 ∧ pIrq examplePacket = true ∧ pStream examplePacket = 0x200 ∧ pTag examplePacket = 0x401 ∧
    pStep examplePacket = 1000 ∧ pTab examplePacket = 0x123400 ∧ pCount examplePacket = 5 ∧ pProg examplePacket = some 4 ∧
    (replyOf 2 (pOp examplePacket) (pTag examplePacket) (pIrq examplePacket) { status := 0, tiles := 0x2000 }).w0 = 0x00000302 := by decide

/-! ### States for the hypotheses -/

/-- The row answers a next state, of which `p` holds. -/
def gives (c : Instr) (s : State) (p : State → Bool) : Bool :=
  match exec c s with
  | .next t => p t
  | .fault _ => false
  | .refused _ => false

/-- The block runs. -/
def on : State := { State.reset with pow := { State.reset.pow with state := .run, dawnDone := true, en := true } }
/-- The block runs, and its twin is twin B. -/
def onB : State := { on with straps := ⟨1, true, 0, 0⟩ }
/-- In Dawn at step `k`. -/
def dawnAt (k : BitVec 4) : State := { State.reset with pow := { State.reset.pow with state := .dawn, step := k, en := true } }
/-- In Dusk at step `k`. -/
def duskAt (k : BitVec 3) : State := { State.reset with pow := { State.reset.pow with state := .dusk, duskStep := k } }
/-- Leading LOCKSTEP. -/
def leadA : State := { on with pair := { on.pair with mode := .lockstep } }
/-- Mirroring LOCKSTEP. -/
def mirrorB : State := { onB with pair := { onB.pair with mode := .lockstep } }
/-- What holds after EXTEST. -/
def testing : State := { on with wrap := { on.wrap with wir := 1, undefinedUntilCold := true } }
/-- The image of a program that adds 1.0 to slot 0 and stores slot 1: one micro-op, one pass, W = 32, T0 and T1 (04 R100, R119, R120);
and the same with its CRC. -/
def bareImage : List Nat := [0x00310108, 0, 0x80014000, 0, 0, 0, 0, 0, 0x3F800000, 0xFFFF00C0, 0x02000100]
def addImage : List Word := words (bareImage.set 6 (imageCrc bareImage))
/-- The chain store with that program as program 0. -/
def stored : Arch := { progs := [⟨0, 0, 1, false⟩], granules := [(0, BitVec.ofNat 512 (pack 32 (nats addImage)))] }
/-- A command of queue 2 of an opcode, whose packet goes on with `ws`. -/
def job (op : Nat) (ws : List Nat) (st : Stage) : Running :=
  { queue := 2, home := 1, packet := words (op <<< 24 :: 7 :: ws), descs := [], cfg := {}, almanac := 0, stage := st }
/-- `s` executing `r`. -/
def doing (s : State) (r : Running) : State := { s with run := some r }
/-- `s` with queue `q` changed. -/
def withQueue (s : State) (q : BitVec 2) (f : Queue → Queue) : State := s.setQueue q (f (s.queue q))

/-- `r` is the executing command of `s`, its own, of opcode `op`, and works. -/
def working (s : State) (r : Running) (op : Nat) : Bool :=
  s.run = some r ∧ r.op = op ∧ r.mirror = false ∧ r.stolen = none ∧ r.final = none
theorem test_working (s : State) (r : Running) (op : Nat) (h : working s r op = true) : s.Runs r op := by
  simp only [working, decide_eq_true_eq] at h
  exact .mk h.1 h.2.1 h.2.2.1 h.2.2.2.1 h.2.2.2.2
/-- The lines are here, and of what was asked and read `p` holds. -/
def readyWith (x : Asked) (p : State → Sparse RdLine → Bool) : Bool :=
  match x with
  | .ready u b => p u b
  | .wait _ => false
  | .fault _ => false
/-- Lines are awaited. -/
def waits (x : Asked) : Bool :=
  match x with
  | .wait _ => true
  | .ready .. => false
  | .fault _ => false
/-- A restore is complete, or cannot go on. -/
def restoreDone (x : Restored) : Bool :=
  match x with
  | .done _ => true
  | .on _ => false
  | .failed _ => false
def restoreFails (x : Restored) : Bool :=
  match x with
  | .failed _ => true
  | .on _ => false
  | .done _ => false
/-- `s` with 32-bit words returned for an owner from a byte address on. -/
def holdingWords (s : State) (owner addr : Nat) (ws : List Nat) : State :=
  { s with port := { s.port with buf := (List.range (cdiv ws.length 32)).map fun k =>
      (owner, addr / 128 + k, { data := BitVec.ofNat 1024 (pack 32 ((ws.drop (32 * k)).take 32)) }) } }

/-- A state whose parts of `State.Ok` stand as they do at reset is well-formed. -/
theorem test_ok (s : State) (ha : s.arch = {}) (hc : s.cnt = {}) (hn : s.num = {}) (hq : s.queues = State.reset.queues) (hr : s.ring.base = {})
    (hs : s.star.base = {} ∧ s.star.period = 0x1388) (hl : s.cal.period = 0x00C350) (hk : s.night.interval = 0x86B)
    (hp : s.night.pos.toNat < scrubUnits) (hd : sparseWf {} s.dawn.steps = true) (hv : sparseWf 0 s.night.starved = true) : s.Ok := by
  refine .mk (by rw [ha]; exact .mk rfl rfl rfl rfl rfl) (by rw [hc]; exact .mk rfl rfl (fun _ => Nat.zero_le _)) (by rw [hn]; constructor <;> decide)
    ?_ ?_ ?_ ?_ (by rw [hr]; decide) (by rw [hs.1]; decide) (by rw [hs.2]; decide) (by rw [hl]; decide) (by rw [hk]; decide) hp hd hv
  all_goals (rw [hq]; constructor <;> decide)
theorem test_ok_on : on.Ok := test_ok _ rfl rfl rfl rfl rfl ⟨rfl, rfl⟩ rfl rfl (by decide) rfl rfl

/-! ### Hypotheses, part one: the queue, the register port and the background -/

theorem test_StepRunsFrontCommand : step { on with pending := [.enLow, .nop] } = exec .enLow { on with pending := [.nop] } := rfl
theorem test_ExecLeavesQueue : gives (.clearAll 1) { on with pending := [.nop] } (fun t => t.pending = [.nop]) = true := by decide +kernel
theorem test_FunctionalRowsAnswerWhileLive : on.Live ∧ ¬testing.Live ∧ exec .enLow testing = .fault .functionalUndefined ∧
    [Instr.isWrapper .wsBypass, Instr.isCold (.poreset on.straps), Instr.isRegPort (.clearAll 1)] = [true, true, true] ∧
    [Instr.isWrapper .enLow, Instr.isCold .enLow, Instr.isRegPort .enLow] = [false, false, false] ∧
    gives (.counterRead 0x3000) { testing with dawn := { testing.dawn with serial := 7 } } (fun t => t.wires = [.reg 0x0007FC00 false]) = true ∧
    gives (.registerWrite 0x1004 5) testing (fun t => t.num = testing.num) = true :=
  ⟨rfl, by unfold State.Live; decide, rfl, rfl, rfl, by decide +kernel, by decide +kernel⟩
theorem test_WrapperRows : { on with wrap := { on.wrap with mbistBusy := true } }.wrap.mbistBusy = true ∧ on.wrap.mbistBusy = false ∧
    gives (.mbistDone true 0x3F 5) { testing with wrap := { testing.wrap with mbistBusy := true } }
      (fun t => t.wrap.mbistResult = 0xFF00000000000005) = true := by decide +kernel
theorem test_FunctionalRowsLeaveWrapper : gives .enLow on (fun t => t.wrap = on.wrap) = true ∧ Instr.isWrapper .enLow = false ∧
    Instr.isCold .enLow = false := by decide +kernel
theorem test_StrapsChangeOnlyAtColdReset : ∃ t, step { on with pending := [.wreset] } = .next t ∧ t.straps = on.straps := ⟨_, rfl, by decide +kernel⟩
theorem test_StepKeepsOk : { on with pending := [.enLow] }.Ok ∧ ∃ t, step { on with pending := [.enLow] } = .next t :=
  ⟨test_ok _ rfl rfl rfl rfl rfl ⟨rfl, rfl⟩ rfl rfl (by decide) rfl rfl, _, rfl⟩

/-- Queue 3 enabled; a size field of 12 is taken, one of 13 is reserved. -/
theorem test_RingRegisterWrites : on.Live ∧ ((withQueue on 3 fun x => { x with enable := true }).queue 3).enable = true ∧
    (withQueue on 3 fun x => { x with enable := true }).anyEnabled = true ∧ ((0xC0000000 : Word).extractLsb' 28 4).toNat < 13 ∧
    gives (.doorbell 3 15) on (fun t => (t.queue 3).tail = 15) = true ∧ gives (.doorbell 3 16) on (fun t => (t.queue 3).tail = 0 ∧ t.cnt.value 24 = 1) = true :=
  ⟨rfl, by decide +kernel⟩
theorem test_QueueControlWrite : on.Live ∧ (0x80000000 : Word).getLsbD 31 = true ∧ (0 : Word).getLsbD 31 = false ∧
    ((withQueue on 3 fun x => { x with enable := true }).queue 3).enable = true ∧ (on.queue 3).enable = false := ⟨rfl, by decide +kernel⟩
theorem test_NumCfgWrite : on.Live ∧ gives (.numCfgWrite 0xFFFFFFFF) on (fun t => t.num.numCfg = 0x000281FC ∧ t.cnt.value 24 = 1) = true ∧
    gives (.numCfgWrite 0x00006000) on (fun t => t.num.numCfg = 0x00006000 ∧ t.cnt.value 24 = 0) = true := ⟨rfl, by decide +kernel⟩
theorem test_RecordClears : on.Live ∧ gives (.trapRecordClear 0x80000000) { on with trap := { on.trap with w0 := 0x80000001, w4 := 5 } } (fun t => t.trap = {}) = true :=
  ⟨rfl, by decide +kernel⟩
theorem test_StatusClears : on.Live ∧ 12 < 13 ∧ gives (.errStatusClear 0x1000) { on with err := { on.err with status := 0x1001 } } (fun t => t.err.status = 1) = true :=
  ⟨rfl, by decide +kernel⟩
theorem test_ClearAllCounters : on.Live ∧ gives (.clearAll 1) { on with cnt := on.cnt.raise 64 5 } (fun t => t.cnt.value 64 = 0) = true := ⟨rfl, by decide +kernel⟩
/-- Slot 64 is the last that counts events; slots 65 and 66 are the stall counters, and 66 the last slot. -/
theorem test_CounterClearedAlone : on.Live ∧ on.Ok ∧ 64 < 65 ∧ gives (.counterClear 0x1A84 0x80000000) { on with cnt := on.cnt.raise 64 5 } (fun t => t.cnt.value 64 = 0) = true ∧
    gives (.counterClear 0x1A94 0x80000000) { on with cnt := (on.cnt.raise 65 4).raise 66 5 } (fun t => t.cnt.value 66 = 0 ∧ t.cnt.value 65 = 4) = true :=
  ⟨rfl, test_ok_on, by decide +kernel⟩
theorem test_CounterReads : on.Live ∧ on.Ok ∧ 64 < 65 ∧ 66 < 67 ∧ on.run = none ∧ on.dbg.busy = false ∧ on.cnt.stalls = false ∧
    gives (.counterRead 0x1880) { on with cnt := on.cnt.raise 0 (2 ^ 32 + 7) }
      (fun t => t.wires = [.reg 7 false] ∧ gives (.counterRead 0x1884) t (fun u => u.wires.head? = some (.reg 1 false))) = true ∧
    gives (.counterRead 0x1A90) { on with cnt := on.cnt.raise 66 9 } (fun t => t.wires = [.reg 9 false]) = true ∧
    (doing on (job 3 [] .passes)).run ≠ none ∧ { on with dbg := { on.dbg with busy := true } }.dbg.busy = true :=
  ⟨rfl, test_ok_on, by decide +kernel⟩
theorem test_ReadsThatClear : on.Live := rfl
/-- A capture of the last register of the TRF; of the last word of its tag; of no register; of no tag word. -/
def capturing (tag : Bool) (reg : BitVec 7) (word : BitVec 5) : State :=
  { on with dbg := { on.dbg with busy := true, tag := tag, register := reg, word := word } }
theorem test_DebugCaptures : on.Live ∧ on.dbg.busy = false ∧ on.pow.state ≠ .off ∧
    gives (.debugCapture none) (capturing false 95 31) (fun t => t.dbg.busy = false ∧ t.dbg.data = 0) = true ∧
    gives (.debugCapture none) { capturing true 95 1 with arch := ({} : Arch).setRow 95 0 (freshRow 1 0 0 0) } (fun t => t.dbg.data = 0x00010400) = true ∧
    gives (.debugCapture (some (.uncorrectable 7))) (capturing false 95 30) (fun t => t.dbg.poison ∧ t.dbg.data = 7 ∧ (t.arch.row 95 0).tag.poison) = true ∧
    gives (.debugCapture (some (.corrected 3 none))) (capturing false 95 30) (fun t => t.dbg.data = 0 ∧ t.cnt.value 55 = 1) = true ∧
    (96 : Nat) ≤ (capturing false 96 0).dbg.register.toNat ∧ 2 ≤ (capturing true 95 2).dbg.word.toNat ∧ (capturing true 95 2).dbg.tag = true :=
  ⟨rfl, by decide +kernel⟩
/-- A rotation waits; a column has been pinned since. -/
def rotating : State := { on with cal := { on.cal with rotPending := true } }
def rotatingPinned : State := { rotating with dawn := { rotating.dawn with pinned := 32 } }
theorem test_LaneRotationAndForget : rotating.Live ∧ on.Ok ∧ rotating.cal.rotPending = true ∧ rotating.run = none ∧ rotating.pow.state = .run ∧
    rotating.dawn.pinned = 0x3F ∧ rotatingPinned.cal.rotPending = true ∧ rotatingPinned.dawn.pinned ≠ 0x3F ∧ on.cal.rotPending = false ∧
    (doing rotating (job 0 [] .load)).run ≠ none ∧ (0 : Word).getLsbD 0 = false ∧ (1 : Word).getLsbD 0 = true ∧
    gives .laneRotation rotating (fun t => t.cal.spare = 0 ∧ t.cnt.value 60 = 1) = true := ⟨rfl, test_ok_on, by decide +kernel⟩
/-- The runs of assigned addresses, from the tables of 18_register_map. -/
def assignedRuns : List (Nat × Nat) :=
  [(0x0000, 0x0044), (0x0400, 0x0404), (0x0410, 0x041C), (0x0440, 0x0454), (0x0460, 0x0460), (0x0480, 0x0484),
   (0x0800, 0x0818), (0x0900, 0x0918), (0x0A00, 0x0A18), (0x0B00, 0x0B18), (0x0C00, 0x0C0C), (0x1000, 0x1008),
   (0x1010, 0x1018), (0x1020, 0x1024), (0x1400, 0x1410), (0x1800, 0x1800), (0x1880, 0x1A94), (0x2000, 0x2004),
   (0x2010, 0x2010), (0x2020, 0x2024), (0x2040, 0x2050), (0x2080, 0x2084), (0x2800, 0x2810), (0x3000, 0x3004),
   (0x3010, 0x3034), (0x3040, 0x3040), (0x3080, 0x3084), (0x3800, 0x3800), (0x3810, 0x3814)]
theorem test_PortAddressRules : on.Live ∧ (0x3FFF : BitVec 16).toNat % 4 ≠ 0 ∧ (0x0001 : BitVec 16).toNat % 4 ≠ 0 ∧
    (([0x0048, 0x081C, 0x1A98, 0x3FFC, 0x4000, 0xFFFC] : List (BitVec 16)).all fun a =>
      a.toNat % 4 = 0 && (assignedRuns.all fun p => a.toNat < p.1 || p.2 < a.toNat) && gives (.counterRead a) on (fun t => t.wires = [.reg 0 false])) = true ∧
    gives (.counterRead 0x0000) on (fun t => t.wires = [.reg 0x5542D703 false]) = true ∧
    gives (.counterRead 0x0440) { on with pair := { on.pair with mode := .solo, autoSolo := true, diverged := true } }
      (fun t => t.wires = [.reg 0x86 false]) = true ∧
    gives (.counterRead 0x0400) (dawnAt 9) (fun t => t.wires = [.reg 0x91 false]) = true := ⟨rfl, by decide +kernel⟩
/-- Queue 1 holds a suspended command. -/
def holding : State := withQueue on 1 fun x => { x with susp := some ⟨job 7 [] .load, 0x21, false, false⟩, ctxValid := true }
theorem test_PlainRegisterWrites : on.Live ∧ holding.Live ∧ { on with star := { on.star with enable := true } }.star.enable = true ∧ (holding.queue 1).susp ≠ none ∧
    (on.queue 1).susp = none ∧ (on.queue 1).enable = false ∧ on.anyEnabled = false ∧ 13 ≤ ((0xD0000000 : Word).extractLsb' 28 4).toNat ∧
    gives (.registerWrite 0x2810 0x800001F3) { on with star := { on.star with droops := 3, readBeats := 9 } }
      (fun t => t.star.enable ∧ t.star.period = 500 ∧ t.star.droops = 0 ∧ t.star.readBeats = 0) = true :=
  ⟨rfl, rfl, by decide +kernel⟩

theorem test_ScrubReadsOneUnit : on.Live ∧ on.Ok ∧ State.reset.clocked = false ∧ on.night.enable = true ∧ on.clocked = true ∧
    gives (.scrubUnit []) { on with night := { on.night with pos := 7423 } } (fun t => t.night.pos = 0 ∧ t.cnt.value 57 = 1) = true ∧
    gives (.scrubUnit [⟨false, 0, .corrected 79 none⟩]) on (fun t => t.night.writebacks = [0] ∧ t.star.corrected = 1) = true ∧
    gives (.scrubUnit [⟨false, 0, .uncorrectable 3⟩]) on (fun t => (t.arch.row 0 0).tag.poison = true) = true := ⟨rfl, test_ok_on, by decide +kernel⟩
/-- Units 32 and 3,072 wait for their write-back; the first is of bank 0, whose count is 255. -/
def writing : State := { on with night := { on.night with writebacks := [32, 3072], starved := [(0, 255)] } }
/-- Starlog is on, with a ring of 16 entries; then a record waits; then the ring is full. -/
def starOn : State := { on with star := { on.star with enable := true } }
def starWaits : State := { starOn with star := { starOn.star with waiting := some [1, 2] } }
def starFull : State := { starOn with star := { starOn.star with head := 15 } }
theorem test_BackgroundHousekeeping : on.Live ∧ writing.Live ∧ writing.Ok ∧ State.reset.Live ∧ State.reset.clocked = false ∧ on.night.writebacks = [] ∧
    writing.clocked = true ∧ writing.night.writebacks = 32 :: [3072] ∧ writing.night.enable = true ∧
    { on with night := { on.night with enable := false } }.night.enable = false ∧
    writing.night.writebacks.find? (fun u => u.toNat < 3072 && u.toNat % 32 = (0 : BitVec 5).toNat) = some 32 ∧
    (∀ u ∈ writing.night.writebacks, u.toNat < 3072 → u.toNat % 32 ≠ (31 : BitVec 5).toNat) ∧ starOn.star.waiting = none ∧ starWaits.star.waiting ≠ none ∧
    gives .scrubWriteback writing (fun t => t.night.writebacks = [3072] ∧ t.night.starved = []) = true ∧
    gives (.scrubStarvationGrant 0 false []) on (fun t => t.night.pos = 1) = true ∧ gives (.scrubStarvationGrant 31 false []) on (fun t => t.night.pos = 0) = true :=
  ⟨rfl, rfl, test_ok _ rfl rfl rfl rfl rfl ⟨rfl, rfl⟩ rfl rfl (by decide) rfl (by decide), rfl, by decide +kernel⟩
theorem test_CalibrationTrims : on.Live ∧ on.cal.enable = true ∧ on.pow.state = .run ∧ State.reset.pow.state ≠ .run ∧
    { on with cal := { on.cal with enable := false } }.cal.enable = false := ⟨rfl, by decide +kernel⟩
theorem test_StarlogRecords : starOn.Live ∧ on.star.enable = false ∧ starOn.star.enable = true ∧ starOn.pow.state = .run ∧ starOn.star.waiting = none ∧
    (starOn.star.head.toNat + 1) % starOn.star.base.entries ≠ starOn.star.tail.toNat ∧ starOn.pair.mode ≠ .lockstep ∧ starWaits.star.waiting ≠ none ∧
    (starFull.star.head.toNat + 1) % starFull.star.base.entries = starFull.star.tail.toNat ∧ mirrorB.pair.mode = .lockstep ∧ mirrorB.straps.twinSide = true :=
  ⟨rfl, by decide +kernel⟩
/-- The record's page is translated; a translated write of the command's waits too, which the record overtakes once promoted; a fenced
instance; twin B of LOCKSTEP. -/
def starReady : State := { starWaits with port := { starWaits.port with xlats := [⟨0, 1, 0x40, true⟩] } }
def starBusy : State := { starReady with port := { starReady.port with outbox := [plainBeat 0x100 32 0 0 0 0] } }
def starPromoted : State := { starBusy with star := { starBusy.star with promoted := true } }
def starB : State := { mirrorB with star := starWaits.star }
theorem test_StarlogWrites : starReady.Live ∧ starOn.star.waiting = none ∧ starB.star.waiting ≠ none ∧ starB.pair.mode = .lockstep ∧ starB.straps.twinSide = true ∧
    starReady.pair.mode ≠ .lockstep ∧ { starReady with pow := { starReady.pow with fence := true } }.pow.fence = true ∧ starBusy.star.promoted = false ∧
    starBusy.classWaits 0 = true ∧ starReady.star.waiting = some [1, 2] ∧ starReady.pow.fence = false ∧ starReady.clocked = true ∧ starPromoted.star.promoted = true ∧
    starReady.classWaits 0 = false ∧ starReady.classWaits 1 = false ∧ starReady.replyReady = false ∧
    starReady.port.translate ((starReady.star.base.addr + 64 * starReady.star.head.toNat) / 4096) true = some 0x40 ∧ lowestFree 64 starReady.writeTags = some 0 ∧
    gives .starlogRecordWrite starReady (fun t => t.star.head = 1 ∧ t.wires.length = 1) = true ∧
    gives .starlogRecordWrite starBusy (fun t => t.wires = []) = true ∧ gives .starlogRecordWrite starPromoted (fun t => t.wires.length = 1) = true :=
  ⟨rfl, by decide +kernel⟩

/-! ### Hypotheses, part two: pins, resets, Dawn and Dusk -/

/-- The same, FAILED. -/
def failedAt (k : BitVec 4) : State := { dawnAt k with pow := { (dawnAt k).pow with failed := true } }
theorem test_EnLevels : on.Live ∧ State.reset.Live ∧ State.reset.pow.state = .off ∧ (duskAt 0).pow.state = .dusk ∧ (dawnAt 0).pow.state = .dawn ∧ on.pow.state = .run ∧
    on.run = none ∧ (doing on (job 3 [] .passes)).run = some (job 3 [] .passes) ∧ (job 3 [] .passes).stolen = none ∧
    (dawnAt 0).pow.failed = false ∧ (failedAt 1).pow.failed = true := ⟨rfl, rfl, by decide +kernel⟩
/-- The latch is set. -/
def latched : State := { on with pow := { on.pow with preempt := true } }
theorem test_PreemptRequests : on.Live ∧ latched.Live ∧ latched.pow.preempt = true ∧ on.pow.preempt = false ∧ on.run = none ∧ mirrorB.pair.mode = .lockstep ∧
    mirrorB.straps.twinSide = true ∧ leadA.pair.mode = .lockstep ∧ leadA.straps.twinSide = false ∧ on.pair.mode ≠ .lockstep ∧
    gives .preemptReq (doing on (job 3 [] .passes)) (fun t => t.pow.preempt) = true ∧ gives .preemptReq (doing on (job 0 [] .load)) (fun t => !t.pow.preempt) = true ∧
    gives .preemptReq (doing on (job 3 [] (.saving true))) (fun t => t.pow.preemptKeep) = true ∧
    gives .preemptReq (doing on (job 3 [] (.trailer false))) (fun t => !t.pow.preempt) = true := ⟨rfl, rfl, by decide +kernel⟩
/-- A CHAIN_RUN over 64 rows and 32 columns, of which band 0 has begun, and a thief's band of it. -/
def matrix (base fmt rows cols pitch : Nat) : List Word :=
  words ([base, 0, 1, fmt <<< 28 + 1 <<< 24] ++ List.replicate 8 0 ++ [cols, cols, 0, 1, 1 <<< 28, rows, rows, 0, pitch, 1 <<< 28] ++ List.replicate 10 0)
def twoBands : Running := { job 3 [0, 0, 0, 0x02000000, 0] .passes with
  descs := [matrix 0x1000 0 64 32 128, matrix 0x8000 0 64 32 128], image := addImage }
def stolenBand : Running := { twoBands with stolen := some 1 }
theorem test_FencePin : on.Live ∧ on.run = none ∧ (doing on twoBands).run = some twoBands ∧ twoBands.stolen = none ∧
    (doing on stolenBand).run = some stolenBand ∧ stolenBand.stolen = some 1 ∧
    gives .fenceRise (doing on twoBands) (fun t => t.pow.fenceStop) = true ∧ gives .fenceRise (doing on stolenBand) (fun t => t.run = none) = true :=
  ⟨rfl, by decide +kernel⟩
/-- D4 waits; its pulse has come; it came too late. -/
def syncWaits : State := { dawnAt 4 with pow := { (dawnAt 4).pow with syncWait := true } }
def syncCame : State := { dawnAt 4 with pow := { (dawnAt 4).pow with syncPassed := true } }
def syncLost : State := { dawnAt 4 with pow := { (dawnAt 4).pow with syncFailed := true } }
theorem test_SyncAndThrottle : syncWaits.Live ∧ syncWaits.pow.failed = false ∧ syncWaits.pow.syncWait = true ∧ on.pow.syncWait = false ∧ on.pow.failed = false ∧
    (failedAt 4).pow.failed = true ∧ (failedAt 4).pow.syncWait = false ∧ syncWaits.pow.state = .dawn ∧ syncWaits.pow.step = 4 ∧ syncCame.pow.syncPassed = true ∧
    on.pow.state ≠ .dawn ∧ (dawnAt 3).pow.step ≠ 4 ∧ (dawnAt 5).pow.step ≠ 4 ∧ gives .syncInPulse (failedAt 4) (fun t => t.cnt.value 62 = 1) = true :=
  ⟨rfl, by decide +kernel⟩

theorem test_ResetsLeave : State.reset.Live ∧ State.reset.pow.en = false ∧ { dawnAt 9 with pow := { (dawnAt 9).pow with en := false } }.pow.en = false :=
  ⟨rfl, by decide +kernel⟩
theorem test_ResetWithEnStartsDawn : on.Live ∧ on.pow.en = true ∧ (dawnAt 9).pow.en = true := ⟨rfl, by decide +kernel⟩
/-- D5 with an image of one line at 0x1000, which is here, or not; and marked; and with a fault. -/
def imageAt (s : State) : State := { s with dawn := { s.dawn with fwLo := 0x1000, fwValid := true } }
def imageHere : State := imageAt (holdingWords (dawnAt 5) 7 0x1000 [1])
def marked (k : Nat) (s : State) : State := { s with dawn := { s.dawn with steps := [(k, ⟨true, 0, 0, 0⟩)] } }
def imageFaults : State := imageAt { dawnAt 5 with port := { (dawnAt 5).port with faults := [⟨7, 0x1000, 0, 0xFF⟩] } }
theorem test_ok_dawn (k : BitVec 4) : (dawnAt k).Ok := test_ok _ rfl rfl rfl rfl rfl ⟨rfl, rfl⟩ rfl rfl (by show (0 : Nat) < _; decide) rfl rfl
theorem test_DawnEarlySteps : (dawnAt 1).Live ∧ (dawnAt 3).Ok ∧ on.pow.state ≠ .dawn ∧ (failedAt 1).pow.failed = true ∧ (dawnAt 1).pow.state = .dawn ∧
    (dawnAt 1).pow.failed = false ∧ (dawnAt 1).pow.step = 1 ∧ { outcome none with memoryOk := false }.memoryOk = false ∧ (dawnAt 0).pow.step = 0 ∧
    (dawnAt 2).pow.step = 2 ∧ (outcome none).memoryOk = true ∧ (dawnAt 3).pow.step = 3 ∧ (dawnAt 4).pow.step = 4 ∧ syncWaits.pow.syncPassed = false ∧
    syncWaits.pow.syncFailed = false ∧ syncCame.pow.syncPassed = true ∧ syncLost.pow.syncFailed = true ∧ (dawnAt 4).pow.syncWait = false ∧
    gives (.dawnSequence (outcome none)) syncLost (fun t => t.pow.step = 5 ∧ sget {} t.dawn.steps 4 = ⟨true, 1, 1, 2⟩) = true := ⟨rfl, test_ok_dawn 3, by decide +kernel⟩
theorem test_DawnEarlySteps_image : imageHere.Ok ∧ imageHere.pow.step = 5 ∧ imageHere.marked 5 = false ∧ imageHere.dawn.fwValid = true ∧
    waits ((imageAt (dawnAt 5)).ask 7 0 0 ((imageAt (dawnAt 5)).dawn.imageLines 1)) = true ∧
    readyWith (imageHere.ask 7 0 0 (imageHere.dawn.imageLines ((outcome none).imageLines.toNat + 1))) (fun _ ls => ls.all fun l => !l.2.poison) = true ∧
    (outcome none).firmware = some 1 ∧ (marked 5 (dawnAt 5)).marked 5 = true ∧ (dawnAt 5).dawn.fwValid = false ∧ imageFaults.port.faultOf 7 = some ⟨7, 0x1000, 0, 0xFF⟩ ∧
    gives (.dawnSequence (outcome none)) imageHere (fun t => t.pow.step = 6 ∧ t.pow.fwVersion = 1 ∧ t.port.buf = []) = true ∧
    gives (.dawnSequence { outcome none with firmware := none }) imageHere (fun t => t.pow.fwRom ∧ sget {} t.dawn.steps 5 = ⟨true, 1, 1, 2⟩) = true :=
  ⟨test_ok _ rfl rfl rfl rfl rfl ⟨rfl, rfl⟩ rfl rfl (by decide) rfl rfl, by decide +kernel⟩
/-- D7 with a lane record, and with a pinned column. -/
def recorded : State := { dawnAt 7 with dawn := { (dawnAt 7).dawn with laneValid := true } }
def pinned : State := { dawnAt 7 with dawn := { (dawnAt 7).dawn with pinned := 32 } }
theorem test_DawnLaneSteps : (dawnAt 6).Live ∧ (dawnAt 6).Ok ∧ (dawnAt 6).pow.state = .dawn ∧ (dawnAt 6).pow.failed = false ∧ (dawnAt 6).pow.step = 6 ∧
    (outcome none).failedColumn = none ∧ (outcome (some 32)).failedColumn = some 32 ∧ (outcome (some 32)).retryPasses = true ∧
    { outcome (some 0) with retryPasses := false }.retryPasses = false ∧ recorded.pow.step = 7 ∧ (marked 7 (dawnAt 7)).marked 7 = true ∧ recorded.marked 7 = false ∧
    recorded.dawn.pinned = 0x3F ∧ (dawnAt 7).dawn.laneValid = false ∧ recorded.dawn.laneValid = true ∧ (outcome none).laneParityOk = true ∧
    { outcome none with laneParityOk := false }.laneParityOk = false ∧ pinned.marked 7 = false ∧ pinned.dawn.pinned ≠ 0x3F ∧ (dawnAt 8).pow.step = 8 ∧
    (marked 8 (dawnAt 8)).marked 8 = true ∧ (dawnAt 8).marked 8 = false ∧ (outcome none).trimOk = true ∧ { outcome none with trimOk := false }.trimOk = false ∧
    gives (.dawnSequence (outcome none)) recorded (fun t => t.cal.spare = 0 ∧ t.dawn.savedSpare = 0) = true := ⟨rfl, test_ok_dawn 6, by decide +kernel⟩
/-- D9 with a DAWN of queue 3 latched in Dusk, and with a sleep latched. -/
def dawnLatched : State := { dawnAt 9 with pow := { (dawnAt 9).pow with latchedDawn := [(3, words [0x13000000, 4])] } }
theorem test_DawnCompletes : (dawnAt 9).Live ∧ (dawnAt 9).pow.state = .dawn ∧ (dawnAt 9).pow.failed = false ∧ (dawnAt 9).pow.step = 9 ∧ (dawnAt 9).pow.en = true ∧
    (dawnAt 9).pow.sleepLatched = false ∧ (dawnAt 9).pow.latchedDawn = [] ∧ (dawnAt 9).ring.owed = [] ∧ (dawnAt 9).run = none ∧
    dawnLatched.pow.latchedDawn = [(3, words [0x13000000, 4])] ∧ dawnLatched.ring.owed = [] ∧ dawnLatched.ring.waiting = [] ∧
    { dawnAt 9 with pow := { (dawnAt 9).pow with sleepLatched := true } }.pow.sleepLatched = true ∧
    gives (.dawnSequence (outcome none)) dawnLatched (fun t => t.ring.waiting.length = 1 ∧ (t.queue 3).newest = some 4) = true ∧
    gives (.dawnSequence (outcome none)) { dawnAt 9 with pow := { (dawnAt 9).pow with en := false } } (fun t => t.pow.state = .dusk) = true := ⟨rfl, by decide +kernel⟩
/-- Dusk with the DUSK command's reply to write; with a Starlog record, and fenced; with a head packet whose line is on its way. -/
def duskReply : State := { duskAt 2 with pow := { (duskAt 2).pow with duskCommand := some (1, words [0x12000000, 9]) } }
def duskStar : State := { duskAt 1 with star := starWaits.star, pow := { (duskAt 1).pow with fence := true } }
def duskReads : State := withQueue (duskAt 0) 2 fun x => { x with enable := true, tail := 1 }
theorem test_DuskSteps : (duskAt 0).Live ∧ on.pow.state ≠ .dusk ∧ (duskAt 0).pow.state = .dusk ∧ (duskAt 0).pow.duskStep = 0 ∧
    (doing (duskAt 0) (job 3 [] .passes)).run = some (job 3 [] .passes) ∧ (job 3 [] .passes).final = none ∧ duskReads.headsUnread = true ∧
    (duskAt 0).run = none ∧ (duskAt 0).headsUnread = false ∧ (duskAt 1).pow.duskStep = 1 ∧ (duskAt 1).star.waiting = none ∧
    duskStar.star.waiting ≠ none ∧ duskStar.pow.fence = true ∧ { duskStar with star := { starFull.star with waiting := some [] } }.star.full = true ∧
    (duskAt 2).pow.duskStep = 2 ∧ { duskAt 2 with port := { (duskAt 2).port with writes := [⟨0, 0, 5⟩] } }.quiet = false ∧ duskReply.quiet = true ∧
    duskReply.pow.duskStep = 2 ∧ duskReply.pow.duskCommand = some (1, words [0x12000000, 9]) ∧ duskReply.pair.mode ≠ .lockstep ∧ (duskAt 3).pow.duskStep = 3 ∧
    (duskAt 3).quiet = true ∧ (duskAt 3).pow.wakeLatched = false ∧ { duskAt 3 with pow := { (duskAt 3).pow with wakeLatched := true } }.pow.wakeLatched = true ∧
    gives .duskSequence duskStar (fun t => t.pow.duskStep = 2 ∧ t.star.dropped = 1) = true := ⟨rfl, by decide +kernel⟩

/-! ### Hypotheses, part three: the ports and the pair -/

/-- One read of the command, one of nobody any more, one write, and one translation of each owner are in flight; 64 are kept. -/
def busyPort : State := { on with port := { on.port with
  reads := [⟨127, 0, 9, 3⟩, ⟨5, 15, 8, 0⟩], writes := [⟨63, 0, 7⟩]
  atps := [⟨0, 0, 4, 0, 1, 0x4080⟩, ⟨1, 4, 6, 3, 0xFF, 0x6000⟩, ⟨2, 7, 6, 3, 0xFF, 0x6000⟩, ⟨3, 15, 7, 0, 0xFF, 0x7000⟩, ⟨4, 6, 7, 1, 0xFF, 0x7000⟩,
    ⟨63, 5, 8, 1, 0xFF, 0x8000⟩] } }
def keepsMany : State := { busyPort with port := { busyPort.port with xlats := (List.range 64).map fun k => ⟨100 + k, 1, k, false⟩ } }
theorem test_StrayTransfers : on.Live ∧ (∀ r ∈ busyPort.port.reads, r.tag ≠ 126) ∧ (∀ w ∈ busyPort.port.writes, w.tag ≠ 0) ∧
    (∀ a ∈ busyPort.port.atps, a.id ≠ 5) := ⟨rfl, by decide⟩
theorem test_LinesAndResponses : busyPort.Live ∧ busyPort.port.reads.find? (fun r => r.tag = 127) = some ⟨127, 0, 9, 3⟩ ∧
    busyPort.port.reads.find? (fun r => r.tag = 5) = some ⟨5, 15, 8, 0⟩ ∧ busyPort.pair.mode ≠ .lockstep ∧ (⟨63, 0, 7⟩ : WriteReq) ∈ busyPort.port.writes ∧
    gives (.memReadData 127 0 5 0 0 false) busyPort (fun t => t.port.buf = [(0, 9, ⟨5, 0, 0, false⟩)] ∧ t.star.readBeats = 1) = true :=
  ⟨rfl, by decide +kernel⟩
theorem test_TranslationResponses : busyPort.Live ∧ busyPort.port.atps.find? (fun a => a.id = 0) = some ⟨0, 0, 4, 0, 1, 0x4080⟩ ∧ (0 : Nat) ≠ 15 ∧ (0 : Nat) < 5 ∧
    busyPort.port.atps.find? (fun a => a.id = 1) = some ⟨1, 4, 6, 3, 0xFF, 0x6000⟩ ∧ (4 : Nat) < 5 ∧
    busyPort.port.atps.find? (fun a => a.id = 2) = some ⟨2, 7, 6, 3, 0xFF, 0x6000⟩ ∧ busyPort.port.atps.find? (fun a => a.id = 3) = some ⟨3, 15, 7, 0, 0xFF, 0x7000⟩ ∧
    busyPort.port.atps.find? (fun a => a.id = 4) = some ⟨4, 6, 7, 1, 0xFF, 0x7000⟩ ∧
    busyPort.port.atps.find? (fun a => a.id = 63) = some ⟨63, 5, 8, 1, 0xFF, 0x8000⟩ ∧
    gives (.atpResponse 0 0x77 1 false) busyPort (fun t => t.port.xlats = [⟨0, 16, 0x70, false⟩]) = true ∧
    gives (.atpResponse 0 0x77 3 false) keepsMany (fun t => t.port.xlats.length = 64 ∧ t.port.xlats.getLast? = some ⟨0, 262144, 0, false⟩) = true :=
  ⟨rfl, by decide +kernel⟩

/-- A PRODUCT_RUN that waits for its drain, and holds the token; the seven beats before the last of its first sub-tile have landed. -/
def product (st : Stage) : Running := { job 4 [0, 0, 0, 0x0A000000, 0x03F00000] st with descs := List.replicate 10 (matrix 0x1000 1 64 64 128) }
def almostWhole : Running := { product .draining with prod := { (product .draining).prod with
  seen := 0x7F, landed := (List.range 7).map fun k => (k, ⟨0, false, false, false⟩) } }
/-- The core's geometry: 64 by 64. -/
def array : State := { on with straps := ⟨1, false, 0x3C50, 0⟩, pair := { on.pair with token := true, request := true } }
/-- The header of beat `k` of sub-tile 0 of the drain that `product` awaits. -/
def headerOf (k : Nat) : BitVec 64 := BitVec.ofNat 64 (k <<< 15)
/-- The drain of `product` in that geometry. -/
def productDrain : Drain := ((product .draining).prodSeg (geomOf 0x3C50)).drain (product .draining)
theorem test_DrainBeats : array.Live ∧ on.run = none ∧ on.pair.token = false ∧ working (doing array (product .draining)) (product .draining) 4 = true ∧
    array.pair.token = true ∧ array.pair.mode ≠ .lockstep ∧ (product .load).stage ≠ .draining ∧ productDrain.accept 0 (drnHdr (BitVec.ofNat 64 (1 <<< 18))) = none ∧
    productDrain.accept 0 (drnHdr (headerOf 0)) = some 0 ∧ bit (product .draining).prod.resolved 0 = false ∧
    ((product .draining).prod.land 0 (drnHdr (headerOf 0)) 0).whole 0 = none ∧ productDrain.accept almostWhole.prod.seen (drnHdr (headerOf 7)) = some 0 ∧
    (((almostWhole.prod.land 0 (drnHdr (headerOf 7)) 0).whole 0).map fun bs => bs.all fun b => !b.ovf) = some true ∧ almostWhole.prod.kseg = 0 ∧
    productDrain.complete (almostWhole.prod.land 0 (drnHdr (headerOf 7)) 0).seen = false := ⟨rfl, by decide +kernel⟩

/-- The sideband of a pair beat of a kind with a header and a check, and of one whose check is that of its zero line. -/
def kindBeat (k hdr : Nat) (c : Word) : BitVec 112 := sideband k hdr c false 0
/-- A PAIR_MODE of a mode, as it waits for its partner, or for the copy. -/
def modeJob (m : Nat) (st : Stage) : Running := job 0xC [0, 0, 0, 0, m] st
def joiningB : State := doing onB { modeJob 1 .waiting with why := 1 }
def solo : State := { on with pair := { on.pair with mode := .solo } }
def failed : State := { on with pow := { on.pow with failed := true } }
def claimedBand : Running := { twoBands with claimed := [1] }
theorem test_PairChannel : on.Live ∧ failed.pow.failed = true ∧ on.pow.failed = false ∧ solo.pair.mode = .solo ∧ solo.run = none ∧
    (doing solo (job 3 [] .passes)).run = some (job 3 [] .passes) ∧ (job 3 [] .passes).op ≠ 0x0C ∧ on.pair.mode ≠ .solo ∧
    6 ≤ ((kindBeat 6 0 0).extractLsb' 108 4).toNat ∧ ((kindBeat 1 0 0).extractLsb' 108 4).toNat < 2 ∧ on.pair.mode ≠ .lockstep ∧ mirrorB.pair.mode = .lockstep ∧
    mirrorB.straps.twinSide = true ∧ ((kindBeat 0 0 0).extractLsb' 108 4).toNat = 0 ∧ ((kindBeat 1 0 0).extractLsb' 108 4).toNat = 1 ∧
    [2, 3, 4, 5] = [2, 3, 4, 5].map (fun k => ((kindBeat k 0 0).extractLsb' 108 4).toNat) ∧ on.straps.twinSide = false ∧ onB.joining = none ∧
    joiningB.straps.twinSide = true ∧ joiningB.joining = some { modeJob 1 .waiting with why := 1 } ∧ (modeJob 1 .waiting).stolen = none ∧
    copyBad 0 0 (rowCheck 0 + 1) false = true ∧ copyBad 0 0 (rowCheck 0) false = false ∧ (0 : Nat) % 2 ^ 16 ≠ 7583 ∧
    (doing on stolenBand).run = some stolenBand ∧ stolenBand.stolen = some 1 ∧ rowCheck 0 + 1 ≠ rowCheck (0 : Line) ∧
    ((kindBeat 4 (3 + 256) 0).extractLsb' 44 64).toNat = 3 + 256 * 1 ∧ (doing on claimedBand).run = some claimedBand ∧ claimedBand.claimed.contains 1 = true ∧
    ((kindBeat 4 4 0).extractLsb' 44 64).toNat % 256 = 4 ∧ ((kindBeat 4 6 0).extractLsb' 44 64).toNat % 256 = 6 ∧ on.run = none ∧
    ((kindBeat 4 (9 + 256) 0).extractLsb' 44 64).toNat = 9 + 256 * 1 ∧ bits 7 16 16 + 1 < 7 % 2 ^ 16 ∧ on.pair.tx = [] ∧
    { on with pair := { on.pair with tx := [(0, kindBeat 0 0 0)], credits := 0 } }.pair.credits = 0 := ⟨rfl, by decide +kernel⟩
theorem test_PairChannel_results :
    gives (.pairDataBeat 0 (kindBeat 3 0 (rowCheck 0 + 1))) (doing on stolenBand) (fun t => t.run = none ∧ t.cnt.value 52 = 1 ∧ t.err.status = 8) = true ∧
    gives (.pairDataBeat 0 (kindBeat 4 (3 + 256) 0)) (doing on claimedBand) (fun t => t.cnt.value 49 = 1 ∧ (t.run.map (·.claimed)) = some []) = true ∧
    gives (.pairDataBeat 0 (kindBeat 4 6 0)) leadA (fun t => t.pair.mode = .split ∧ t.pair.diverged) = true := by decide +kernel

/-- A beat of the command's data, and one of a reply, that A holds for its check. -/
def heldBeat (owner : Nat) : WriteBeat := ⟨4, 0, BitVec.allOnes 128, 0, 0, false, 0, 0, owner⟩
def heldA (owner : Nat) : State := { leadA with pair := { leadA.pair with held := [(heldBeat owner, 3, 0x100)] } }
/-- One final reply, and an interim one, of queue 2. -/
def oneReply : Reply := replyOf 2 0 7 true { status := 0 }
def interimReply : Reply := replyOf 2 7 7 true { status := 0x21, interim := true }
/-- The held beat is that of the interim reply of queue 2's suspended command; no command executes. -/
def heldInterim : State := withQueue { heldA 5 with ring := { (heldA 5).ring with waiting := [interimReply], issued := true } } 2 fun x =>
  { x with susp := some ⟨job 7 [] .load, 0x21, false, false⟩ }
def copying : State := doing (heldA 0) (job 7 [] (.commit true))
theorem test_EqualChecksWrite : (heldA 0).Live ∧ on.pair.mode ≠ .lockstep ∧ mirrorB.straps.twinSide = true ∧ (heldA 0).pair.mode = .lockstep ∧
    (heldA 0).straps.twinSide = false ∧ leadA.pair.held = [] ∧ (heldA 5).pair.held = [(heldBeat 5, 3, 0x100)] ∧ (heldA 0).pair.checks = [] ∧ (heldBeat 0).owner ≠ 5 ∧
    (heldBeat 5).owner = 5 ∧ gives (.pairCheck (beatCheck 0 (BitVec.allOnes 128))) (heldA 0) (fun t => t.pair.held = [] ∧ t.wires.length = 1) = true ∧
    gives (.pairCheck (beatCheck 0 (BitVec.allOnes 128))) heldInterim (fun t => t.ring.waiting = [] ∧ t.ring.head = 1 ∧ t.ring.serial = 1) = true :=
  ⟨rfl, by decide +kernel⟩
theorem test_UnequalChecksDiverge : copying.Live ∧ working copying (job 7 [] (.commit true)) 7 = true ∧ (job 7 [] (.commit true)).claimed = [] ∧
    (heldBeat 0).owner ≠ 5 ∧ (beatCheck 0 (BitVec.allOnes 128) + 1) ≠ beatCheck (heldBeat 0).data (heldBeat 0).ben ∧ heldInterim.pair.mode = .lockstep ∧
    heldInterim.straps.twinSide = false ∧ heldInterim.pair.held = [(heldBeat 5, 3, 0x100)] ∧ heldInterim.pair.checks = [] ∧ heldInterim.ring.waiting = [interimReply] ∧
    (heldA 0).run = none ∧ copying.ring.waiting = [] ∧
    gives (.pairCheck (beatCheck 0 (BitVec.allOnes 128) + 1)) copying (fun t => t.run = none ∧ t.pair.mode = .split ∧ t.wires.length = 1 ∧
      t.ring.waiting = [(job 7 [] (.commit true)).reply { status := 0x34 }]) = true ∧
    gives .lockstepCheckTimeout heldInterim (fun t => t.ring.waiting = [divergedReply interimReply] ∧ (t.queue 2).susp = none ∧ t.pair.diverge.w2 = 7) = true ∧
    gives .lockstepCheckTimeout (heldA 0) (fun t => t.run = none ∧ t.ring.waiting = []) = true := ⟨rfl, by decide +kernel⟩
def mirroredRun : Running := { job 7 [] .load with mirror := true }
theorem test_PartnerPresence : on.Live ∧ on.pair.mode = .split ∧ leadA.pair.mode ≠ .split ∧ (∀ h ∈ (heldA 0).pair.held, h.1.owner ≠ 5) ∧ on.run = none ∧
    (doing on stolenBand).run = some stolenBand ∧ stolenBand.stolen = some 1 ∧ (doing mirrorB mirroredRun).pair.mode = .lockstep ∧
    (doing mirrorB mirroredRun).straps.twinSide = true ∧ mirroredRun.mirror = true ∧ twoBands.stolen = none ∧ twoBands.mirror = false ∧ twoBands.claimed = [] ∧
    claimedBand.claimed = [1] ∧
    gives (.pairAliveChange .detached) (doing mirrorB mirroredRun) (fun t => t.run = none ∧ t.pair.mode = .solo ∧ t.pair.autoSolo) = true ∧
    gives (.pairAliveChange .detached) copying (fun t => t.run = copying.run ∧ t.pair.mode = .solo ∧ t.port.writes.length = 1 ∧ t.wires.length = 1) = true ∧
    gives (.pairAliveChange .failed) (doing on claimedBand) (fun t => t.cnt.value 49 = 1 ∧ (t.run.map (·.claimed)) = some [] ∧ t.pair.mode = .solo) = true ∧
    gives (.pairAliveChange .detached) (doing on stolenBand) (fun t => t.run = none ∧ t.pair.mode = .split) = true := ⟨rfl, by decide +kernel⟩

/-- Twin B waits for the token, or has withdrawn its request. -/
def askingB : State := { onB with pair := { onB.pair with request := true } }
/-- Twin A has granted the token, and twin B holds it. -/
def granted : State := { on with pair := { on.pair with grant := true, partnerHeld := true } }
/-- A twin holds the token before a segment, and its partner goes first. -/
def yielding : State := doing { array with pair := { array.pair with partnerReq := true, partnerQueue := 0 } } (product .token)
def yieldingB : State := { yielding with straps := ⟨1, true, 0x3C50, 0⟩, pair := { yielding.pair with releaseSeen := true } }
theorem test_ArrayToken : on.Live ∧ solo.pair.mode = .solo ∧ failed.pow.failed = true ∧ on.pair.mode = .split ∧ on.pow.failed = false ∧ on.straps.twinSide = false ∧
    on.pair.token = false ∧ on.pair.request = false ∧ on.pair.grant = false ∧ on.pair.partnerHeld = false ∧ (0x8 : BitVec 4).getLsbD 3 = true ∧
    (0x8 : BitVec 4).getLsbD 2 = false ∧ granted.pair.grant = true ∧ granted.pair.partnerHeld = true ∧ askingB.straps.twinSide = true ∧ askingB.pair.request = true ∧
    onB.pair.request = false ∧ askingB.pair.token = false ∧ askingB.pair.grantUsed = false ∧ (0x2 : BitVec 2).getLsbD 1 = true ∧ yielding.run = some (product .token) ∧
    (product .token).stage = .token ∧ yielding.pair.mode = .split ∧ yielding.pair.partner = .attached ∧ yielding.straps.twinSide = false ∧ yielding.pair.token = true ∧
    yielding.pair.partnerReq = true ∧ yielding.pair.partnerQueue.toNat < (product .token).queue.toNat ∧ yieldingB.straps.twinSide = true ∧
    yieldingB.pair.releaseSeen = true ∧ on.run = none ∧ gives (.pairTokenSignal 0x8 0) on (fun t => t.pair.grant) = true ∧
    gives (.pairTokenSignal 0 2) askingB (fun t => t.pair.token) = true ∧ gives (.pairTokenSignal 0 2) onB (fun t => !t.pair.token ∧ t.pair.grantUsed) = true ∧
    gives .tokenHandover yielding (fun t => !t.pair.token ∧ t.pair.grant) = true ∧ gives .tokenHandover yieldingB (fun t => !t.pair.token) = true :=
  ⟨rfl, by decide +kernel⟩
/-- The last line of the copy, a row never written, and twin A's word that it has arrived. -/
def lastLine : BitVec 112 := kindBeat 2 7583 0
theorem test_JointModeChanges : (doing on (modeJob 4 .waiting)).Live ∧ working (doing on (modeJob 4 .waiting)) (modeJob 4 .waiting) 0xC = true ∧
    (modeJob 4 .waiting).stage = .waiting ∧ (modeJob 4 .waiting).why = 0 ∧ pf (modeJob 4 .waiting).ws 6 0 2 = 0 ∧ on.ring.waiting = [] ∧
    pf (modeJob 1 .waiting).ws 6 0 2 = 1 ∧ onB.straps.twinSide = true ∧ on.straps.twinSide = false ∧ on.pair.mode = .split ∧ on.pow.failed = false ∧
    working joiningB { modeJob 1 .waiting with why := 1 } 0xC = true ∧ lastLine.extractLsb' 108 4 = 2 ∧ (lastLine.extractLsb' 44 64).toNat % 2 ^ 16 = 7583 ∧
    copyBad (lastLine.extractLsb' 44 64).toNat 0 (lastLine.extractLsb' 12 32) (lastLine.getLsbD 11) = false ∧ (kindBeat 4 10 0).extractLsb' 108 4 = 4 ∧
    ((kindBeat 4 10 0).extractLsb' 44 64).toNat % 256 = 10 ∧ on.run = none ∧
    { on with pair := { on.pair with entering := true }, ring := { on.ring with waiting := [oneReply] } }.pair.entering = true ∧
    gives (.pairModeJoin 0 []) (doing on (modeJob 4 .waiting)) (fun t => t.run = none ∧ t.pair.stealing ∧ t.ring.waiting.length = 1) = true ∧
    gives (.pairDataBeat 0 lastLine) joiningB (fun t => t.run = none ∧ t.pair.entering ∧ t.arch = joiningB.arch) = true ∧
    gives .pairModeTimeout (doing on (modeJob 4 .waiting)) (fun t => t.cnt.value 16 = 1 ∧ t.pair.mode = .split) = true := ⟨rfl, by decide +kernel⟩

/-- A twin that may steal: it holds the offered program. -/
def thief : State := { on with
  arch := stored, pair := { on.pair with stealing := true } }
def offer : StealOffer := ⟨5, 0, w32 (progOf (nats (thief.arch.image ⟨0, 0, 1, false⟩))).crc, false, 7⟩
theorem test_BandClaims : thief.Live ∧ thief.maySteal offer = true ∧ on.pair.stealing = false ∧ leadA.pair.mode ≠ .split ∧ failed.pow.failed = true ∧
    on.pair.mode = .split ∧ on.pow.failed = false ∧ on.run = none ∧ (job 0 [] .load).stealable = false ∧ claimedBand.claimed ≠ [] ∧ twoBands.unbegun 0 = false ∧
    twoBands.stealable = true ∧ twoBands.claimed = [] ∧ ((List.range (twoBands.bandCount (geomOf array.straps.mxaGeom))).filter twoBands.unbegun).getLast? = some 1 ∧
    gives (.stealClaim 1) (doing on twoBands) (fun t => (t.run.map (·.claimed)) = some [1] ∧ t.wires.length = 3) = true :=
  ⟨rfl, by decide +kernel⟩
theorem test_StolenBandsReported : on.Live ∧ on.run = none ∧ claimedBand.claimed.contains 1 = true ∧ twoBands.claimed.contains 1 = false ∧
    claimedBand.op = 3 ∧ twoBands.meridian = false ∧ { claimedBand with fallback := true }.meridian = true ∧ { job 5 [] .load with claimed := [1] }.op = 5 ∧
    gives (.stealBandDone ⟨1, [], none, [], []⟩) (doing on claimedBand) (fun t => t.cnt.value 48 = 1 ∧ (t.run.map (·.reports.length)) = some 1) = true :=
  ⟨rfl, by decide +kernel⟩

/-! ### Hypotheses, part four: the sequencer and the commands -/

/-- The begin checks refuse with a status other than 0x15, or pass. -/
def checked (x : Except (Nat × Nat × Nat) Bool) (pass : Bool) : Bool :=
  match x with
  | .error (st, _, _) => !pass && st != 0x15
  | .ok _ => pass
/-- Queue 2 has one packet, at line 0x20; its page is translated; a context write of the command's goes first. -/
def queued : State := withQueue on 2 fun x => { x with enable := true, tail := 1, base := { x.base with lo := 1 } }
def queuedXlat : State := { queued with port := { queued.port with xlats := [⟨1, 1, 0x55, true⟩] } }
def outranked : State := { queuedXlat with port := { queuedXlat.port with outbox := [plainBeat 0x1080 32 0 1 0 0] } }
def asked : State := { queuedXlat with port := { queuedXlat.port with reads := [⟨0, 3, 0x20, 0⟩] } }
/-- A NOP, a COPY with two descriptors, and an undefined opcode. -/
def nopPacket : List Nat := [0, 7, 0, 0, 0, 0, 0, 0, 0, 0, 0, 0, 0, 0, 0, 0]
def copyPacket : List Nat := [0x07000000, 7, 0, 0, 0x6000, 0x02000000, 0, 0, 0, 0, 0, 0, 0, 0, 0, 0]
def oddPacket : List Nat := [0x14000000, 9, 0, 0, 0, 0, 0, 0, 0, 0, 0, 0, 0, 0, 0, 0]
theorem test_PacketFetches_issue : queued.Live ∧ on.mayFetch 2 = false ∧
    ((withQueue on 2 fun x => { x with fetch := .ready (words nopPacket) [] }).queue 2).fetch = .ready (words nopPacket) [] ∧
    queued.mayFetch 2 = true ∧ (queued.queue 2).fetch = .idle ∧ queued.port.faultOf 3 = none ∧ (queued.queue 2).packetAddr = 0x1000 ∧
    queued.port.line? 3 0x20 = none ∧ queued.port.reads.any (fun r => r.owner = 3 && r.vline = 0x20) = false ∧
    asked.port.reads.any (fun r => r.owner = 3 && r.vline = 0x20) = true ∧ queued.port.translate 1 false = none ∧
    queued.port.atps.any (fun x => x.page = 1 && x.kind = 3 && x.owner = 3) = false ∧ lowestFree 64 (queued.port.atps.map (fun x => x.id.toNat)) = some 0 ∧
    outranked.port.translate 1 false ≠ none ∧ outranked.mayIssue 0 = false ∧
    queuedXlat.port.translate 1 false = some 0x55 ∧ queuedXlat.mayIssue 0 = true ∧ queuedXlat.port.line? 3 0x20 = none ∧
    queuedXlat.port.writes.any (fun w => w.line = physLine 0x55 0x20) = false ∧ queuedXlat.port.reads.length < 120 ∧
    lowestFree 128 (queuedXlat.port.reads.map (fun r => r.tag.toNat)) = some 0 ∧
    gives (.packetFetch 2) queuedXlat (fun t => t.wires = [.readReq 0 (physLine 0x55 0x20) 0 0]) = true ∧
    gives (.packetFetch 2) outranked (fun t => t.wires = [] ∧ t.port.wants = [⟨3, 0, 0x20⟩]) = true := ⟨rfl, by decide +kernel⟩
/-- The packet's line is here; or poisoned. -/
def arrived (ws : List Nat) : State := holdingWords queued 3 0x1000 ws
def arrivedBad : State := { queued with port := { queued.port with buf := [(3, 0x20, ⟨0, 0, 0, true⟩)] } }
/-- It is here, and its tag has been answered. -/
def answered : State := withQueue (arrived nopPacket) 2 fun x => { x with window := [⟨7, [1, 7]⟩] }
theorem test_PacketFetches_checks : (arrived nopPacket).Live ∧
    (((arrived nopPacket).port.line? 3 0x20).map fun l => (l.poison, lineWords l 0 16)) = some (false, nopPacket) ∧
    (arrived nopPacket).packetChecks 2 nopPacket = .ready (words nopPacket) [] ∧ (arrived copyPacket).packetChecks 2 copyPacket = .table (words copyPacket) ∧
    answered.unfinished 2 7 = false ∧ answered.ring.waiting = [] ∧ answered.pow.state = .run ∧ (answered.queue 2).retained 7 = some ⟨7, [1, 7]⟩ ∧
    (arrived oddPacket).unfinished 2 9 = false ∧ ((arrived oddPacket).queue 2).retained 9 = none ∧ ((arrived oddPacket).queue 2).newest = none ∧
    pOp oddPacket > 0x13 ∧ (arrived oddPacket).run = none ∧ ((arrived oddPacket).queue 2).waitFence = none ∧ ((arrived oddPacket).queue 2).susp = none ∧
    (arrivedBad.port.line? 3 0x20).map (fun l => l.poison) = some true ∧
    gives (.packetFetch 2) arrivedBad (fun t => !(t.queue 2).enable ∧ t.cnt.value 51 = 1 ∧ t.ring.waiting.length = 1) = true :=
  ⟨rfl, by decide +kernel⟩
/-- Queue 2 has a packet ready. -/
def ready (ws : List Nat) (ds : List (List Word)) : State := withQueue queued 2 fun x => { x with fetch := .ready (words ws) ds }
/-- A CHAIN_RUN of a program that no identifier names. -/
def lostRun : List Nat := [0x03000000, 7, 0, 0, 0x6000, 0x02000000, 0x04000000, 0, 0, 0, 0, 0, 0, 0, 0, 0]
theorem test_CommandBegins : on.Live ∧ on.nextQueue = none ∧ State.reset.atBoundary = false ∧ (ready nopPacket []).atBoundary = true ∧
    (ready nopPacket []).nextQueue = some 2 ∧ ((ready nopPacket []).queue 2).susp = none ∧ ((ready nopPacket []).queue 2).fetch = .ready (words nopPacket) [] ∧
    checked ((ready nopPacket []).beginChecks nopPacket [] none) true = true ∧ (pProg nopPacket) = none ∧
    (ready lostRun []).nextQueue = some 2 ∧ (pProg lostRun).bind (ready lostRun []).arch.prog? = none ∧
    checked ((ready lostRun []).beginChecks lostRun [] none) false = true ∧
    gives .commandBegin (ready nopPacket []) (fun t => (t.run.map (fun r => r.op)) = some 0 ∧ (t.queue 2).head = 1) = true ∧
    gives .commandBegin (ready lostRun []) (fun t => t.run = none ∧ t.cnt.value 16 = 1 ∧ (t.queue 2).newest = some 7) = true := ⟨rfl, by decide +kernel⟩

/-- A COPY at its first tile, to be pre-empted; with a save area; saving; suspended; restoring. -/
def stopped (area : Bool) (st : Stage) : State := doing (withQueue latched 2 fun x => { x with ctxValid := area }) (job 7 [] st)
/-- A save that met poison, or a fault. -/
def badSave : Running := { job 7 [] (.saving true) with savePoison := true, why := 0x21 }
def saveFaults : State := { stopped true (.saving true) with port := { (stopped true (.saving true)).port with faults := [⟨0, 0x5000, 2, 0xFF⟩] } }
/-- A stolen band and a fence. -/
def fencedThief : State := doing { on with pow := { on.pow with fence := true } } stolenBand
/-- A suspended COPY of queue 2, and one whose block has been read and whose lines are all restored, or whose area is lost. -/
def held7 : Suspended := ⟨job 7 [] .load, 0x21, false, false⟩
def suspended : State := withQueue queued 2 fun x => { x with susp := some held7 }
def restored : Running := { job 7 [] (.restoring 9000) with chunks := [(1000, 0, 0, List.replicate 32 0 ++ [0x07000000, 7])] }
def lostBlock : Running := job 7 [] (.restoring 0)
def lostArea : State := doing { suspended with port := { suspended.port with faults := [⟨0, 0, 2, 0xFF⟩] } } lostBlock
theorem test_SuspendAndResume_stop : on.Live ∧ on.run = none ∧ working (doing on (job 0 [] .load)) (job 0 [] .load) 0 = true ∧ suspends 0 = false ∧
    fencedThief.run = some stolenBand ∧ stolenBand.stolen = some 1 ∧ stolenBand.mirror = false ∧ stolenBand.final = none ∧ fencedThief.pow.fence = true ∧
    (doing on stolenBand).pow.fence = false ∧ (doing on stolenBand).pow.state ≠ .dusk ∧ working (stopped false .load) (job 7 [] .load) 7 = true ∧ suspends 7 = true ∧
    (stopped false .load).suspendWhy (job 7 [] .load) = some 0x21 ∧
    (((job 7 [] .load).point false).map fun r => (r.stolen, r.mirror, r.queue)) = some (none, false, 2) ∧
    ((stopped false .load).queue 2).ctxValid = false ∧ ((stopped true .load).queue 2).ctxValid = true ∧
    gives (.commandSuspend []) fencedThief (fun t => t.run = none ∧ t.ring.waiting = []) = true ∧
    gives (.commandSuspend []) (stopped false .load) (fun t => t.run = none ∧ t.ring.waiting.length = 1) = true := ⟨rfl, by decide +kernel⟩
theorem test_SuspendAndResume_save : saveFaults.Live ∧ working saveFaults (job 7 [] (.saving true)) 7 = true ∧ saveFaults.port.faultOf 0 = some ⟨0, 0x5000, 2, 0xFF⟩ ∧
    working (doing (stopped true .load) badSave) badSave 7 = true ∧ badSave.savePoison = true ∧ (doing (stopped true .load) badSave).port.faultOf 0 = none ∧
    working (stopped true (.saving true)) (job 7 [] (.saving true)) 7 = true ∧ (job 7 [] (.saving true)).savePoison = false ∧
    (stopped true (.saving true)).writesDone = true ∧ (stopped true (.saving true)).ring.waiting = [] ∧
    { stopped true (.saving true) with ring := { (stopped true (.saving true)).ring with waiting := [oneReply] } }.ring.waiting ≠ [] ∧
    gives (.commandSuspend []) (doing (stopped true .load) badSave) (fun t => t.run = none ∧ t.err.status = 0x104 ∧ t.cnt.value 51 = 1) = true ∧
    gives (.commandSuspend []) (stopped true (.saving true)) (fun t => t.run = none ∧ (t.queue 2).susp.isSome ∧ t.ring.waiting.length = 1) = true :=
  ⟨rfl, by decide +kernel⟩
theorem test_SuspendAndResume_restore : suspended.Live ∧ suspended.run = none ∧ suspended.atBoundary = true ∧ suspended.nextQueue = some 2 ∧
    (suspended.queue 2).susp = some held7 ∧ held7.needsResume = false ∧ working (doing suspended restored) restored 7 = true ∧ restored.op ≠ 0x0D ∧ restored.op ≠ 0x10 ∧
    restored.stage = .restoring 9000 ∧ restoreDone ((doing suspended restored).resumeStep restored held7 0) = true ∧
    (held7.restored restored.blockWords restored.imageDescs).op = restored.op ∧ restoreFails (lostArea.resumeStep lostBlock held7 0) = true ∧
    held7.run.stolen = none ∧ working lostArea lostBlock 7 = true ∧
    gives .commandResume lostArea (fun t => t.run = none ∧ t.err.status = 0x200 ∧ (t.queue 2).susp = none) = true := ⟨rfl, by decide +kernel⟩
/-- A COPY under trap_mode 1 whose tile has a NaN event. -/
def trapping : Running := { job 7 [] (.commit false) with
  cfg := { numCfg := 0x00028010 }, pend := { nan := some ⟨false, 3, 0, 0, 0, 1, 0, 0, 0, 0⟩ } }
theorem test_UnitsCommit : (doing on (job 7 [] (.commit false))).Live ∧ working (doing on (job 7 [] (.commit false))) (job 7 [] (.commit false)) 7 = true ∧
    on.port.faultOf 0 = none ∧ on.pair.mode ≠ .lockstep ∧ ([6, 7, 9, 10].all fun n => (job n [] (.commit false)).op = n) = true ∧
    working (doing on (job 4 [0, 0, 0, 0, 0x03F00000] (.commit true))) (job 4 [0, 0, 0, 0, 0x03F00000] (.commit true)) 4 = true ∧
    pProg (job 4 [0, 0, 0, 0, 0x03F00000] .load).ws = none ∧ (job 5 [] (.commit false)).link.phase ≠ 1 ∧
    (job 7 [] (.commit false)).traps = false ∧ trapping.traps = true ∧ trapping.claimed = [] ∧ on.ring.waiting = [] ∧ on.writesDone = true ∧
    suspends 3 = true ∧ suspends 4 = true ∧
    gives (.tileCommit .none) (doing on trapping) (fun t => t.run = none ∧ (t.queue 2).halted ∧ t.cnt.value 28 = 1 ∧ t.trap.w0.getLsbD 31) = true ∧
    gives (.tileCommit .none) (doing on (job 3 [] (.trailer true))) (fun t => t.run = none ∧ t.ring.waiting.length = 1) = true := ⟨rfl, by decide +kernel⟩
/-- A CHAIN_RUN of one row and one column, and a PARTIAL_EXPORT of the same; and rows of which one fails its check. -/
def oneElement (op : Nat) (st : Stage) : Running :=
  { job op [0, 0, 0, 0x02000000, 0] st with descs := List.replicate 9 (matrix 0x1000 0 1 1 4), image := addImage }
def badRows : State := { on with arch := ({} : Arch).setRow 1 0 { freshRow 1 0 false 0 with data := 1 } }
/-- What the one element of `oneElement` stores, and its statistics records. -/
def oneStored (s : State) (r : Running) : Stored := chainStored s r r.walk 0 0
def oneStats (r : Running) : List (Nat × Nat × Nat) := chainStats r r.walk 0 .single
theorem test_UnitsCommit_chain : working (doing on (oneElement 3 (.commit true))) (oneElement 3 (.commit true)) 3 = true ∧
    working (doing on (oneElement 8 (.commit true))) (oneElement 8 (.commit true)) 8 = true ∧
    (oneElement 3 (.commit false)).walk.place 0 = (0, 0, .single) ∧ (oneElement 8 (.commit false)).walk.place 0 = (0, 0, .single) ∧
    statPoison on (oneElement 3 (.commit false)) (oneElement 3 (.commit false)).walk 0 (oneStats (oneElement 3 (.commit false))) = none ∧
    (oneStored on (oneElement 3 (.commit false))).fail = none ∧ (oneElement 3 (.commit false)).traps = false ∧
    (oneStored badRows (oneElement 3 (.commit false))).fail = some (1, 0) ∧ (oneElement 3 (.commit true)).claimed = [] ∧
    (0 + 1) % { oneElement 3 (.commit true) with descs := List.replicate 9 (matrix 0x1000 0 1 64 256) }.walk.upb ≠ 0 ∧
    gives (.tileCommit .none) (doing on (oneElement 3 (.commit false))) (fun t => t.port.outbox.length = 1) = true ∧
    gives (.tileCommit .none) (doing badRows (oneElement 3 (.commit true))) (fun t => t.run = none ∧ t.cnt.value 52 = 1 ∧ t.err.status = 8) = true := by
  decide +kernel

/-- One final reply waits; its ring is full; its page is translated. -/
def replying : State := { on with ring := { on.ring with waiting := [oneReply] } }
def fullRing : State := { replying with ring := { replying.ring with head := 15 } }
def replyXlat : State := { replying with port := { replying.port with xlats := [⟨0, 1, 9, true⟩] } }
/-- Twin A of LOCKSTEP; a command that has ended with its reply to come; a DAWN's reply to come. -/
def replyLead : State := { replyXlat with pair := leadA.pair }
def ended : Running := { job 7 [] .done with final := some (replyOf 2 7 8 false { status := 0 }) }
def replyOwed : State := { replyXlat with ring := { replyXlat.ring with owed := [replyOf 1 0x13 8 false { status := 0 }] } }
/-- A FENCE of queue 2 waits for tag 5 of queue 0, which has passed or not. -/
def fenceWords : List Nat := [0x0B000000, 8, 0, 0, 0, 0, 0, 5]
def fencing (f : Word) : State := withQueue (withQueue on 2 fun x => { x with waitFence := some (words fenceWords) }) 0 fun x => { x with fenceTag := some f }
theorem test_RepliesAndFences : replying.Live ∧ on.ring.waiting = [] ∧ State.reset.pow.state ≠ .run ∧ State.reset.pow.state ≠ .dusk ∧
    { on with ring := { on.ring with faulted := true } }.ring.faulted = true ∧ { on with ring := { on.ring with issued := true } }.ring.issued = true ∧
    { duskAt 0 with pow := { (duskAt 0).pow with fence := true } }.pow.fence = true ∧ fullRing.pow.state = .run ∧ fullRing.ring.waiting = [oneReply] ∧
    fullRing.ring.faulted = false ∧ fullRing.ring.issued = false ∧ fullRing.ring.room = false ∧ replyXlat.ring.room = true ∧
    replyXlat.port.translate ((replyXlat.ring.beat oneReply).vline / 32) true = some 9 ∧ lowestFree 64 replyXlat.writeTags = some 0 ∧ replyXlat.mayIssue 0 = true ∧
    replyLead.pair.mode = .lockstep ∧ replyLead.straps.twinSide = false ∧ replyLead.pair.checks = [] ∧ replyXlat.pair.mode ≠ .lockstep ∧
    replyXlat.pair.held = [] ∧ replyXlat.pair.entering = false ∧ oneReply.enters = true ∧ replyXlat.ring.owed = [] ∧ (doing replyXlat ended).run = some ended ∧
    ended.final = some (replyOf 2 7 8 false { status := 0 }) ∧ replyOwed.ring.owed = replyOf 1 0x13 8 false { status := 0 } :: [] ∧
    gives .replyWrite (doing replyXlat ended) (fun t => t.run = none ∧ t.ring.waiting.length = 1 ∧ t.ring.head = 1) = true ∧
    gives .replyWrite replyOwed (fun t => t.ring.waiting.length = 1 ∧ t.ring.owed = [] ∧ (t.queue 2).window.length = 1) = true ∧
    gives .replyWrite replyLead (fun t => t.ring.issued ∧ t.pair.held.length = 1) = true := ⟨rfl, by decide +kernel⟩
theorem test_RepliesAndFences_fence : (fencing 5).Live ∧ (on.queue 2).waitFence = none ∧ ((fencing 5).queue 2).waitFence = some (words fenceWords) ∧
    nats (words fenceWords) = fenceWords ∧ (fencing 5).fenceHolds fenceWords = true ∧ (fencing 4).fenceHolds fenceWords = false ∧ (fencing 5).pow.fence = false ∧
    gives (.fenceSatisfied 2) (fencing 5) (fun t => (t.queue 2).waitFence = none ∧ t.ring.waiting.length = 1) = true ∧
    gives (.fenceSatisfied 2) { fencing 5 with pow := { (fencing 5).pow with fence := true } } (fun t => t.ring.waiting = []) = true := ⟨rfl, by decide +kernel⟩

/-- A CHAIN_LOAD of program 0 from 0x3000, of a length. -/
def load (n : Nat) : Running := job 2 [0, 0, 0, 0, 0, 0x3000, 0, n] .load
/-- The image is here; the store is empty, or holds programs of 256 granules in all. -/
def image (ws : List Nat) : State := doing (holdingWords on 0 0x3000 ws) (load 44)
def crowded : Arch := { progs := (List.range 16).map fun k => ⟨BitVec.ofNat 5 (k + 1), BitVec.ofNat 8 (16 * k), 16, false⟩ }
theorem test_ImmediateCommands_load : (image (nats addImage)).Live ∧ working (image (nats addImage)) (load 44) 2 = true ∧ nth (load 0).ws 9 = 0 ∧ nth (load 44).ws 9 = 44 ∧
    (image (nats addImage)).port.faultOf 0 = none ∧
    readyWith ((image (nats addImage)).askRun (load 44) (wantAt 0xFF (byteLines (pAddr (load 44).ws) 44))) (fun u b =>
      bufWords b 0x3000 11 = (nats addImage, false) && u.arch.fits 0 (nats addImage)) = true ∧
    imageFault (nats addImage) 44 = none ∧ (imageFault bareImage 44).isSome = true ∧ crowded.fits 0 (nats addImage) = false ∧
    gives .chainLoad (image (nats addImage)) (fun t => t.arch.progs.length = 1 ∧ t.run = none) = true := ⟨rfl, by decide +kernel⟩
theorem test_ImmediateCommands : working (doing on (job 0 [] .load)) (job 0 [] .load) 0 = true ∧
    working (doing on (job 1 [0, 0, 0, 0, 7] .load)) (job 1 [0, 0, 0, 0, 7] .load) 1 = true ∧ working (doing on (modeJob 1 .load)) (modeJob 1 .load) 0xC = true ∧
    (modeJob 1 .load).stage ≠ .waiting ∧ on.jointChange (pf (modeJob 1 .load).ws 6 0 2) = true ∧ on.jointChange (pf (modeJob 2 .load).ws 6 0 2) = false ∧
    on.jointChange (pf (modeJob 0 .load).ws 6 0 2) = false ∧ on.ring.waiting = [] ∧
    gives .pairMode (doing on (modeJob 2 .load)) (fun t => t.pair.mode = .solo ∧ t.run = none) = true := by decide +kernel
/-- A RESUME or an ABORT of queue 1's command of tag 7. -/
def ofQueue1 (op : Nat) (st : Stage) : Running := job op [0, 0, 0, 0, 1, 7] st
/-- A RESUME whose target's area is lost. -/
def lostResume : State := doing { holding with port := { holding.port with faults := [⟨0, 0, 2, 0xFF⟩] } } (ofQueue1 0xD (.restoring 0))
/-- Dusk, with a DAWN at the head of queue 3. -/
def dawnWaits : State := withQueue (duskAt 0) 3 fun x => { x with fetch := .ready (words [0x13000000, 4]) [] }
theorem test_WaitingCommands : working (doing on (job 0xB [] .load)) (job 0xB [] .load) 0xB = true ∧ working (doing on (job 0x11 [] .load)) (job 0x11 [] .load) 0x11 = true ∧
    working (doing on (job 0x12 [] .load)) (job 0x12 [] .load) 0x12 = true ∧ working (doing on (job 0x13 [] .load)) (job 0x13 [] .load) 0x13 = true ∧
    on.port.faultOf 0 = none ∧ on.pair.mode ≠ .lockstep ∧ on.port.xlats = [] ∧ on.port.outbox = [] ∧ on.writesDone = true ∧ dawnWaits.pow.state = .dusk ∧
    dawnWaits.dawnHead = some (3, words [0x13000000, 4]) ∧ (duskAt 0).dawnHead = none ∧ on.pow.state ≠ .dusk ∧
    gives .query (doing on (job 0x11 [] .load)) (fun t => t.port.outbox.length = 2) = true ∧
    gives .dawn dawnWaits (fun t => t.pow.latchedDawn = [(3, words [0x13000000, 4])] ∧ t.pow.wakeLatched) = true ∧
    gives .fence (doing latched (job 0xB [] .load)) (fun t => t.run = none ∧ !t.pow.preempt ∧ (t.queue 2).waitFence.isSome) = true := by decide +kernel
theorem test_WaitingCommands_targets : working (doing holding (ofQueue1 0xD .load)) (ofQueue1 0xD .load) 0xD = true ∧
    working (doing holding (ofQueue1 0xE .load)) (ofQueue1 0xE .load) 0xE = true ∧ (1 : BitVec 2) = BitVec.ofNat 2 (pf (ofQueue1 0xD .load).ws 6 0 2) ∧
    (holding.queue 1).susp = some held7 ∧ restoreDone (holding.resumeStep (ofQueue1 0xD (.restoring 9000)) held7 0) = true ∧ holding.ring.waiting = [] ∧
    working lostResume (ofQueue1 0xD (.restoring 0)) 0xD = true ∧ restoreFails (lostResume.resumeStep (ofQueue1 0xD (.restoring 0)) held7 0) = true ∧
    (ofQueue1 0xD .done).stage = .done ∧ (on.queue 1).susp = none ∧ (ofQueue1 0xE .load).stage ≠ .done ∧ pTag held7.run.ws = nth (ofQueue1 0xE .load).ws 7 ∧
    on.suspendedTag 1 7 = false ∧ ((withQueue on 1 fun x => { x with waitFence := some (words [0x0B000000, 7]) }).queue 1).waitFence = some (words [0x0B000000, 7]) ∧
    pTag (nats (words [0x0B000000, 7])) = nth (ofQueue1 0xE .load).ws 7 ∧ on.fenceTagWaits 1 7 = false ∧
    (withQueue on 1 fun x => { x with waitFence := some (words [0x0B000000, 8]) }).fenceTagWaits 1 7 = false ∧ replying.ring.waiting ≠ [] ∧
    gives .resume lostResume (fun t => t.ring.waiting.length = 1 ∧ t.cnt.value 19 = 1 ∧ t.err.status = 0x200) = true ∧
    gives .resume (doing on (ofQueue1 0xD .done)) (fun t => t.run = none ∧ t.ring.waiting.length = 1) = true ∧
    gives .abort (doing holding (ofQueue1 0xE .load)) (fun t => (t.queue 1).susp = none ∧ t.cnt.value 19 = 1 ∧ (t.run.map (fun r => r.stage)) = some .done) = true := by
  decide +kernel
/-- A CTX_RESTORE from 0x4000 whose area has `n` times 4 KiB, and the first 4,096 bytes of an image that is too long by one when `w4` is 1,025. -/
def restore (n : Nat) (st : Stage) : Running := job 0x10 [0, 0, 0, 0, 0, 0x4000, 0, n] st
def block (w0 w1 w4 w1023 : Nat) : List Nat := [w0, w1, 0, 0, w4] ++ List.replicate 1018 0 ++ [w1023]
theorem test_ContextCommands : working (doing on (job 0xF [] .load)) (job 0xF [] .load) 0xF = true ∧ on.pair.mode ≠ .lockstep ∧ on.port.xlats = [] ∧ on.port.outbox = [] ∧
    on.port.faultOf 0 = none ∧ on.writesDone = true ∧ working (doing on (restore 1 .load)) (restore 1 .load) 0x10 = true ∧
    pf (restore 1 .load).ws 9 0 16 * 1024 < nth (block 0x43580031 0x40000000 1025 0) 4 ∧ ¬pf (restore 1 .load).ws 9 0 16 * 1024 < nth (block 0x43580031 0x40000000 1024 0) 4 ∧
    bits (nth (block 0x43580031 0x40000000 0 0) 1) 30 2 = 1 ∧ bits (nth (block 0x43580031 0 0 0) 1) 30 2 ≠ 1 ∧ on.restoreClobbers (restore 1 (.staging 128)) [] = false ∧
    restoreDone (on.restoreLines (restore 1 (.restoring 9000)) 0x4000 9000 true) = true := by decide +kernel
/-- The CRC of 4,092 bytes in 31 parts, with the running value after each. 0x1f5a7314 was computed from 15 R349 outside the model. -/
def crcParts : Nat → List Nat → Bool
  | _, [] => true
  | c, v :: vs => crcRun 132 c 0 == v && crcParts v vs
theorem test_crc_add (a b c n : Nat) : crcRun (a + b) c n = crcRun b (crcRun a c n) (n >>> (8 * a)) := by
  induction a generalizing c n with
  | zero => simp [crcRun]
  | succ a ih => rw [Nat.add_right_comm, crcRun, ih, crcRun, ← Nat.shiftRight_add, show 8 + 8 * a = 8 * (a + 1) by omega]
theorem test_crc_parts (vs : List Nat) (c : Nat) (h : crcParts c vs = true) : crcRun (132 * vs.length) c 0 = vs.getLastD c := by
  induction vs generalizing c with
  | nil => rfl
  | cons v vs ih =>
    rw [crcParts, Bool.and_eq_true, beq_iff_eq] at h
    rw [List.length_cons, Nat.mul_succ, Nat.add_comm, test_crc_add, Nat.zero_shiftRight, h.1, ih v h.2]; cases vs <;> rfl
def blockParts : List Nat := [0x256a6a64, 0x3081860e, 0xc59181a2, 0xb1798d6e, 0xd2d4f7d6, 0x218e0b08, 0x9b4176cf, 0x871df11f, 0xf18af3c6, 0x8c14f456, 0xceb5199e, 0xd45b6c76, 0x3df19ffa, 0xa94248f3, 0x7a7b4dc4, 0x4be31831, 0x560301ab, 0x8805c9e4, 0x7f062584, 0xe39dd735, 0xb4df7e86, 0xd5245504, 0xcfd8b48d, 0x2d94335e, 0x595bc230, 0x215aa6dd, 0x987285c, 0xf4fd862c, 0xb5b70e8b, 0xe0a58ceb]
theorem test_crc_words (ws : List Nat) : crcWords ws = crcRun (4 * ws.length) 0xFFFFFFFF (pack 32 ws) ^^^ 0xFFFFFFFF := rfl
theorem test_block_crc : crcWords ((block 0x43580031 0x40000000 0 0x1f5a7314).take 1023) = 0x1f5a7314 := by
  have h := test_crc_parts blockParts 0x6097b751 (by decide +kernel)
  rw [test_crc_words, show 4 * ((block 0x43580031 0x40000000 0 0x1f5a7314).take 1023).length = 132 + 132 * blockParts.length by decide +kernel,
    show pack 32 ((block 0x43580031 0x40000000 0 0x1f5a7314).take 1023) = 0x4000000043580031 by decide +kernel, test_crc_add,
    show crcRun 132 0xFFFFFFFF 0x4000000043580031 = 0x6097b751 by decide +kernel, show (0x4000000043580031 : Nat) >>> (8 * 132) = 0 by decide +kernel, h]
  decide +kernel
theorem test_ContextCommands_block : readyWith ((holdingWords on 0 0x4000 (block 0x43580031 0x40000000 0 0x1f5a7314)).askImage (restore 1 .load) 0x4000 0 32)
    (fun _ b => (bufWords b 0x4000 1024).1 = block 0x43580031 0x40000000 0 0x1f5a7314 && !(bufWords b 0x4000 1024).2) = true := by decide +kernel
theorem test_ContextCommands_crc : nth (block 0x43580031 0x40000000 0 0x1f5a7314) 1023 = crcWords ((block 0x43580031 0x40000000 0 0x1f5a7314).take 1023) ∧
    nth (block 0x43580031 0x40000000 0 1) 1023 ≠ crcWords ((block 0x43580031 0x40000000 0 1).take 1023) := by
  have e : (block 0x43580031 0x40000000 0 1).take 1023 = (block 0x43580031 0x40000000 0 0x1f5a7314).take 1023 := by decide +kernel
  rw [e, test_block_crc]; decide +kernel


/-! ### Hypotheses, part five: tensors, programs, storages -/

/-- Two rows of 32 FP32 elements are here, from 0x1000 on; in the second state the second row is poisoned. -/
def rows : State := holdingWords on 0 0x1000 (List.replicate 64 0x3F800000)
def poisoned : State := { rows with port := { rows.port with buf := rows.port.buf.map fun x => (x.1, x.2.1, { x.2.2 with poison := x.2.1 = 0x21 }) } }
/-- A COPY of them, one that converts them to BF16, one that gathers them, a QUANTIZE of them to FP4 with and without row scales, a SEAL of
them that computes. -/
def copyRows : Running := { job 7 [0, 0, 0, 0x02000000, 0] .load with descs := [matrix 0x1000 0 2 32 128, matrix 0x8000 0 2 32 128] }
def convRows : Running := { copyRows with descs := [matrix 0x1000 0 2 32 128, matrix 0x8000 1 2 32 64] }
def gatherRows : Running := { copyRows with descs := [matrix 0x1000 0 2 32 128, matrix 0x8000 0 2 32 128, matrix 0x1000 15 2 1 4] }
def quantRows (w6 : Nat) : Running := { job 6 [0, 0, 0, 0x05000000, w6] .load with
  descs := [matrix 0x1000 0 2 32 128, matrix 0x8000 7 2 32 16, matrix 0x9000 12 2 1 1, List.replicate 32 0, matrix 0x1000 0 2 1 4] }
def sealRows : Running := { job 0xA [0, 0, 0, 0x01000000, 0] .load with descs := [matrix 0x1000 0 2 32 128] }
def faulty : State := { rows with port := { rows.port with faults := [⟨0, 0x1000, 0, 0⟩] } }
theorem test_TensorCommands_copy : (doing rows copyRows).Live ∧ working (doing rows copyRows) copyRows 7 = true ∧ copyRows.stage = .load ∧ rows.port.faultOf 0 = none ∧
    faulty.port.faultOf 0 ≠ none ∧ copyRows.has 2 = false ∧ (copyRows.desc 0).format = (copyRows.desc 1).format ∧ (copyRows.desc 1).sealOut = false ∧
    0 = copyRows.unit / (copyRows.desc 1).ctiles false ∧ 0 = copyRows.unit % (copyRows.desc 1).ctiles false * tileWidth (copyRows.desc 1).format ∧
    32 = Nat.min (tileWidth (copyRows.desc 1).format) ((copyRows.desc 1).cLocal false - 0) ∧
    waits ((doing on copyRows).askRun copyRows (wantAt 0 (copyLines copyRows 0 0 32))) = true ∧
    readyWith ((doing rows copyRows).askRun copyRows (wantAt 0 (copyLines copyRows 0 0 32))) (fun _ _ => true) = true ∧
    (convRows.desc 0).format ≠ (convRows.desc 1).format ∧ rowsIn ((convRows.desc 1).rLocal false) 0 = 2 ∧
    readyWith ((doing rows convRows).askRun convRows (wantAt 0 (copyLines convRows 0 0 32))) (fun _ b =>
      (List.range 2).all fun i => !(copyRow b convRows i 0 32).2) = true ∧
    gatherRows.has 2 = true ∧ gatherRows.gatherIx 0 = none ∧
    readyWith ((doing rows gatherRows).askRun gatherRows (wantAt 2 (bandLines (gatherRows.desc 2) false 0 0 1))) (fun _ _ => true) = true ∧
    gives (.copy .none) (doing rows copyRows) (fun t => (t.run.map (fun r => r.kept.length)) = some 2) = true := ⟨rfl, by decide +kernel⟩
theorem test_TensorCommands_seal : working (doing rows sealRows) sealRows 0xA = true ∧ bit (nth sealRows.ws 6) 0 = false ∧
    bit (nth (job 0xA [0, 0, 0, 0x01000000, 1] .load).ws 6) 0 = true ∧ 0 = sealRows.unit / (sealRows.desc 0).ctiles false ∧ 0 = sealRows.unit % (sealRows.desc 0).ctiles false ∧
    readyWith ((doing rows sealRows).askRun sealRows (wantAt 0 (bandLines (sealRows.desc 0) false 0 0 32)))
      (fun _ b => !(tileCrc b (sealRows.desc 0) 0 0 (sget 0 sealRows.acc (bandKey 0 0))).2) = true ∧
    gives .seal (doing rows sealRows) (fun t => (t.run.map (fun r => (r.tilesDone, r.stage))) = some (1, .trailer false)) = true := by decide +kernel
/-- The lines that a QUANTIZE asks for, its row scales among them. -/
def quantLines (r : Running) : List (Nat × Nat) :=
  wantAt 0 (bandLines (r.desc 0) (r.desc 0).transpose 0 0 32) ++
    if bit (nth r.ws 6) 21 then wantAt 4 (bandLines (r.desc 4) (r.desc 4).transpose 0 0 1) else []
theorem test_TensorCommands_quantize : working (doing rows (quantRows 0)) (quantRows 0) 6 = true ∧ (quantRows 0).stage = .load ∧
    bit (nth (quantRows 0).ws 6) 21 = false ∧ bit (nth (quantRows (1 <<< 21)).ws 6) 21 = true ∧ 0 = (quantRows 0).unit / ((quantRows 0).desc 1).ctiles false ∧
    0 = (quantRows 0).unit % ((quantRows 0).desc 1).ctiles false * tileWidth ((quantRows 0).desc 1).format ∧
    32 = Nat.min (tileWidth ((quantRows 0).desc 1).format) (((quantRows 0).desc 1).cLocal false - 0) ∧ rowsIn (((quantRows 0).desc 1).rLocal false) 0 = 2 ∧
    readyWith ((doing rows (quantRows 0)).askRun (quantRows 0) (quantLines (quantRows 0)))
      (fun _ b => (List.range 2).all fun i => !(readRow b ((quantRows 0).desc 0) ((quantRows 0).desc 0).transpose none i 0 32).2.2) = true ∧
    readyWith ((doing rows (quantRows (1 <<< 21))).askRun (quantRows (1 <<< 21)) (quantLines (quantRows (1 <<< 21))))
      (fun _ b => (List.range 2).all fun i => !(rowScale b (quantRows (1 <<< 21)) i).2) = true ∧
    readyWith ((doing poisoned (quantRows 0)).askRun (quantRows 0) (quantLines (quantRows 0)))
      (fun _ b => (readRow b ((quantRows 0).desc 0) ((quantRows 0).desc 0).transpose none 1 0 32).2.2) = true ∧
    gives (.quantize .none) (doing poisoned (quantRows 0)) (fun t => t.run = none ∧ t.err.status = 4 ∧ t.cnt.value 51 = 1) = true := by decide +kernel
/-- A PARTIAL_MERGE of two inputs: at its start, at the first header, and at its first band, both headers read: 3 rows of one record. -/
def merging (st : Stage) (read : Bool) : Running :=
  { job 9 [0, 0, 0, 0x03000000, 2] st with
    descs := [matrix 0x8000 15 1 16 64, matrix 0x1000 15 1 16 64, matrix 0x1080 15 1 16 64], pass := 1
    chunks := if read then [(0, 1, 0, [0, 0, 0, 3]), (0, 2, 0, [0, 0, 0, 3])] else [] }
theorem test_TensorCommands_merge : working (doing rows (merging .load false)) (merging .load false) 9 = true ∧ (merging .load false).chunks = [] ∧
    (merging (.staging 0) false).stage = .staging 0 ∧ (merging (.staging 0) false).pass < (merging (.staging 0) false).inputs ∧
    readyWith ((doing rows (merging (.staging 0) false)).askRun (merging (.staging 0) false) (wantAt 1 (byteLines ((merging (.staging 0) false).desc 1).base 64)))
      (fun _ b => !(bufWords b 0x1000 16).2) = true ∧ (merging .load true).chunks ≠ [] ∧ (merging .load true).unit < (merging .load true).mergeBands ∧
    3 = Nat.min 32 (nth ((merging .load true).header 1) 3 - 32 * (merging .load true).unit) ∧
    readyWith ((doing rows (merging .load true)).askRun (merging .load true) (mergeLines (merging .load true) 0 3))
      (fun _ b => (mergeLines (merging .load true) 0 3).all fun w => !(bufLine b w.1).poison) = true ∧
    gives (.partialMerge .none) (doing rows (merging .load true)) (fun t => (t.run.map (fun r => (r.stage, r.pend.counts))) = some (.commit false, [])) = true := by
  decide +kernel

/-- The pass runs to its end. -/
def passDone (x : PassOut) : Bool :=
  match x with
  | .done .. => true
  | .poison .. => false
/-- The one pass of `oneElement`. -/
def onePass (op : Nat) : PassOut :=
  let s := doing on (oneElement op .passes)
  let r := oneElement op .passes
  runPass s.arch (r.blk s r.walk 0 0) (r.captured r.prog) (r.prog.pass 0) {}
theorem test_ProgramPasses : (doing on (oneElement 3 .passes)).Live ∧ working (doing on (oneElement 3 .passes)) (oneElement 3 .passes) 3 = true ∧
    working (doing on (oneElement 8 .passes)) (oneElement 8 .passes) 8 = true ∧ on.port.faultOf 0 = none ∧ (oneElement 3 .passes).walk.place 0 = (0, 0, .single) ∧
    passDone (onePass 3) = true ∧ passDone (onePass 8) = true := ⟨rfl, by decide +kernel⟩
/-- The loaded row is poisoned. -/
def badLoad : State := { on with arch := ({} : Arch).setRow 0 0 (freshRow 1 0 true 0) }
def onePoisoned (op : Nat) : PassOut :=
  let r := oneElement op .passes
  runPass badLoad.arch (r.blk (doing badLoad r) r.walk 0 0) (r.captured r.prog) (r.prog.pass 0) {}
theorem test_ProgramPasses_mishaps : (⟨0, false, 31, 0⟩ : ResidueFail).twice = false ∧ (⟨0, true, 31, 0⟩ : ResidueFail).twice = true ∧ on.ring.waiting = [] ∧
    (oneElement 3 .passes).claimed = [] ∧ passDone (onePoisoned 3) = false ∧
    gives (.chainRun ⟨[⟨0, false, 31, 0⟩], []⟩) (doing on (oneElement 3 .passes)) (fun t => t.cnt.value 53 = 1 ∧ t.cnt.value 54 = 1 ∧ t.err.status = 0x20 ∧ t.run.isSome) = true ∧
    gives (.chainRun ⟨[⟨0, true, 31, 0⟩], []⟩) (doing on (oneElement 3 .passes)) (fun t => t.cnt.value 53 = 2 ∧ t.cnt.value 54 = 1 ∧ t.err.status = 0x10 ∧ t.run = none) = true ∧
    gives (.chainRun .none) (doing badLoad (oneElement 3 .passes)) (fun t => t.cnt.value 51 = 1 ∧ t.err.status = 4 ∧ t.run = none ∧ t.arch = badLoad.arch) = true := by
  decide +kernel
/-- Twin A before a segment, its partner asking, when it held the token last. -/
def contested (last : Bool) : State := { on with pair := { on.pair with partnerReq := true, everGranted := true, lastSelf := last } }
theorem test_ProgramPasses_array : working (doing on (product .token)) (product .token) 4 = true ∧ working (doing on (job 5 [] .token)) (job 5 [] .token) 5 = true ∧
    (product .token).stage = .token ∧ leadA.pair.mode ≠ .split ∧ { on with pair := { on.pair with partner := .detached } }.pair.detached = true ∧
    onB.pair.mode = .split ∧ onB.pair.detached = false ∧ onB.pair.token = false ∧ onB.straps.twinSide = true ∧ on.straps.twinSide = false ∧ on.pair.grant = false ∧
    on.pair.partnerHeld = false ∧ on.pair.partnerReq = false ∧ (contested false).pair.lastSelf = false ∧ (contested true).pair.partnerReq = true ∧
    (contested true).pair.everGranted = true ∧ (contested true).pair.lastSelf = true ∧ (contested true).pair.token = false ∧ (contested true).pair.detached = false ∧
    (product .load).stage = .load ∧
    ((product .load).prodSeg (geomOf 0)).indexLines (product .load) [((product .load).prodSeg (geomOf 0)).a, ((product .load).prodSeg (geomOf 0)).b] = [] ∧
    readyWith ((doing on (product .load)).askRun (product .load) []) (fun _ _ => true) = true ∧ (job 5 [] .load).link.begun = false ∧ (job 5 [] .load).reports = [] ∧
    gives (.productRun .none) (doing (contested false) (product .token)) (fun t => t.pair.token) = true ∧
    gives (.productRun .none) (doing (contested true) (product .token)) (fun t => !t.pair.token ∧ t.pair.grant) = true := by decide +kernel
theorem test_StorageLaws : Arch.Canonical {} ∧ Counters.Ok {} ∧ 31 < 32 ∧ 95 < 96 ∧ (Arch.row {} 95 31).tag.valid = false ∧
    (({} : Counters).raise 0 (2 ^ 40)).value 0 = 0xFFFFFFFFFF ∧ (({} : Counters).raise 0 (2 ^ 40 - 1)).value 0 = 0xFFFFFFFFFF :=
  ⟨.mk rfl rfl rfl rfl rfl, .mk rfl rfl (fun _ => Nat.zero_le _), by decide +kernel⟩
theorem test_SidecarRoundTrip : 254 < 255 ∧ 31 < 32 ∧ 65535 < 65536 ∧ 31 ≠ 30 ∧
    readSidecar (sidecarWord [(31, 65535), (30, 0)]) 254 32 = (.stars [(31, 65535), (30, 0)], false) := by decide +kernel

end Tests
end

/-! SUPPORT. What each row of the opcode table keeps, and what `step` therefore keeps: the queue of waiting commands and
well-formedness. The effects' own lemmas are those of `Kept`; here each row is tied to its effect. -/

namespace Sys2Proof.Machine

open Sys2Proof

/-! ### Outcomes -/

/-- Whatever next state the outcome answers is kept from `s`. -/
def KeepsNext (s : State) (o : Host.Outcome State Fault Refusal) : Prop := ∀ t, o = .next t → Kept s t

theorem keepsNext_next {s t : State} (h : Kept s t) : KeepsNext s (.next t) := by
  rintro u ⟨⟩
  exact h

theorem keepsNext_functional {s t : State} (h : Kept s t) : KeepsNext s (functional s t) := by
  intro u e
  exact functional_next e ▸ h

/-- A row that advances the executing command of its opcode by a piece `f`. -/
theorem keepsNext_onRun {s : State} {op : Nat} {f : State → Running → State} (hf : ∀ x r, Kept s x → Kept s (f x r)) :
    KeepsNext s (functional s (s.onRun op f)) :=
  keepsNext_functional (kept_onRun s s op f (.refl s) hf)

/-- A row that advances the executing command, whatever its opcode. -/
theorem keepsNext_onAny {s : State} {f : State → Running → State} (hf : ∀ x r, Kept s x → Kept s (f x r)) :
    KeepsNext s (functional s (s.onAny f)) :=
  keepsNext_functional (kept_onAny s s f (.refl s) hf)

theorem keepsNext_regPort (s : State) (a : BitVec 16) (v : Word) : KeepsNext s (.next (s.regPort a v)) :=
  keepsNext_next (kept_regPort s s a v (.refl s))

theorem keepsNext_portRead (s : State) (a : BitVec 16) : KeepsNext s (.next (portRead s a)) :=
  keepsNext_next (kept_portRead s s a (.refl s))

/-! ### The rows -/

/-- Every row but those of the wrapper and the cold reset keeps straps, wrapper, waiting commands and well-formedness. -/
theorem exec_keepsNext (c : Instr) (s : State) (hw : c.isWrapper = false) (hc : c.isCold = false) : KeepsNext s (exec c s) := by
  have k := Kept.refl s
  match c with
  -- the queue commands, piece by piece
  | .nop => exact keepsNext_onRun (kept_endOk s)
  | .config => exact keepsNext_onRun (kept_configStep s)
  | .chainLoad => exact keepsNext_onRun (kept_chainLoadStep s)
  | .chainRun m | .partialExport m => exact keepsNext_onRun fun x r h => kept_chainStep s x r m h
  | .productRun m =>
    exact keepsNext_onRun fun x r h => kept_either (kept_mirrorDrain s x r m h) (kept_productStep s x r m h)
  | .linkRun m =>
    exact keepsNext_onRun fun x r h => kept_either (kept_mirrorDrain s x r m h) (kept_linkStepRun s x r m h)
  | .quantize m => exact keepsNext_onRun fun x r h => kept_quantStep s x r m h
  | .copy m => exact keepsNext_onRun fun x r h => kept_copyStep s x r m h
  | .partialMerge m => exact keepsNext_onRun fun x r h => kept_mergeWork s x r m h
  | .seal => exact keepsNext_onRun (kept_sealStep s)
  | .fence => exact keepsNext_onRun (kept_fenceStep s)
  | .pairMode => exact keepsNext_onRun (kept_pairModeStep s)
  | .resume => exact keepsNext_onRun (kept_resumeCommand s)
  | .abort => exact keepsNext_onRun (kept_abortCommand s)
  | .ctxSave ecc => exact keepsNext_onRun fun x r h => kept_ctxSaveStep s x r ecc h
  | .ctxRestore => exact keepsNext_onRun (kept_ctxRestoreStep s)
  | .query => exact keepsNext_onRun (kept_queryStep s)
  | .dusk => exact keepsNext_onRun (kept_duskCommand s)
  | .dawn =>
    exact keepsNext_functional (kept_either (kept_latchDawn s s k)
      (kept_onRun s s oDAWN _ k fun x r h => kept_refuseRun s x r _ _ _ _ h))
  -- the register port
  | .doorbell q v | .queueEnableWrite q v => exact keepsNext_regPort s _ v
  | .replyTailWrite v | .numCfgWrite v | .trapRecordClear v | .errStatusClear v | .eccLogClear v | .errRecordClear v
  | .pairDivergeClear v | .pairStatusClear v | .clearAll v | .dbgSelWrite v | .rotate v | .forget v =>
    exact keepsNext_regPort s _ v
  | .counterClear a v | .registerWrite a v => exact keepsNext_regPort s a v
  | .eccCeLogRead | .ctxLogRead => exact keepsNext_portRead s _
  | .counterRead a => exact keepsNext_portRead s a
  -- beginning, suspension, commits and replies
  | .packetFetch q => exact keepsNext_functional (kept_either (kept_fetchStep s s q k) k)
  | .commandBegin => exact keepsNext_functional (kept_beginStep s s k)
  | .commandResume => exact keepsNext_functional (kept_resumeNext s s k)
  | .commandSuspend ecc => exact keepsNext_onAny fun x r h => kept_suspendRun s x r ecc h
  | .tileCommit m => exact keepsNext_onAny fun x r h => kept_commitStep s x r m h
  | .replyWrite => exact keepsNext_functional (kept_either (kept_writeReply s s k) k)
  | .fenceSatisfied q => exact keepsNext_functional (kept_fenceRelease s s q k)
  -- the ports
  | .memReadData tag idx data check info poison => exact keepsNext_functional (kept_readBeat s s tag idx _ k)
  | .writeResponse tag => exact keepsNext_functional (kept_writeAnswer s s tag k)
  | .atpResponse id pa size fault => exact keepsNext_functional (kept_atpAnswer s s id pa size fault k)
  | .mxaDrainBeat hdr data m => exact keepsNext_functional (kept_drainStep s s hdr data m k)
  -- the partner
  | .pairDataBeat data sb => exact keepsNext_functional (kept_pairBeat s s data sb k)
  | .pairCredit => exact keepsNext_functional (kept_creditStep s s k)
  | .pairModeJoin mode ecc => exact keepsNext_functional (kept_joinStep s s _ ecc k)
  | .pairModeTimeout => exact keepsNext_functional (kept_joinTimeout s s k)
  | .tokenHandover => exact keepsNext_functional (kept_handoverStep s s k)
  | .pairTokenSignal tok gnt => exact keepsNext_functional (kept_tokenSignal s s tok gnt k)
  | .pairCheck chk => exact keepsNext_functional (kept_checkStep s s chk k)
  | .lockstepCheckTimeout => exact keepsNext_functional (kept_checkTimeout s s k)
  | .pairAliveChange p => exact keepsNext_functional (kept_aliveStep s s p k)
  | .bandSteal o => exact keepsNext_functional (kept_stealStep s s o k)
  | .stealClaim band => exact keepsNext_functional (kept_answerClaim s s _ k)
  | .stealBandDone x => exact keepsNext_functional (kept_stealDone s s x k)
  -- integrity and housekeeping
  | .scrubUnit hits => exact keepsNext_functional (kept_scrubStep s s hits k)
  | .scrubWriteback => exact keepsNext_functional (kept_writebackStep s s k)
  | .scrubStarvationGrant bank wb hits => exact keepsNext_functional (kept_starvationGrant s s bank wb hits k)
  | .backgroundAgePromote => exact keepsNext_functional (kept_promoteStep s s k)
  | .calibrationTrim ok ro droop roT => exact keepsNext_functional (kept_trimStep s s ok ro droop roT k)
  | .droopEvent => exact keepsNext_functional (kept_droopStep s s k)
  | .starlogRecord x => exact keepsNext_functional (kept_starRecord s s x k)
  | .starlogRecordWrite => exact keepsNext_functional (kept_starWrite s s k)
  | .debugCapture e => exact keepsNext_functional (kept_captureStep s s e k)
  | .laneRotation => exact keepsNext_functional (kept_rotationStep s s k)
  -- pins, power and the warm reset
  | .enHigh => exact keepsNext_functional (kept_enRise s s k)
  | .enLow => exact keepsNext_functional (kept_enFall s s k)
  | .preemptReq => exact keepsNext_functional (kept_preemptEdge s s k)
  | .fenceRise => exact keepsNext_functional (kept_fenceUp s s k)
  | .fenceFall => exact keepsNext_functional (kept_fenceDown s s k)
  | .throttleChange level => exact keepsNext_functional ⟨rfl, rfl, rfl, fun o => { o with }⟩
  | .syncInPulse => exact keepsNext_functional (kept_syncPulse s s k)
  | .syncTimeout => exact keepsNext_functional (kept_syncLate s s k)
  | .wreset => exact keepsNext_functional (kept_warmReset s s k)
  | .dawnSequence o => exact keepsNext_functional (kept_dawnStep s s o k)
  | .duskSequence => exact keepsNext_functional (kept_duskStep s s k)
  -- the rows that the hypotheses exclude
  | .poreset p => cases hc
  | .wrapperReset | .wsBypass | .wsExtest | .wsIntest | .mbistRun | .mbistResult | .mbistDone .. => cases hw

/-- A row of the wrapper changes nothing beside the wrapper (17 R413). -/
theorem exec_wrapper {c : Instr} {s t : State} (hw : c.isWrapper = true) (e : exec c s = .next t) :
    ∃ w, t = { s with wrap := w } := by
  cases c with
  | wrapperReset | wsBypass | wsExtest | wsIntest | mbistRun | mbistResult => cases e; exact ⟨_, rfl⟩
  | mbistDone fail memory addr =>
    cases e
    split
    · exact ⟨_, rfl⟩
    · exact ⟨s.wrap, rfl⟩
  | _ => cases hw

/-- What the next state of a command can be: one kept from the state before, that state with another wrapper, or a cold reset of it. -/
theorem exec_cases {c : Instr} {s t : State} (e : exec c s = .next t) :
    Kept s t ∨ (∃ w, t = { s with wrap := w }) ∨ ∃ p, t = coldReset s p := by
  cases hw : c.isWrapper with
  | true => exact .inr (.inl (exec_wrapper hw e))
  | false =>
    cases hc : c.isCold with
    | false => exact .inl (exec_keepsNext c s hw hc t e)
    | true =>
      cases c with
      | poreset p => cases e; exact .inr (.inr ⟨p, rfl⟩)
      | _ => cases hc

/-! ### The cold reset -/

theorem kept_released (s : State) : Kept s s.released :=
  kept_either (kept_startDawn s s (.refl s)) (.refl s)

theorem coldReset_pending (s : State) (p : StrapPins) : (coldReset s p).pending = s.pending :=
  (kept_released _).pending

theorem coldReset_ok (s : State) (p : StrapPins) : (coldReset s p).Ok :=
  (kept_released _).ok { reset_ok with }

/-! ### Every command, every step -/

theorem exec_pending {c : Instr} {s t : State} (e : exec c s = .next t) : t.pending = s.pending := by
  obtain k | ⟨w, rfl⟩ | ⟨p, rfl⟩ := exec_cases e
  · exact k.pending
  · rfl
  · exact coldReset_pending s p

theorem exec_ok {c : Instr} {s t : State} (o : s.Ok) (e : exec c s = .next t) : t.Ok := by
  obtain k | ⟨w, rfl⟩ | ⟨p, rfl⟩ := exec_cases e
  · exact k.ok o
  · exact { o with }
  · exact coldReset_ok s p

theorem step_nil {s : State} (h : s.pending = []) : step s = .next s := by
  simp [step, h]

theorem step_cons {s : State} {c : Instr} {rest : List Instr} (h : s.pending = c :: rest) :
    step s = exec c { s with pending := rest } := by
  simp [step, h]

theorem step_ok {s t : State} (o : s.Ok) (e : step s = .next t) : t.Ok := by
  cases h : s.pending with
  | nil =>
    rw [step_nil h] at e
    cases e
    exact o
  | cons c rest =>
    rw [step_cons h] at e
    have o' : { s with pending := rest }.Ok := { o with }
    exact exec_ok o' e

/-- Settles O1, by the two cases of the queue. -/
theorem stepRunsFrontCommand : Obligations.StepRunsFrontCommand :=
  fun _ => ⟨step_nil, fun _ _ => step_cons⟩

/-- Settles O2: every row keeps the queue, also those of the wrapper and the cold reset. -/
theorem execLeavesQueue : Obligations.ExecLeavesQueue :=
  fun _ _ _ => exec_pending

/-- Settles O8: every row keeps well-formedness, and neither taking a command from the queue nor idling touches it. -/
theorem stepKeepsOk : Obligations.StepKeepsOk :=
  fun _ _ => step_ok

end Sys2Proof.Machine

/-! What a storage reads as after a write, and what a tile row, a mask and a counter are then. -/

namespace Sys2Proof.Machine

open Sys2Proof

/-! ### Reading back a write -/

/-- Within the 32 rows of a register, a storage key names one row of one register. -/
theorem rowKey_eq_iff {m n i j : Nat} (hi : i < 32) (hj : j < 32) : rowKey m j = rowKey n i ↔ m = n ∧ j = i := by
  unfold rowKey
  omega

theorem sget_sset {α : Type} [DecidableEq α] {d : α} {m : Sparse α} (hm : sparseWf d m = true) (k j : Nat) (v : α) :
    sget d (sset d m k v) j = if j = k then v else sget d m j := by
  split
  case isTrue h => rw [h, sget_sset_self d m k v hm]
  case isFalse h => exact sget_sset_other d m k j v hm h

theorem Arch.row_setRow {a : Arch} (h : a.Canonical) {i j : Nat} (hi : i < 32) (hj : j < 32) (n m : Nat) (t : TileRow) :
    (a.setRow n i t).row m j = if m = n ∧ j = i then t else a.row m j := by
  simp only [Arch.row, Arch.setRow, sget_sset h.trf, rowKey_eq_iff hi hj]

theorem Arch.row_setRow_self {a : Arch} (h : a.Canonical) {i : Nat} (hi : i < 32) (n : Nat) (t : TileRow) :
    (a.setRow n i t).row n i = t := by
  simp [row_setRow h hi hi]

theorem Arch.setRow_dirty_self (a : Arch) {n : Nat} (hn : n < 96) (i : Nat) (t : TileRow) :
    (a.setRow n i t).dirty.getLsbD n = true := by
  simp only [Arch.setRow, BitVec.getLsbD_or, BitVec.natCast_eq_ofNat, BitVec.getLsbD_ofNat, Nat.testBit_shiftLeft]
  simp [hn]

@[simp] theorem freshRow_bytes (p f : Nat) (x : Bool) (d : Line) : (freshRow p f x d).bytes = d.toNat := rfl

@[simp] theorem freshRow_mismatch (p f : Nat) (x : Bool) (d : Line) : (freshRow p f x d).mismatch = false := by
  simp [TileRow.mismatch, freshRow]

theorem TileRow.bytes_of_invalid {t : TileRow} (h : t.tag.valid = false) : t.bytes = 0 := by
  simp [TileRow.bytes, h]

@[simp] theorem Arch.maskRow_zero (a : Arch) (j : Nat) : a.maskRow 0 j = ⟨BitVec.allOnes 256, false⟩ := rfl

theorem Arch.maskRow_of_ne_zero (a : Arch) {k : Nat} (hk : k ≠ 0) (j : Nat) : a.maskRow k j = sget {} a.masks (rowKey k j) :=
  if_neg hk

@[simp] theorem Arch.setMask_zero (a : Arch) (i : Nat) (v : MaskRow) : a.setMask 0 i v = a := rfl

theorem Arch.setMask_of_ne_zero (a : Arch) {m : Nat} (hm : m ≠ 0) (i : Nat) (v : MaskRow) :
    a.setMask m i v = { a with masks := sset {} a.masks (rowKey m i) v } :=
  if_neg hm

/-- M0 takes no write and shows none (01 R14); the other masks are storages. -/
theorem Arch.maskRow_setMask {a : Arch} (h : a.Canonical) {i j : Nat} (hi : i < 32) (hj : j < 32) (m k : Nat) (v : MaskRow) :
    (a.setMask m i v).maskRow k j = if m ≠ 0 ∧ k = m ∧ j = i then v else a.maskRow k j := by
  by_cases hm : m = 0
  · simp [hm]
  by_cases hk : k = 0
  · simp [hk, Ne.symm hm]
  · simp only [setMask_of_ne_zero a hm, maskRow_of_ne_zero _ hk, sget_sset h.masks, rowKey_eq_iff hi hj, ne_eq, hm, not_false_eq_true,
      true_and]

theorem Arch.srow_setSrow {a : Arch} (h : a.Canonical) {i j : Nat} (hi : i < 32) (hj : j < 32) (n m : Nat) (v : SRow) :
    (a.setSrow n i v).srow m j = if m = n ∧ j = i then v else a.srow m j := by
  simp only [Arch.srow, Arch.setSrow, sget_sset h.sregs, rowKey_eq_iff hi hj]

theorem Arch.wasRow_setWasFresh {a : Arch} (h : a.Canonical) (k j : Nat) (d : Line) (p : Bool) :
    (a.setWasFresh k d p).wasRow j = if j = k then ⟨d, 0, p⟩ else a.wasRow j :=
  sget_sset h.was k j _

theorem Counters.value_raise {c : Counters} (h : c.Ok) (k n j : Nat) :
    (c.raise k n).value j = if j = k then Nat.min (c.value k + n) counterMax else c.value j :=
  sget_sset h.vals k j _

/-- Settles O59: each storage is sparse data under a key, and distinct rows have distinct keys. -/
theorem storageLaws : Obligations.StorageLaws := by
  intro a c ha hc
  refine ⟨fun n i m j t hi hj => Arch.row_setRow ha hi hj n m t,
    fun n i p f x d hi hn => ?fresh,
    fun n i => TileRow.bytes_of_invalid,
    fun m i v k j hi hj => Arch.maskRow_setMask ha hi hj m k v,
    fun j => ⟨congrArg MaskRow.bits (a.maskRow_zero j), congrArg MaskRow.poison (a.maskRow_zero j)⟩,
    fun n i v m j hi hj => Arch.srow_setSrow ha hi hj n m v,
    fun k d p j => Arch.wasRow_setWasFresh ha k j d p,
    fun k n j => ?counter⟩
  case fresh =>
    rw [Arch.row_setRow_self ha hi]
    exact ⟨freshRow_bytes p f x d, freshRow_mismatch p f x d, a.setRow_dirty_self hn i _⟩
  case counter =>
    rw [Counters.value_raise hc]
    rfl

end Sys2Proof.Machine

/-! The array token in SPLIT: what the partner's signals and a handover make of the pair, by twin (01 R36-R38, 17 R409). -/

namespace Sys2Proof.Machine

open Sys2Proof

/-! ### The array token: the partner's signals -/

theorem exec_pairTokenSignal_live {s : State} (h : s.Live) (tok : BitVec 4) (gnt : BitVec 2) :
    exec (.pairTokenSignal tok gnt) s = .next (tokenSignal s tok gnt) :=
  functional_live h _

theorem tokenSignal_ignored {s : State} (h : s.pair.mode = .solo ∨ s.pow.failed = true) (tok : BitVec 4) (gnt : BitVec 2) :
    tokenSignal s tok gnt = s := by
  simp only [tokenSignal]
  exact if_pos (by simpa using h)

section Split

variable {s : State} (hm : s.pair.mode = .split) (hf : s.pow.failed = false)

include hm hf

theorem tokenSignal_split_twinA (ha : s.straps.twinSide = false) (tok : BitVec 4) (gnt : BitVec 2) :
    tokenSignal s tok gnt = { s with
      pair := s.pair.arbitrate (s.run.map (·.queue)) (tok.getLsbD 3) (tok.getLsbD 2) (tok.extractLsb' 0 2) } := by
  simp [tokenSignal, State.isA, hm, hf, ha]

theorem tokenSignal_split_twinB (hb : s.straps.twinSide = true) (tok : BitVec 4) (gnt : BitVec 2) :
    tokenSignal s tok gnt = { s with
      pair := s.pair.seeGrant (tok.getLsbD 3) (tok.getLsbD 2) (tok.extractLsb' 0 2) gnt } := by
  simp [tokenSignal, State.isA, hm, hf, hb]

end Split

/-- Nobody holds or wants the token: the partner that asks is granted it. -/
theorem Pair.arbitrate_free {p : Pair} (ht : p.token = false) (hr : p.request = false) (hg : p.grant = false)
    (hh : p.partnerHeld = false) (q : Option (BitVec 2)) (queue : BitVec 2) :
    p.arbitrate q true false queue = { p with
      partnerReq := true, partnerHeld := false, partnerQueue := queue, grant := true, lastSelf := false, release := false } := by
  simp [Pair.arbitrate, Pair.wantsBack, ht, hr, hg, hh]

/-- The edge at which held falls lowers the grant, and grants nothing anew. -/
theorem Pair.arbitrate_heldFell {p : Pair} (hg : p.grant = true) (hh : p.partnerHeld = true) (q : Option (BitVec 2)) (req : Bool)
    (queue : BitVec 2) :
    p.arbitrate q req false queue = { p with
      partnerReq := req, partnerHeld := false, partnerQueue := queue, grant := false, release := false } := by
  simp [Pair.arbitrate, Pair.wantsBack, hg, hh]

section Grant

variable {p : Pair} {gnt : BitVec 2} (ht : p.token = false) (hu : p.grantUsed = false) (hg : gnt.getLsbD 1 = true)

include ht hu hg

/-- Twin B holds the token from the edge at which it sees the grant. -/
theorem Pair.seeGrant_requesting (hr : p.request = true) (req held : Bool) (queue : BitVec 2) :
    p.seeGrant req held queue gnt = { p with
      partnerReq := req, partnerHeld := held, partnerQueue := queue, grantSeen := true, releaseSeen := gnt.getLsbD 0
      grantUsed := false, token := true, everGranted := true, lastSelf := true } := by
  simp only [Pair.seeGrant, hg]
  simp [ht, hu, hr]

/-- Twin B that no longer asks counts the grant as used without raising the token (the model's reading of R409). -/
theorem Pair.seeGrant_withdrawn (hr : p.request = false) (req held : Bool) (queue : BitVec 2) :
    p.seeGrant req held queue gnt = { p with
      partnerReq := req, partnerHeld := held, partnerQueue := queue, grantSeen := true, releaseSeen := gnt.getLsbD 0
      grantUsed := true } := by
  simp only [Pair.seeGrant, hg]
  simp [ht, hu, hr]

end Grant

/-! ### The array token: the handover -/

theorem exec_tokenHandover_live {s : State} (h : s.Live) : exec .tokenHandover s = .next (handoverStep s) :=
  functional_live h _

theorem Pair.detached_of_attached {p : Pair} (h : p.partner = .attached) : p.detached = false := by
  simp [Pair.detached, h]

theorem handoverStep_idle {s : State} (h : s.run = none) : handoverStep s = s := by
  simp [handoverStep, h]

theorem handoverStep_due {s : State} {r : Running} (hr : s.run = some r) (hs : r.stage = .token) (hd : s.handoverDue r.queue = true) :
    handoverStep s = s.handOver := by
  simp [handoverStep, State.yieldDue, hr, hs, hd]

section Holder

variable {s : State} (hm : s.pair.mode = .split) (hp : s.pair.partner = .attached)

include hm hp

/-- Twin A weighs the partner's queue itself (01 R38). -/
theorem handoverDue_twinA (ht : s.pair.token = true) (ha : s.straps.twinSide = false) (hr : s.pair.partnerReq = true) {q : BitVec 2}
    (hq : s.pair.partnerQueue.toNat < q.toNat) : s.handoverDue q = true := by
  have hlt : s.pair.partnerQueue < q := hq
  simp [State.handoverDue, Pair.partnerAhead, State.isA, Pair.detached_of_attached hp, hm, ht, ha, hr, hlt]

/-- Twin B follows the release signal (17 R409). -/
theorem handoverDue_twinB (ht : s.pair.token = true) (hb : s.straps.twinSide = true) (hr : s.pair.releaseSeen = true) (q : BitVec 2) :
    s.handoverDue q = true := by
  simp [State.handoverDue, State.isA, Pair.detached_of_attached hp, hm, ht, hb, hr]

theorem handOver_twinA (ha : s.straps.twinSide = false) (hr : s.pair.partnerReq = true) :
    s.handOver = { s with pair := { s.pair with
      token := false, request := true, grant := true, release := false, grantUsed := false, lastSelf := false } } := by
  simp [State.handOver, Pair.lower, State.isA, Pair.detached_of_attached hp, hm, ha, hr]

end Holder

theorem handOver_twinB {s : State} (hb : s.straps.twinSide = true) :
    s.handOver = { s with pair := { s.pair with
      token := false, request := true, release := false, grantUsed := s.pair.grantSeen, lastSelf := true } } := by
  simp [State.handOver, Pair.lower, State.isA, hb]

/-- Settles O45: each signal and each handover is one branch of the arbitration of its twin. -/
theorem arrayToken : Obligations.ArrayToken := by
  intro s hs
  simp only [exec_pairTokenSignal_live hs, exec_tokenHandover_live hs]
  refine ⟨fun tok gnt h => by rw [tokenSignal_ignored h], fun hm hf => ⟨?grant, ?lower, ?receive⟩, ?handover,
    fun h => by rw [handoverStep_idle h]⟩
  case grant =>
    intro tok gnt ha ht hr hg hh hreq hheld
    rw [tokenSignal_split_twinA hm hf ha, hreq, hheld, Pair.arbitrate_free ht hr hg hh]
  case lower =>
    intro tok gnt ha hg hh hheld
    rw [tokenSignal_split_twinA hm hf ha, hheld, Pair.arbitrate_heldFell hg hh]
  case receive =>
    intro tok gnt hb ht hu hg
    rw [tokenSignal_split_twinB hm hf hb]
    exact ⟨fun hr => by rw [Pair.seeGrant_requesting ht hu hg hr], fun hr => by rw [Pair.seeGrant_withdrawn ht hu hg hr]⟩
  case handover =>
    intro r hr hst hm hp ht
    constructor
    · intro ha hreq hq
      rw [handoverStep_due hr hst (handoverDue_twinA hm hp ht ha hreq hq), handOver_twinA hm hp ha hreq]
    · intro hb hrel
      rw [handoverStep_due hr hst (handoverDue_twinB hm hp ht hb hrel r.queue), handOver_twinB hb]

end Sys2Proof.Machine

/-! Writing 1 to the valid bit of a record (03 R92, 13 R312, 15 R363, R364): a write at the register port, and what each such
register makes of it. -/

namespace Sys2Proof.Machine

open Sys2Proof

/-! ### A write at the register port -/

theorem portWrite_live {s : State} {a : BitVec 16} (h : s.Live) (ha : a.toNat % 4 = 0) (hs : stallAddr a.toNat = false) (v : Word) :
    portWrite s a v = (regWrite s a.toNat v).drive (.reg 0 false) := by
  simp only [State.Live] at h
  simp [portWrite, State.upToDate, h, ha, hs]

/-- A write that stops no queue drops nothing that a queue waits for. -/
theorem State.dropStopped_of_enable {s t : State} (h : ∀ q, (s.queue q).enable = true → (t.queue q).enable = true) :
    s.dropStopped t = t := by
  refine List.foldl_fixed' (fun q => if_neg ?_) allQ
  cases he : (s.queue q).enable
  · simp
  · simp [h q he]

theorem regPort_of_regWrite {s t : State} {a : BitVec 16} {v : Word} (h : s.Live) (ha : a.toNat % 4 = 0)
    (hs : stallAddr a.toNat = false) (hw : regWrite s a.toNat v = t)
    (he : ∀ q, (s.queue q).enable = true → (t.queue q).enable = true) :
    s.regPort a v = t.drive (.reg 0 false) := by
  rw [State.regPort, portWrite_live h ha hs, hw]
  exact State.dropStopped_of_enable he

/-! ### The records -/

@[simp] theorem Quad.get_map {α : Type} (f : α → α) (x : Quad α) (q : BitVec 2) : (x.map f).get q = f (x.get q) := by
  rcases queue_cases q with rfl | rfl | rfl | rfl <;> rfl

theorem clearTrap_eq (s : State) (v : Word) : clearTrap s v = { s with
    trap := if v.getLsbD 31 then {} else s.trap
    queues := if v.getLsbD 31 then s.queues.map (fun x => { x with halted := false }) else s.queues } := by
  unfold clearTrap
  split <;> rfl

/-- Letting the halted queues fetch again enables and disables none. -/
theorem clearTrap_enable (s : State) (v : Word) (q : BitVec 2) : ((clearTrap s v).queue q).enable = (s.queue q).enable := by
  unfold clearTrap
  split
  · simp [State.queue]
  · rfl

theorem clearEccLog_eq (s : State) (v : Word) :
    clearEccLog s v = { s with err := { s.err with eccLog0 := if v.getLsbD 31 then 0 else s.err.eccLog0 } } := by
  unfold clearEccLog
  split <;> rfl

theorem clearErrRecord_eq (s : State) (v : Word) :
    clearErrRecord s v = { s with err := { s.err with record := if v.getLsbD 31 then {} else s.err.record } } := by
  unfold clearErrRecord
  split <;> rfl

theorem clearDiverge_eq (s : State) (v : Word) :
    clearDiverge s v = { s with pair := { s.pair with diverge := if v.getLsbD 31 then {} else s.pair.diverge } } := by
  unfold clearDiverge
  split <;> rfl

/-- Settles O12: each row is a write at its record's address, which clears that record alone. -/
theorem recordClears : Obligations.RecordClears := by
  intro v s hs
  refine ⟨congrArg Host.Outcome.next ?trap, congrArg Host.Outcome.next ?ecc, congrArg Host.Outcome.next ?err,
    congrArg Host.Outcome.next ?diverge⟩
  case trap =>
    rw [regPort_of_regWrite (a := 0x1400) (t := clearTrap s v) hs rfl rfl rfl fun q h => by rwa [clearTrap_enable], clearTrap_eq]
    rfl
  case ecc =>
    rw [regPort_of_regWrite (a := 0x2010) hs rfl rfl (clearEccLog_eq s v) fun _ h => h]
    rfl
  case err =>
    rw [regPort_of_regWrite (a := 0x2040) hs rfl rfl (clearErrRecord_eq s v) fun _ h => h]
    rfl
  case diverge =>
    rw [regPort_of_regWrite (a := 0x0444) hs rfl rfl (clearDiverge_eq s v) fun _ h => h]
    rfl

end Sys2Proof.Machine

/-! The commit of a unit (03 R84, R91, 10 R256, 12 R304): its writes are issued, its counts and its first NaN event become visible,
or its NaN event or a failing row ends the command. -/

namespace Sys2Proof.Machine

open Sys2Proof

/-! ### Issuing writes outside LOCKSTEP -/

theorem State.leads_of_not_lockstep {s : State} (h : s.pair.mode ≠ .lockstep) : s.leads = false := by
  simp [State.leads, h]

/-- Issuing the outbox leaves what neither setting the outbox nor issuing a write changes. -/
theorem State.pump_frame {γ : Type} (p : State → γ)
    (ho : ∀ (s : State) bs, p { s with port := { s.port with outbox := bs } } = p s)
    (hw : ∀ (s : State) b, p (s.issueWrite b).1 = p s) (s : State) : p s.pump = p s := by
  have from_frame (bs : List WriteBeat) (s : State) : p (s.pumpFrom bs) = p s := by
    induction bs generalizing s with
    | nil => exact ho s []
    | cons b bs ih =>
      have hb := hw s b
      unfold State.pumpFrom
      split
      case h_1 s' e => rw [ih, ← hb, e]
      case h_2 s' e => rw [ho, ← hb, e]
  exact from_frame _ s

theorem State.requestXlat_writes (s : State) (owner page kind pos va : Nat) :
    (s.requestXlat owner page kind pos va).port.writes = s.port.writes := by
  unfold State.requestXlat
  split
  · rfl
  · split <;> rfl

/-- A write that is issued awaits its response; no comparison holds it. -/
theorem State.issueWrite_alone {s : State} (h : s.leads = false) (b : WriteBeat) :
    (s.issueWrite b).1.leads = false ∧
    (s.issueWrite b).1.port.writes.length = s.port.writes.length + (s.issueWrite b).2.toNat := by
  unfold State.issueWrite
  split
  · exact ⟨by simpa [State.leads, State.isA] using h, by rw [State.requestXlat_writes]; rfl⟩
  · split
    · exact ⟨h, rfl⟩
    · rw [if_neg (by simp [h])]
      exact ⟨h, by simp [State.driveWrite]⟩

/-- Issuing loses no write and makes none. -/
theorem State.pumpFrom_writes {s : State} (h : s.leads = false) (bs : List WriteBeat) :
    (s.pumpFrom bs).port.writes.length + (s.pumpFrom bs).port.outbox.length = s.port.writes.length + bs.length := by
  induction bs generalizing s with
  | nil => rfl
  | cons b bs ih =>
    obtain ⟨hl, hw⟩ := State.issueWrite_alone h b
    unfold State.pumpFrom
    split
    case h_1 s' e =>
      rw [e] at hl hw
      have hw : s'.port.writes.length = s.port.writes.length + 1 := hw
      rw [ih (s := s') hl, List.length_cons]
      omega
    case h_2 s' e =>
      rw [e] at hw
      have hw : s'.port.writes.length = s.port.writes.length := hw
      rw [hw]

theorem State.pumpRun_alone {s : State} {r : Running} (hm : r.mirror = false) (h : s.leads = false) : s.pumpRun r = s.pump := by
  simp [State.pumpRun, hm, h]

theorem State.pumpRun_done {s : State} {r : Running} (hm : r.mirror = false) (h : s.leads = false) (hd : s.writesDone = true) :
    s.pumpRun r = s := by
  have ho : s.port.outbox = [] := by
    simp only [State.writesDone, Bool.and_eq_true, List.isEmpty_iff] at hd
    obtain ⟨⟨ho, -⟩, -⟩ := hd
    exact ho
  rw [State.pumpRun_alone hm h, State.pump, ho]
  show { s with port := { s.port with outbox := [] } } = s
  rw [← ho]

/-- The unit in hand has put its writes `bs` behind those that wait, has issued what can be issued, and waits for the responses. -/
structure State.UnitIssued (s : State) (r : Running) (bs : List WriteBeat) (t : State) : Prop where
  run : t.run = some { r with stage := .commit true }
  writes : t.port.writes.length + t.port.outbox.length = s.port.writes.length + s.port.outbox.length + bs.length
  arch : t.arch = s.arch
  num : t.num = s.num
  cnt : t.cnt = s.cnt
  trap : t.trap = s.trap
  queues : t.queues = s.queues
  ring : t.ring = s.ring

/-- Both kinds of unit issue their writes by posting them and pumping. -/
theorem State.unitIssued {s : State} {r : Running} (hm : r.mirror = false) (h : s.leads = false) (bs : List WriteBeat) :
    s.UnitIssued r bs { (s.post bs).pumpRun r with run := some { r with stage := .commit true } } := by
  have hp : (s.post bs).leads = false := h
  rw [State.pumpRun_alone hm hp]
  exact {
    run := rfl
    writes := by simpa [State.pump, Nat.add_assoc] using State.pumpFrom_writes hp (s.post bs).port.outbox
    arch := State.pump_frame (·.arch) (fun _ _ => rfl) State.issueWrite_arch _
    num := State.pump_frame (·.num) (fun _ _ => rfl) State.issueWrite_num _
    cnt := State.pump_frame (·.cnt) (fun _ _ => rfl) State.issueWrite_cnt _
    trap := State.pump_frame (·.trap) (fun _ _ => rfl) State.issueWrite_trap _
    queues := State.pump_frame (·.queues) (fun _ _ => rfl) State.issueWrite_queues _
    ring := State.pump_frame (·.ring) (fun _ _ => rfl) State.issueWrite_ring _ }

/-! ### What a commit makes visible -/

/-- The trap record after a commit: the first NaN event fills it when it is empty (03 R89). -/
def Pend.trapAfter (p : Pend) (r : Running) (old : Rec5) : Rec5 :=
  match p.nan with
  | none => old
  | some e => if old.w0.getLsbD 31 then old else e.record r.queue r.ws

theorem State.commitPend_eq (s : State) (r : Running) (p : Pend) :
    s.commitPend r p = { s with cnt := s.cnt.raiseAll p.counts, trap := p.trapAfter r s.trap } := by
  unfold State.commitPend Pend.trapAfter
  cases p.nan with
  | none => rfl
  | some e =>
    simp only [State.fillTrap]
    split <;> rfl

/-- The next band changes only where the walk stands. -/
theorem Running.nextBand_eq (r : Running) (bands upb : Nat) :
    ∃ u st f sk, r.nextBand bands upb = { r with unit := u, stage := st, front := f, skipped := sk } := by
  unfold Running.nextBand
  dsimp only
  split
  · split <;> exact ⟨_, _, _, _, rfl⟩
  · split
    · split <;> exact ⟨_, _, _, _, rfl⟩
    · exact ⟨_, _, _, _, rfl⟩

/-- The next unit is the next block of the band; after the band's last, the next band is chosen. -/
theorem Running.nextUnit_eq (r : Running) (bands upb : Nat) :
    ∃ u st f sk, r.nextUnit bands upb = { r with pend := {}, pass := 0, unit := u, stage := st, front := f, skipped := sk } ∧
      ((r.unit + 1) % upb ≠ 0 → u = r.unit + 1 ∧ st = .load) := by
  unfold Running.nextUnit
  dsimp only
  split
  case isTrue h => exact ⟨_, _, _, _, rfl, fun _ => ⟨rfl, rfl⟩⟩
  case isFalse h =>
    obtain ⟨u, st, f, sk, e⟩ := Running.nextBand_eq { r with pend := {}, pass := 0 } bands upb
    exact ⟨u, st, f, sk, e, fun hn => absurd hn (by simpa using h)⟩

/-! ### The end of a command, and the NaN event that halts -/

/-- Where no reply waits and the partner runs no band, the command is gone and its reply waits. -/
theorem State.EndedWith.free {s t : State} {r : Running} {x : Say} {ks : List Nat} (h : s.EndedWith r t x ks)
    (hw : s.ring.waiting = []) (hc : r.claimed = []) :
    t.run = none ∧ t.ring = { s.ring with waiting := [r.reply x] } ∧ t.cnt = s.cnt.raiseEach ks := by
  exact ⟨by simp [h.run, hw], by simp [h.ring, hw], by simp [h.cnt, hc]⟩

theorem State.endRun_writes (s : State) {r : Running} (h : r.stolen = none) (x : Say) (ks : List Nat) :
    (s.endRun r x ks).port.writes = s.port.writes := by
  have hc (s : State) : (ks.foldl (fun s k => s.count k) s).port.writes = s.port.writes :=
    foldl_frame (·.port.writes) State.count (fun _ _ => rfl) _ _
  have hl (s : State) (r : Running) : (s.leave r).port.writes = s.port.writes := by
    show (s.abandonSegment r).releaseToken.port.writes = _
    simp
  unfold State.endRun
  rw [if_neg (by simp [h])]
  simp only [State.giveFinal_port]
  split
  · simp [hc, hl]
  · split <;> simp [hc, hl]

/-- Under trap_mode 1 a reply says nothing of NaN events (12 R292). -/
theorem Running.reply_nanSeen {r : Running} (h : r.cfg.trapMode = true) (b : Bool) (x : Say) :
    { r with nanSeen := b }.reply x = r.reply x := by
  simp [Running.reply, Running.op, Running.ws, h]

@[simp] theorem State.haltQueue_run (s : State) (q : BitVec 2) : (s.haltQueue q).run = s.run := rfl
@[simp] theorem State.haltQueue_arch (s : State) (q : BitVec 2) : (s.haltQueue q).arch = s.arch := rfl
@[simp] theorem State.haltQueue_cnt (s : State) (q : BitVec 2) : (s.haltQueue q).cnt = s.cnt := rfl
@[simp] theorem State.haltQueue_ring (s : State) (q : BitVec 2) : (s.haltQueue q).ring = s.ring := rfl
@[simp] theorem State.haltQueue_trap (s : State) (q : BitVec 2) : (s.haltQueue q).trap = s.trap := rfl
@[simp] theorem State.haltQueue_writes (s : State) (q : BitVec 2) : (s.haltQueue q).port.writes = s.port.writes := rfl

@[simp] theorem State.haltQueue_self (s : State) (q : BitVec 2) :
    (s.haltQueue q).queue q = { s.queue q with halted := true, fetch := .idle } := by
  unfold State.haltQueue State.discardFetch
  rw [State.setQueue_self, State.queue_of_queues (State.dropReads_queues _ _), State.setQueue_self]

section Trap

variable {r : Running} (hn : r.traps = true)

include hn

theorem Running.trapMode_of_traps : r.cfg.trapMode = true := by
  simp only [Running.traps, Bool.and_eq_true] at hn
  exact hn.1

theorem Running.nan_of_traps : ∃ e, r.pend.nan = some e := by
  simp only [Running.traps, Bool.and_eq_true, Option.isSome_iff_exists] at hn
  exact hn.2

/-- A NaN event under trap_mode 1 commits its counts and its record, ends the command and halts its queue (03 R91). -/
theorem State.endTrap_halts {s : State} (hs : r.stolen = none) (hc : r.claimed = []) (hw : s.ring.waiting = []) :
    (s.endTrap r).run = none ∧ (s.endTrap r).arch = s.arch ∧
    (s.endTrap r).cnt = (s.cnt.raiseAll r.pend.counts).raise cNANTRAP 1 ∧ (s.endTrap r).port.writes = s.port.writes ∧
    (s.endTrap r).ring = { s.ring with waiting := [r.reply { status := 0x30 }] } ∧
    (s.endTrap r).queue r.queue = { s.queue r.queue with halted := true, fetch := .idle } ∧
    (s.endTrap r).trap = r.pend.trapAfter r s.trap := by
  have he := State.endRun_ended (s.commitPend r r.pend) { r with nanSeen := true } { status := 0x30 } [cNANTRAP] hs
  rw [State.endTrap, State.haltQueue_self, State.queue_of_queues he.queues]
  simp only [State.haltQueue_run, State.haltQueue_arch, State.haltQueue_cnt, State.haltQueue_ring, State.haltQueue_trap,
    State.haltQueue_writes, he.arch, he.trap, State.endRun_writes (r := { r with nanSeen := true }) _ hs]
  rw [State.commitPend_eq] at he ⊢
  obtain ⟨hrun, hring, hcnt⟩ := he.free hw hc
  exact ⟨hrun, rfl, hcnt, rfl, by rw [hring, Running.reply_nanSeen (Running.trapMode_of_traps hn)], rfl, rfl⟩

end Trap

/-! ### The row -/

theorem exec_tileCommit {r : Running} {s : State} (hs : s.Live) (hr : s.Runs r r.op) (m : Mishap) :
    exec (.tileCommit m) s = .next (commitStep s r m) := by
  show functional s _ = _
  rw [functional_live hs, State.onAny_of hr.run hr.own hr.works]

section Commit

variable {r : Running} {s : State} (hf : s.port.faultOf 0 = none)

include hf

theorem commitStep_forms (h : r.stage = .commit false) : commitStep s r .none = formUnit s r := by
  simp only [commitStep, ownCmd, hf, h]
  rfl

variable (hm : r.mirror = false) (hl : s.leads = false) (hd : s.writesDone = true)

include hm hl hd

theorem commitStep_finishes (h : r.stage = .commit true) (m : Mishap) : commitStep s r m = finishUnit s r := by
  simp [commitStep, ownCmd, hf, h, State.pumpRun_done hm hl hd, hd]

theorem commitStep_ends (ho : suspends r.op = true) (h : r.stage = .trailer true) (m : Mishap) : commitStep s r m = endTrailer s r := by
  simp [commitStep, ownCmd, hf, h, ho, State.pumpRun_done hm hl hd, hd]

end Commit

/-! ### Tiles, bands and array blocks -/

/-- The unit in hand is a tile, a merge's band, or an array block without an epilogue. -/
def Running.Tiled (r : Running) : Prop :=
  r.op ∈ [oQUANT, oCOPY, oSEAL, oMERGE] ∨ (r.op = oPRODUCT ∧ pProg r.ws = none) ∨ (r.op = oLINK ∧ r.link.phase ≠ 1)

/-- How many units such a command has, where they follow one another in order. -/
def Running.unitsTotal (r : Running) (g : Geom) : Nat :=
  if r.op = oPRODUCT then r.blocksTotal g else if r.op = oMERGE then r.mergeBands else r.tileTotal

theorem tileOp_cases {n : Nat} (h : n ∈ [oQUANT, oCOPY, oSEAL, oMERGE]) : n ≠ oCHAIN ∧ n ≠ oEXPORT ∧ n ≠ oPRODUCT ∧ n ≠ oLINK := by
  fin_cases h <;> decide

theorem formUnit_tiled {r : Running} (h : r.Tiled) (hs : r.stolen = none) (s : State) : formUnit s r = tileForm s r := by
  rcases h with h | ⟨ho, hp⟩ | ⟨ho, hp⟩
  · obtain ⟨hc, he, hp, hl⟩ := tileOp_cases h
    simp [formUnit, hc, he, hp, hl]
  · simp [formUnit, productForm, ho, hp, oPRODUCT, oCHAIN, oEXPORT]
  · simp [formUnit, linkForm, ho, hp, hs, oPRODUCT, oCHAIN, oEXPORT, oLINK]

theorem tileForm_issues {r : Running} (hn : r.traps = false) (s : State) :
    tileForm s r = { (s.post r.kept).pumpRun r with run := some { r with stage := .commit true } } := by
  simp [tileForm, hn]

theorem tileForm_traps {r : Running} (hn : r.traps = true) (s : State) : tileForm s r = s.dropOutbox.endTrap r := by
  simp [tileForm, hn]

/-- The command after the commit of a tile, a band or an array block: `r2` has done one unit more, and nothing of it is pending. -/
structure Running.UnitDone (r r2 : Running) : Prop where
  nanSeen : r2.nanSeen = (r.nanSeen || r.pend.nan.isSome)
  tilesDone : r2.tilesDone = r.tilesDone + 1
  pend : r2.pend = {}
  acc : r2.acc = r.next

theorem Running.nextQuery_done (r : Running) (total : Nat) :
    r.UnitDone ({ r with nanSeen := r.nanSeen || r.pend.nan.isSome }.nextQuery total) := by
  obtain ⟨u, st, f, sk, e⟩ := Running.nextBand_eq { r with
    nanSeen := r.nanSeen || r.pend.nan.isSome, tilesDone := r.tilesDone + 1, pend := {}, pass := 0, acc := r.next, link := {}
    prod := { counted := r.prod.counted } } total 1
  rw [Running.nextQuery, e]
  exact ⟨rfl, rfl, rfl, rfl⟩

/-- A tile, a band or an array block commits, and the next unit in order follows; after the last, the writes after the units. -/
theorem finishUnit_tiled {r : Running} (h : r.Tiled) (hs : r.stolen = none) (s : State) :
    ∃ r2, finishUnit s r = { s.commitPend r r.pend with run := some r2 } ∧ r.UnitDone r2 ∧
      (r.op ≠ oLINK → r2.unit = r.unit + 1 ∧
        r2.stage = if r.unit + 1 ≥ r.unitsTotal (geomOf s.straps.mxaGeom) then .trailer false else .load) := by
  rcases h with h | ⟨ho, hp⟩ | ⟨ho, hp⟩
  · obtain ⟨hc, he, hp, hl⟩ := tileOp_cases h
    have e : finishUnit s r = tileFinish s r (r.unitsTotal (geomOf s.straps.mxaGeom)) := by
      simp [finishUnit, Running.unitsTotal, hc, he, hp, hl]
    exact ⟨_, e, ⟨rfl, rfl, rfl, rfl⟩, fun _ => ⟨rfl, rfl⟩⟩
  · have e : finishUnit s r = { s.commitPend r r.pend with
        run := some ({ r with nanSeen := r.nanSeen || r.pend.nan.isSome }.nextBlock (r.unitsTotal (geomOf s.straps.mxaGeom))) } := by
      simp [finishUnit, productFinish, Running.unitsTotal, ho, hp, oPRODUCT, oCHAIN, oEXPORT]
    exact ⟨_, e, ⟨rfl, rfl, rfl, rfl⟩, fun _ => ⟨rfl, rfl⟩⟩
  · have e : finishUnit s r = linkFinish s r (geomOf s.straps.mxaGeom) := by
      simp [finishUnit, linkCommit, ho, hp, oPRODUCT, oCHAIN, oEXPORT, oLINK]
    rw [linkFinish, if_neg (by simp [hs])] at e
    exact ⟨_, e, Running.nextQuery_done _ _, fun hn => absurd ho hn⟩

/-! ### Blocks of a chain -/

theorem formUnit_chain {r : Running} (h : r.op = oCHAIN ∨ r.op = oEXPORT) (s : State) : formUnit s r = chainForm s r := by
  simp [formUnit, h]

theorem finishUnit_chain {r : Running} (h : r.op = oCHAIN ∨ r.op = oEXPORT) (s : State) : finishUnit s r = chainFinish s r := by
  simp [finishUnit, h]

/-- What the commit of a block whose stores all passed their checks adds to the command, before its walk goes on. -/
def Running.blockDone (r : Running) (s : State) (band tile : Nat) (ph : Phase) : Running :=
  { r with
    acc := chainCrcs s r r.walk band tile (chainStats r r.walk tile ph)
    chunks := if tile + 1 = r.walk.nt then [] else r.chunks
    nanSeen := r.nanSeen || (r.pend.stored (chainStored s r r.walk band tile)).nan.isSome
    tilesDone := r.tilesDone + 1 }

section Chain

variable {r : Running} {s : State} {band tile : Nat} {ph : Phase} (hw : r.walk.place r.unit = (band, tile, ph)) (hph : ph ≠ .collect)
  (hn : r.traps = false)

include hw hph hn

/-- A block's stores and, with its last block, its band's statistics are issued. -/
theorem chainForm_stores (hp : statPoison s r r.walk band (chainStats r r.walk tile ph) = none)
    (hx : (chainStored s r r.walk band tile).fail = none) :
    chainForm s r = { (s.post ((chainStored s r r.walk band tile).beats ++ (chainStats r r.walk tile ph).flatMap
      (recordBeats s r (r.walk.d.view r.walk.tr) band))).pumpRun r with run := some { r with stage := .commit true } } := by
  simp [chainForm, hw, hph, hn, hp, hx]

/-- A block commits with its band's parts of the CRCs, and the next block of the band follows. -/
theorem chainFinish_commits (hs : r.stolen = none) (hx : (chainStored s r r.walk band tile).fail = none) :
    chainFinish s r = { s.commitPend r (r.pend.stored (chainStored s r r.walk band tile)) with
      run := some ((r.blockDone s band tile ph).nextUnit r.walk.bands r.walk.upb) } := by
  simp [chainFinish, hw, hph, hn, hx, hs, Running.blockDone, State.commitPend_eq, Pend.trapAfter, Running.ws]

theorem chainFinish_fails {reg row : Nat} (hx : (chainStored s r r.walk band tile).fail = some (reg, row)) :
    chainFinish s r = s.endRowCheck r
      { kind := 2, source := 1, band := band, colTile := tile * r.walk.P.width / tileWidth r.walk.d.format
        register := reg, row := row } := by
  simp [chainFinish, hw, hph, hn, hx]

end Chain

/-! ### A failing row -/

theorem State.recordErr_status (s : State) (q : BitVec 2) (e : ErrRec) : (s.recordErr q e).err.status = s.err.status := by
  unfold State.recordErr
  split <;> rfl

theorem State.endError_status {r : Running} (hs : r.stolen = none) (s : State) (k : Nat) (e : ErrRec) :
    (s.endError r k e).err.status = s.err.status ||| BitVec.ofNat 13 (1 <<< k) := by
  rw [State.endError, if_neg (by simp [hs]), State.recordErr_status]
  rfl

/-- A row whose check fails ends the command with ST_ROW_CHECK (10 R256). -/
theorem State.endRowCheck_ends {s : State} {r : Running} (hs : r.stolen = none) (hc : r.claimed = []) (hw : s.ring.waiting = [])
    (e : ErrRec) :
    (s.endRowCheck r e).run = none ∧ (s.endRowCheck r e).arch = s.arch ∧ (s.endRowCheck r e).cnt = s.cnt.raise cROWCHECK 1 ∧
    (s.endRowCheck r e).err.status = s.err.status ||| 8 ∧
    (s.endRowCheck r e).ring = { s.ring with waiting := [r.reply { status := 0x32 }] } := by
  have he := State.endRun_ended s r { status := 0x32 } [cROWCHECK] hs
  obtain ⟨hrun, hring, hcnt⟩ := he.free hw hc
  rw [State.endRowCheck, if_neg (by simp [hs])]
  rw [State.endError_run, State.endError_arch, State.endError_cnt, State.endError_ring, State.endError_status hs, he.arch, he.err]
  exact ⟨hrun, rfl, hcnt, rfl, hring⟩

/-! ### The end of the command -/

theorem endTrailer_ends {r : Running} (hs : r.stolen = none) (s : State) :
    s.EndedWith r (endTrailer s r) (if r.op = oPRODUCT ∨ r.op = oLINK then
      { status := 0, index := 0xFF, value := r.segL (geomOf s.straps.mxaGeom) } else { status := 0 }) [] := by
  simp only [endTrailer, Bool.or_eq_true, decide_eq_true_eq]
  split
  · exact s.endRun_ended r _ _ hs
  · exact s.endOk_ended r hs

/-- Settles O52: each stage is one branch of `commitStep`, which issues the unit's writes, commits it, or ends the command. -/
theorem unitsCommit : Obligations.UnitsCommit := by
  intro r s hs hr hf hm
  have hl := State.leads_of_not_lockstep hm
  have hstolen := hr.whole
  simp only [exec_tileCommit hs hr]
  refine ⟨fun (ht : r.Tiled) => ⟨fun hst => ?form, fun hst hd => ?finish⟩,
    fun band tile ph x es ho hp hph hx hes => ⟨fun hst hpo hok hn => ?chainForm, fun hst hd hn hok => ?chainFinish,
      fun reg row hst hd hn hbad hw hc => ?rowCheck⟩, fun ho hst hd => ?ends⟩
  case form =>
    rw [commitStep_forms hf hst, formUnit_tiled ht hstolen]
    constructor
    · intro hn
      have h := State.unitIssued hr.own hl r.kept
      exact ⟨_, congrArg _ (tileForm_issues hn s), h.run, h.arch, h.writes, h.cnt, h.trap, h.queues, h.ring, h.num⟩
    · intro hn hc hw
      obtain ⟨hrun, harch, hcnt, hwrites, hring, hqueue, htrap⟩ := State.endTrap_halts (s := s.dropOutbox) hn hstolen hc hw
      obtain ⟨e, he⟩ := Running.nan_of_traps hn
      refine ⟨_, congrArg _ (tileForm_traps hn s), hrun, harch, hcnt, hwrites, hring, hqueue, e, he, ?_⟩
      rw [htrap, Pend.trapAfter, he]
      rfl
  case finish =>
    obtain ⟨r2, e, h, hnext⟩ := finishUnit_tiled ht hstolen s
    rw [commitStep_finishes hf hr.own hl hd hst, e, State.commitPend_eq]
    exact ⟨_, r2, rfl, rfl, rfl, rfl, rfl, rfl, rfl, rfl, h.nanSeen, h.tilesDone, h.pend, h.acc, hnext⟩
  case chainForm =>
    subst hx hes
    rw [commitStep_forms hf hst, formUnit_chain ho, chainForm_stores hp hph hn hpo hok]
    have h := State.unitIssued hr.own hl ((chainStored s r r.walk band tile).beats ++
      (chainStats r r.walk tile ph).flatMap (recordBeats s r (r.walk.d.view r.walk.tr) band))
    exact ⟨_, rfl, h.run, h.arch, h.cnt, h.ring, h.queues, h.writes⟩
  case chainFinish =>
    subst hx hes
    rw [commitStep_finishes hf hr.own hl hd hst, finishUnit_chain ho, chainFinish_commits hp hph hn hstolen hok, State.commitPend_eq]
    obtain ⟨u, st, f, sk, e, hnext⟩ := (r.blockDone s band tile ph).nextUnit_eq r.walk.bands r.walk.upb
    rw [e]
    exact ⟨_, _, rfl, rfl, rfl, rfl, rfl, rfl, rfl, rfl, rfl, rfl, hnext⟩
  case rowCheck =>
    subst hx
    rw [commitStep_finishes hf hr.own hl hd hst, finishUnit_chain ho, chainFinish_fails hp hph hn hbad]
    obtain ⟨hrun, harch, hcnt, herr, hring⟩ := State.endRowCheck_ends hstolen hc hw _
    exact ⟨_, rfl, hrun, harch, hcnt, herr, hring⟩
  case ends =>
    rw [commitStep_ends hf hr.own hl hd ho hst]
    exact ⟨_, rfl, endTrailer_ends hstolen s⟩

end Sys2Proof.Machine

/-! Pieces of the commands that run programs or the array (04 R93, R126; 15 R353, R354, R360; 01 R37, R38; 08 R218; 09 R226; 10 R249):
a pass of a chain and its mishaps, the wait for the token, and what a PRODUCT_RUN and a LINK_RUN begin with. -/

namespace Sys2Proof.Machine

open Sys2Proof

/-! ### The rows -/

section Rows

variable {r : Running} {s : State} (hs : s.Live)

include hs

theorem exec_chain {op : Nat} (ho : op = 0x03 ∨ op = 0x08) (hr : s.Runs r op) (m : Mishap) :
    exec (if op = 0x03 then .chainRun m else .partialExport m) s = .next (chainStep s r m) := by
  rcases ho with rfl | rfl
  · exact (functional_live hs _).trans (congrArg _ (State.onRun_of hr.run hr.op hr.own hr.works _))
  · exact (functional_live hs _).trans (congrArg _ (State.onRun_of hr.run hr.op hr.own hr.works _))

theorem exec_productRun (hr : s.Runs r 0x04) (m : Mishap) : exec (.productRun m) s = .next (productStep s r m) := by
  show functional s (s.onRun oPRODUCT _) = _
  rw [functional_live hs, State.onRun_of hr.run (op := oPRODUCT) hr.op hr.own hr.works, if_neg (by simp [mirrorDrains, hr.own])]

theorem exec_linkRun (hr : s.Runs r 0x05) (m : Mishap) : exec (.linkRun m) s = .next (linkStepRun s r m) := by
  show functional s (s.onRun oLINK _) = _
  rw [functional_live hs, State.onRun_of hr.run (op := oLINK) hr.op hr.own hr.works, if_neg (by simp [mirrorDrains, hr.own])]

end Rows

section Stages

variable {r : Running} {s : State} (hf : s.port.faultOf 0 = none)

include hf

theorem chainStep_passes (h : r.stage = .passes) (m : Mishap) : chainStep s r m = chainPass s r m := by
  simp [chainStep, ownCmd, hf, h]

theorem productStep_token (h : r.stage = .token) : productStep s r .none = tokenStep s r := by
  simp only [productStep, ownCmd, hf, h]
  rfl

theorem productStep_load (h : r.stage = .load) :
    productStep s r .none = productLoad s r (r.prodSeg (geomOf s.straps.mxaGeom)) := by
  simp only [productStep, ownCmd, hf, h]
  rfl

theorem linkStepRun_token (h : r.stage = .token) : linkStepRun s r .none = tokenStep s r := by
  simp only [linkStepRun, ownCmd, hf, h]
  rfl

/-- A query block begins: no report of a stolen one waits to commit before it. -/
theorem linkStepRun_begins (h : r.stage = .load) (hb : r.link.begun = false) (hp : r.reports = []) :
    linkStepRun s r .none = { s with
      arch := r.initStats (geomOf s.straps.mxaGeom) s.arch (some f32NegInf) 0
      run := some { r with link := { begun := true, pass2 := !r.exactMode } } } := by
  have hn : r.reportsBefore r.unit = [] := by simp [Running.reportsBefore, hp]
  simp only [linkStepRun, ownCmd, hf, h, hb, hn, commitReports, linkLoad]
  rfl

end Stages

/-- Both kinds of array command wait for the token in the same way (08 R218). -/
theorem exec_array_token {r : Running} {s : State} {op : Nat} (hs : s.Live) (hf : s.port.faultOf 0 = none) (ho : op = 0x04 ∨ op = 0x05)
    (hr : s.Runs r op) (h : r.stage = .token) :
    exec (if op = 0x04 then .productRun .none else .linkRun .none) s = .next (tokenStep s r) := by
  rcases ho with rfl | rfl
  · rw [← productStep_token hf h]
    exact exec_productRun hs hr _
  · rw [← linkStepRun_token hf h]
    exact exec_linkRun hs hr _

/-! ### Residue failures of one retry unit -/

/-- A piece of work of one retry unit meets the failure of that unit (15 R353). -/
theorem ofUnits_one {f : ResidueFail} (h : f.unit = 0) : ofUnits ⟨[f], []⟩ 1 = ⟨[f], []⟩ := by
  simp [ofUnits, upToTwice, h]

theorem fatal_one (f : ResidueFail) : fatal ⟨[f], []⟩ = f.twice := by
  cases h : f.twice <;> simp [fatal, failureOf, h]

/-- A rerun that passes leaves its counts and ERR_STATUS.residue_retry (15 R353, R362). -/
theorem State.residue_retried {f : ResidueFail} (h : f.twice = false) (s : State) : s.residue ⟨[f], []⟩ = { s with
    cnt := (s.cnt.raise cRESERR 1).raise cRESRETRY 1
    err := { s.err with status := s.err.status ||| 0x20 } } := by
  simp only [State.residue, List.foldl_cons, List.foldl_nil, State.residueFail, h]
  rfl

theorem State.residue_failed {f : ResidueFail} (h : f.twice = true) (s : State) :
    s.residue ⟨[f], []⟩ = { s with cnt := (s.cnt.raise cRESERR 2).raise cRESRETRY 1 } := by
  simp only [State.residue, List.foldl_cons, List.foldl_nil, State.residueFail, h]
  rfl

/-! ### Ends that leave an error record -/

/-- The command `r` has ended on error `k` of ERR_STATUS (15 R362): its reply says `x` and waits alone, the counters are `c`, and it leaves
the storages and the queues as they were in `s`. -/
structure State.EndedOnError (s : State) (r : Running) (x : Say) (k : Nat) (c : Counters) (t : State) : Prop where
  run : t.run = none
  arch : t.arch = s.arch
  cnt : t.cnt = c
  status : t.err.status = s.err.status ||| BitVec.ofNat 13 (1 <<< k)
  queues : t.queues = s.queues
  ring : t.ring = { s.ring with waiting := [r.reply x] }

section Ends

variable {r : Running} {s : State} (hs : r.stolen = none) (hw : s.ring.waiting = []) (hc : r.claimed = [])

include hs hw hc

theorem State.endRun_endError (x : Say) (ks : List Nat) (k : Nat) (e : ErrRec) :
    s.EndedOnError r x k (s.cnt.raiseEach ks) ((s.endRun r x ks).endError r k e) := by
  have he := State.endRun_ended s r x ks hs
  obtain ⟨hrun, hring, hcnt⟩ := he.free hw hc
  exact {
    run := by rw [State.endError_run, hrun]
    arch := by rw [State.endError_arch, he.arch]
    cnt := by rw [State.endError_cnt, hcnt]
    status := by rw [State.endError_status hs, he.err]
    queues := by rw [State.endError_queues, he.queues]
    ring := by rw [State.endError_ring, hring] }

theorem State.endPoison_ends (hm : r.mirror = false) (i : Nat) (e : ErrRec) :
    s.EndedOnError r { status := 0x31, index := i } 2 (s.cnt.raise cPOISON 1) (s.endPoison r i e) := by
  rw [State.endPoison, if_neg (by simp [hm])]
  exact State.endRun_endError hs hw hc _ [cPOISON] _ _

theorem State.endResidue_ends {f : ResidueFail} (ht : f.twice = true) (e : ErrRec) :
    s.EndedOnError r { status := 0x36 } 4 ((s.cnt.raise cRESERR 2).raise cRESRETRY 1) (s.endResidue r ⟨[f], []⟩ e) := by
  rw [State.endResidue, State.residue_failed ht]
  exact { State.endRun_endError (s := { s with cnt := (s.cnt.raise cRESERR 2).raise cRESRETRY 1 }) hs hw hc _ [] _ _ with }

end Ends

/-! ### A pass -/

/-- The piece of a chain run is a pass of the command's program over the block where its walk stands (04 R126). -/
theorem chainPass_place {r : Running} {s : State} {band tile : Nat} {ph : Phase} (h : r.walk.place r.unit = (band, tile, ph)) (m : Mishap) :
    chainPass s r m = passStep s r r.prog (r.blk s r.walk band tile) (r.walk.passes ph).2 m := by
  simp only [chainPass, h]
  rfl

section Pass

variable {r : Running} {s : State} {P : Prog} {b : Blk}

section Done

variable {a : Arch} {p : Pend} {ch : List (Nat × Nat × List (Nat × ChunkRec))}
  (h : runPass s.arch b (r.captured P) (P.pass r.pass) r.pend = .done a p ch)

include h

/-- A pass that ends changes the storages, and the next follows, or the commit; its retried units have counted. -/
theorem passStep_done {m : Mishap} (he : m.ecc = []) (hm : fatal (ofUnits m 1) = false) (stop : Nat) :
    passStep s r P b stop m = { (s.residue (ofUnits m 1)).drawFree with
      arch := a
      run := some { r with pend := p, pass := r.pass + 1, chunks := r.chunks ++ chunkWords P ch
                           stage := if r.pass + 1 ≥ stop then .commit false else .passes } } := by
  have hn : s.eccHits m = s := by rw [State.eccHits, he]; rfl
  simp [passStep, hn, h, hm]

/-- A pass that fails the residue check twice ends the command, and what it computed is dropped (15 R354). -/
theorem passStep_fails {f : ResidueFail} (hu : f.unit = 0) (ht : f.twice = true) (stop : Nat) :
    ∃ e, passStep s r P b stop ⟨[f], []⟩ = s.endResidue r ⟨[f], []⟩ e := by
  have hn : s.eccHits ⟨[f], []⟩ = s := rfl
  simp only [passStep, hn, h, ofUnits_one hu, fatal_one, ht]
  exact ⟨_, rfl⟩

end Done

/-- A pass that meets poison ends the command before it computes anything (15 R359, R360). -/
theorem passStep_poison {u : Uop} {x : PoisonAt} (h : runPass s.arch b (r.captured P) (P.pass r.pass) r.pend = .poison u x)
    (stop : Nat) : ∃ e, passStep s r P b stop .none = s.endPoison r 0xFF e := by
  have hn : s.eccHits .none = s := rfl
  simp only [passStep, hn, h]
  exact ⟨_, rfl⟩

end Pass

/-! ### The array token -/

theorem Pair.detached_iff {p : Pair} : p.detached = true ↔ p.partner = .detached ∨ p.partner = .failed := by
  simp [Pair.detached]

theorem Pair.not_detached_iff {p : Pair} : p.detached = false ↔ p.partner ≠ .detached ∧ p.partner ≠ .failed := by
  simp [Pair.detached]

/-- Nobody can contend for the token: the twin holds it (01 R37). -/
theorem State.takeToken_alone {s : State} (h : s.pair.mode ≠ .split ∨ s.pair.detached = true) :
    ∃ p, s.takeToken = { s with pair := p } ∧ p.token = true ∧ p.request = true := by
  simp only [Pair.detached_iff] at h
  refine ⟨_, rfl, ?_⟩
  cases ht : s.pair.token
  · simp [ht, Pair.detached_iff, h]
  · simp [ht]

section Split

variable {s : State} (hm : s.pair.mode = .split) (hd : s.pair.detached = false) (ht : s.pair.token = false)

include hm hd ht

/-- Twin B asks, and waits for the grant (17 R409). -/
theorem State.takeToken_twinB (hb : s.straps.twinSide = true) : s.takeToken = { s with pair := { s.pair with request := true } } := by
  rw [Pair.not_detached_iff] at hd
  simp [State.takeToken, State.isA, hm, Pair.detached_iff, hd, ht, hb]

variable (ha : s.straps.twinSide = false) (hg : s.pair.grant = false) (hh : s.pair.partnerHeld = false)

include ha hg hh

/-- Twin A takes a free token that the partner does not want, or that is not the partner's to win (01 R37). -/
theorem State.takeToken_twinA_wins (h : s.pair.partnerReq = false ∨ s.pair.everGranted = false ∨ s.pair.lastSelf = false) :
    s.takeToken = { s with pair := { s.pair with request := true, token := true, everGranted := true, lastSelf := true } } := by
  rw [Pair.not_detached_iff] at hd
  have hn : (s.pair.partnerReq && s.pair.everGranted && s.pair.lastSelf) = false := by
    rcases h with h | h | h <;> simp [h]
  simp [State.takeToken, State.isA, hm, Pair.detached_iff, hd, ht, ha, hg, hh, hn]

/-- Of two simultaneous requests, the partner's wins where twin A held the token last (01 R37). -/
theorem State.takeToken_twinA_grants (hr : s.pair.partnerReq = true) (he : s.pair.everGranted = true) (hl : s.pair.lastSelf = true) :
    s.takeToken = { s with pair := { s.pair with request := true, grant := true, lastSelf := false } } := by
  rw [Pair.not_detached_iff] at hd
  simp [State.takeToken, State.isA, hm, Pair.detached_iff, hd, ht, ha, hg, hh, hr, he, hl]

end Split

theorem State.yieldDue_alone {s : State} (h : s.pair.mode ≠ .split ∨ s.pair.detached = true) (r : Running) : s.yieldDue r = false := by
  rcases h with h | h <;> simp [State.yieldDue, State.handoverDue, h]

theorem State.yieldDue_without {s : State} (h : s.pair.token = false) (r : Running) : s.yieldDue r = false := by
  simp [State.yieldDue, State.handoverDue, h]

section Token

variable {r : Running} {s : State} (hm : r.mirror = false) (hy : s.yieldDue r = false) {p : Pair} (h : s.takeToken = { s with pair := p })

include hm hy h

/-- A command that has the token stages. -/
theorem tokenStep_takes (ht : p.token = true) :
    tokenStep s r = { s with pair := p, run := some { r with stage := .staging 0 } } := by
  simp [tokenStep, hm, hy, h, ht]

/-- A command that has not got the token waits where it stands. -/
theorem tokenStep_waits (ht : p.token = false) : tokenStep s r = { s with pair := p } := by
  simp [tokenStep, hm, hy, h, ht]

end Token

/-! ### The gather indices of a block -/

/-- `x` differs from `r` at most in what is pending and in what its array block keeps. -/
def Running.SameButBlock (r x : Running) : Prop := x = { r with pend := x.pend, prod := x.prod }

theorem Running.SameButBlock.counted {r x : Running} (h : r.SameButBlock x) (p : Pend) (c : ProdState) :
    r.SameButBlock { x with pend := p, prod := c } := by
  unfold SameButBlock at h ⊢
  rw [h]

/-- Counting the clamped indices of some operands counts them, band by band, as pending (03 R438). -/
theorem Seg.countClamps_same (g : Seg) (xs : List Side) {r x : Running} (h : r.SameButBlock x) : r.SameButBlock (g.countClamps xs x) := by
  refine List.foldlRecOn _ _ h fun y hy side _ => ?_
  refine List.foldlRecOn _ _ hy fun z hz band _ => ?_
  dsimp only
  split
  · exact hz
  · exact hz.counted _ _

/-- With its gather indices in hand a block waits for the token (10 R249). -/
theorem productLoad_ready {s u : State} {r : Running} {g : Seg} {buf : Sparse RdLine} (h : s.askRun r (g.indexLines r [g.a, g.b]) = .ready u buf) :
    ∃ r1, productLoad s r g = { u with run := some r1 } ∧ r1 = { r with stage := .token, prod := r1.prod, pend := r1.pend } := by
  have hi : r.SameButBlock { r with prod := { r.prod with index := g.keepIndex r [g.a, g.b] buf } } := rfl
  have hc := g.countClamps_same [g.a, g.b] hi
  simp only [productLoad, h]
  refine ⟨_, rfl, ?_⟩
  rw [hc]

/-- Settles O58: each row is one stage of its command, and each mishap one way in which a pass ends. -/
theorem programPasses : Obligations.ProgramPasses := by
  intro r s hs hf
  refine ⟨?pass, ?residue, ?poison, ?token, ?indices, ?link⟩
  case pass =>
    intro op band tile ph a p ch ho hr hst hw hp
    rw [exec_chain hs ho hr, chainStep_passes hf hst, chainPass_place hw, passStep_done hp rfl rfl]
    rfl
  case residue =>
    intro op band tile ph a p ch f ho hr hst hw hp hu
    rw [exec_chain hs ho hr, chainStep_passes hf hst, chainPass_place hw]
    constructor
    · intro ht
      rw [passStep_done hp rfl (by rw [ofUnits_one hu, fatal_one, ht]), ofUnits_one hu, State.residue_retried ht]
      rfl
    · intro ht hring hc
      obtain ⟨e, he⟩ := passStep_fails hp hu ht (r.walk.passes ph).2
      have h := State.endResidue_ends hr.whole hring hc ht e
      exact ⟨_, congrArg _ he, h.run, h.arch, h.cnt, h.status, h.queues, h.ring⟩
  case poison =>
    intro op band tile ph u x ho hr hst hw hp hring hc
    rw [exec_chain hs ho hr, chainStep_passes hf hst, chainPass_place hw]
    obtain ⟨e, he⟩ := passStep_poison hp (r.walk.passes ph).2
    have h := State.endPoison_ends hr.whole hring hc hr.own 0xFF e
    exact ⟨_, congrArg _ he, h.run, h.arch, h.cnt, h.status, h.queues, h.ring⟩
  case token =>
    intro op ho hr hst
    rw [exec_array_token hs hf ho hr hst]
    refine ⟨fun h => ?alone, fun hm hd ht => ?split⟩
    case alone =>
      obtain ⟨p, e, htok, hreq⟩ := State.takeToken_alone h
      rw [tokenStep_takes hr.own (State.yieldDue_alone h r) e htok]
      exact ⟨_, rfl, rfl, htok, hreq⟩
    case split =>
      have hy := State.yieldDue_without ht r
      refine ⟨fun hb => ?_, fun ha hg hh h => ?_, fun ha hg hh hq he hl => ?_⟩
      · rw [tokenStep_waits hr.own hy (State.takeToken_twinB hm hd ht hb) ht]
      · rw [tokenStep_takes hr.own hy (State.takeToken_twinA_wins hm hd ht ha hg hh h) rfl]
      · rw [tokenStep_waits hr.own hy (State.takeToken_twinA_grants hm hd ht ha hg hh hq he hl) ht]
  case indices =>
    intro u buf hr hst h
    obtain ⟨r1, e, hr1⟩ := productLoad_ready h
    exact ⟨r1, by rw [exec_productRun hs hr, productStep_load hf hst, e], hr1⟩
  case link =>
    intro hr hst hb hp
    rw [exec_linkRun hs hr, linkStepRun_begins hf hst hb hp]

end Sys2Proof.Machine

/-! A sidecar word by its fields (07 R177), and what its reader takes from them (07 R178). -/

namespace Sys2Proof.Machine

open Sys2Proof

theorem bits_eq_div_mod (n lo len : Nat) : bits n lo len = n / 2 ^ lo % 2 ^ len := by
  rw [bits, Nat.shiftRight_eq_div_pow]

/-! ### The fields of a word of stars -/

theorem sidecarWord_one (i v : Nat) : sidecarWord [(i, v)] = i + 1024 + v * 65536 := by
  show i + 1 <<< 10 + v <<< 16 = _
  omega

theorem sidecarWord_two (i v j u : Nat) : sidecarWord [(i, v), (j, u)] = i + j * 32 + 2048 + v * 65536 + u * 4294967296 := by
  show i + j <<< 5 + 2 <<< 10 + v <<< 16 + u <<< 32 = _
  omega

/-! ### Reading a word by its count -/

section Read

variable {word scale len : Nat} (hw : word < 2 ^ 48) (hs : scale < 255)

include hw hs

/-- A word of stars is not read as a zero block's or a NaN block's. -/
theorem readSidecar_flags_clear : (bit word 49 || scale % 256 = 255) = false ∧ bit word 48 = false := by
  have h49 : word.testBit 49 = false := Nat.testBit_lt_two_pow (by omega)
  have h48 : word.testBit 48 = false := Nat.testBit_lt_two_pow hw
  have hm : scale % 256 ≠ 255 := by omega
  simp [bit, h49, h48, hm]

theorem readSidecar_of_count_zero (hc : bits word 10 2 = 0) : readSidecar word scale len = (.stars [], false) := by
  obtain ⟨hnan, hzero⟩ := readSidecar_flags_clear hw hs
  simp [readSidecar, hnan, hzero, hc]

theorem readSidecar_of_count_one (hc : bits word 10 2 = 1) (h0 : bits word 0 5 < len) :
    readSidecar word scale len = (.stars [(bits word 0 5, bits word 16 16)], false) := by
  obtain ⟨hnan, hzero⟩ := readSidecar_flags_clear hw hs
  simp [readSidecar, hnan, hzero, hc, h0]

theorem readSidecar_of_count_two (hc : bits word 10 2 = 2) (h0 : bits word 0 5 < len) (h1 : bits word 5 5 < len)
    (hne : bits word 0 5 ≠ bits word 5 5) :
    readSidecar word scale len = (.stars [(bits word 0 5, bits word 16 16), (bits word 5 5, bits word 32 16)], false) := by
  obtain ⟨hnan, hzero⟩ := readSidecar_flags_clear hw hs
  simp [readSidecar, hnan, hzero, hc, h0, h1, hne]

end Read

theorem readSidecar_sidecarWord_one {scale len i v : Nat} (hs : scale < 255) (hi : i < 32) (hl : i < len) (hv : v < 65536) :
    readSidecar (sidecarWord [(i, v)]) scale len = (.stars [(i, v)], false) := by
  rw [sidecarWord_one]
  generalize hword : i + 1024 + v * 65536 = word
  have hw : word < 2 ^ 48 := by omega
  have hc : bits word 10 2 = 1 := by rw [bits_eq_div_mod]; omega
  have hi0 : bits word 0 5 = i := by rw [bits_eq_div_mod]; omega
  have hv0 : bits word 16 16 = v := by rw [bits_eq_div_mod]; omega
  rw [readSidecar_of_count_one hw hs hc (by rwa [hi0]), hi0, hv0]

theorem readSidecar_sidecarWord_two {scale len i v j u : Nat} (hs : scale < 255) (hi : i < 32) (hil : i < len) (hv : v < 65536)
    (hj : j < 32) (hjl : j < len) (hu : u < 65536) (hne : i ≠ j) :
    readSidecar (sidecarWord [(i, v), (j, u)]) scale len = (.stars [(i, v), (j, u)], false) := by
  rw [sidecarWord_two]
  generalize hword : i + j * 32 + 2048 + v * 65536 + u * 4294967296 = word
  have hw : word < 2 ^ 48 := by omega
  have hc : bits word 10 2 = 2 := by rw [bits_eq_div_mod]; omega
  have hi0 : bits word 0 5 = i := by rw [bits_eq_div_mod]; omega
  have hj1 : bits word 5 5 = j := by rw [bits_eq_div_mod]; omega
  have hv0 : bits word 16 16 = v := by rw [bits_eq_div_mod]; omega
  have hu1 : bits word 32 16 = u := by rw [bits_eq_div_mod]; omega
  rw [readSidecar_of_count_two hw hs hc (by rwa [hi0]) (by rwa [hj1]) (by rwa [hi0, hj1]), hi0, hj1, hv0, hu1]

/-- A scale other than the NaN code leaves a zero block's word to be read as such (07 R179). -/
theorem readSidecar_zeroSidecar {scale : Nat} (hs : scale < 255) (len : Nat) : readSidecar zeroSidecar scale len = (.zero, false) := by
  have h49 : bit zeroSidecar 49 = false := by decide
  have h48 : bit zeroSidecar 48 = true := by decide
  have hm : scale % 256 ≠ 255 := by omega
  simp [readSidecar, h49, h48, hm]

/-- A NaN block's word is read as such beside any scale (07 R180). -/
theorem readSidecar_nanSidecar (scale len : Nat) : readSidecar nanSidecar scale len = (.nan, false) := by
  have h49 : bit nanSidecar 49 = true := by decide
  simp [readSidecar, h49]

/-- Settles O60: the fields of a word lie apart, and its count tells its reader which of them are stars. -/
theorem sidecarRoundTrip : Obligations.SidecarRoundTrip := by
  intro scale len hs
  refine ⟨?none, fun i v hi hl hv => readSidecar_sidecarWord_one hs hi hl hv,
    fun i v j u hi hil hv hj hjl hu hne => readSidecar_sidecarWord_two hs hi hil hv hj hjl hu hne,
    readSidecar_zeroSidecar hs len, readSidecar_nanSidecar scale len⟩
  case none =>
    have hc : bits (sidecarWord []) 10 2 = 0 := by decide
    exact readSidecar_of_count_zero (by decide) hs hc

end Sys2Proof.Machine

/-! What the stores of a tile keep (10 R242, R248), and a QUANTIZE whose row-scale output has more rows than its payload. -/

namespace Sys2Proof.Machine

open Sys2Proof

/-! ### The beats of a tile -/

/-- The row that a command writes of a tile: its codes, and nothing but zero after them. -/
def tileRowOf (r : Running) (d : Desc) (row : List Nat × Bool) : TileRow :=
  freshRow r.producer d.format row.2 (BitVec.ofNat 1024 (pack (fmtBits d.format) row.1))

/-- A row that the command has just formed passes its check, and its beats follow those of the rows before it. -/
theorem Stored.row_tileRowOf {x : Stored} (h : x.fail = none) (r : Running) (d e : Desc) (pos reg i rho c0 n : Nat) (row : List Nat × Bool) :
    (x.row d pos reg i rho c0 n (tileRowOf r e row)).fail = none ∧
    (x.row d pos reg i rho c0 n (tileRowOf r e row)).beats = x.beats ++ (storeBeats d pos rho c0 n (tileRowOf r e row)).1 := by
  simp [Stored.row, tileRowOf, h]

/-- The beats of a tile's rows, in their order. -/
def tileBeats (r : Running) (d : Desc) (pos band c0 n : Nat) (rows : Nat → List Nat × Bool) : List WriteBeat :=
  (List.range (rowsIn (d.rLocal false) (32 * band))).flatMap fun i =>
    (storeBeats d pos (32 * band + i) c0 n (tileRowOf r d (rows i))).1

theorem tileStored_beats {x : Stored} (h : x.fail = none) (r : Running) (d : Desc) (pos band c0 n : Nat) (rows : Nat → List Nat × Bool) :
    (tileStored x r d pos band c0 n rows).fail = none ∧
    (tileStored x r d pos band c0 n rows).beats = x.beats ++ tileBeats r d pos band c0 n rows := by
  unfold tileStored tileBeats
  generalize List.range (rowsIn (d.rLocal false) (32 * band)) = l
  induction l generalizing x with
  | nil => exact ⟨h, (List.append_nil _).symm⟩
  | cons i l ih =>
    obtain ⟨hf, hb⟩ := Stored.row_tileRowOf h r d d pos 0x7F i (32 * band + i) c0 n (rows i)
    obtain ⟨hfail, hbeats⟩ := ih hf
    refine ⟨hfail, hbeats.trans ?_⟩
    rw [hb, List.flatMap_cons, List.append_assoc]

/-! ### The row of a QUANTIZE -/

theorem exec_quantize_load {r : Running} {s : State} (hs : s.Live) (hr : s.Runs r 0x06) (hf : s.port.faultOf 0 = none)
    (hst : r.stage = .load) : exec (.quantize .none) s = .next (quantTile s r .none) := by
  show functional s (s.onRun oQUANT _) = _
  rw [functional_live hs, State.onRun_of hr.run (op := oQUANT) hr.op hr.own hr.works]
  simp only [quantStep, State.unlessFault, ownCmd, hf, hst]
  rfl

/-! ### A row-scale output with more rows than the payload -/

/-- The words of the descriptor of a matrix of one row dimension, its rows `pitch` bytes apart (10 R238). -/
def matrixWords (base format rows cols pitch : Nat) : List Word :=
  words ([base, 0, 1, format <<< 28 + 1 <<< 24] ++ List.replicate 8 0 ++ [cols, cols, 0, 1, 1 <<< 28, rows, rows, 0, pitch, 1 <<< 28] ++
    List.replicate 10 0)

/-- A QUANTIZE of one row of 32 FP32 elements to FP4, without sidecar and row scales read, whose row-scale output names two rows. Each
descriptor is legal by itself; fetch refuses their shapes together (07 R183), which `State.Runs` does not ask. -/
def tallScales : Running :=
  { queue := 2, home := 1, packet := words [0x06000200, 7, 0, 0, 0, 0x06000000, 0], cfg := {}, almanac := 0
    descs := [matrixWords 0x1000 0 1 32 128, matrixWords 0x8000 7 1 32 16, matrixWords 0x9000 12 1 1 1, List.replicate 32 0,
      List.replicate 32 0, matrixWords 0xA000 0 2 1 4] }

/-- That command executes, and its source row is here. -/
def tallScalesHere : State :=
  { State.reset with run := some tallScales, port := { State.reset.port with buf := [(0, 0x20, { data := 0 })] } }

/-- The data of the last beat that the executing command keeps for its commit. -/
def State.lastKept (s : State) : Option Line := s.run.bind fun r => r.kept.getLast?.map (·.data)

theorem tallScalesHere_live : tallScalesHere.Live := rfl

theorem tallScalesHere_runs : tallScalesHere.Runs tallScales 0x06 :=
  ⟨rfl, by decide +kernel, rfl, rfl, rfl⟩

/-- The model stores zero in the second row, of which the payload has no row scale. -/
theorem quantTile_tallScales_lastKept : (quantTile tallScalesHere tallScales .none).lastKept = some 0 := by decide +kernel

/-- What has been read of the source. -/
def tallScalesBuf : Sparse RdLine := [(0x20, { data := 0 })]

theorem tallScalesHere_ready :
    tallScalesHere.askRun tallScales (wantAt 0 (bandLines (tallScales.desc 0) (tallScales.desc 0).transpose (32 * 0) 0 32) ++
      if false then wantAt 4 (bandLines (tallScales.desc 4) (tallScales.desc 4).transpose (32 * 0) 0 1) else []) =
    .ready { tallScalesHere with port := { tallScalesHere.port with buf := [] } } tallScalesBuf := by decide +kernel

/-- Row `i` of the row-scale output as the obligation states it: r_i × 2^b, whether or not the payload has a row i. -/
def statedScale (i : Nat) : List Nat × Bool :=
  ([(convert tallScales.cfg.ctx 0 0 0 (xscale (rowScale tallScalesBuf tallScales (32 * 0 + i)).1 (toSigned 8 (pf tallScales.ws 6 22 8)))).1], false)

/-- Stated so, the second row holds 1.0. -/
theorem tileBeats_statedScale_getLast? :
    (tileBeats tallScales (tallScales.desc 5) 5 0 0 1 statedScale).getLast?.map (·.data) = some (BitVec.ofNat 1024 (0x3F800000 <<< 32)) := by
  decide +kernel

/-- Refutes O57: where rs_out has more rows than the payload (which fetch refuses, but the premises do not), a row with no row scale is
stored as zero, while the statement has r_i × 2^b in every row of rs_out. -/
theorem not_tensorCommands : ¬ Obligations.TensorCommands := by
  intro h
  obtain ⟨-, hwork⟩ := h tallScales tallScalesHere tallScalesHere_live
  obtain ⟨-, -, -, -, hquant, -⟩ := hwork rfl
  obtain ⟨hclean, -⟩ := hquant _ _ 0 0 0 32 1 _ _ false tallScalesHere_runs rfl (by decide +kernel) (by decide +kernel) (by decide +kernel)
    (by decide +kernel) (by decide +kernel) (by decide +kernel) tallScalesHere_ready rfl rfl
  obtain ⟨x, x2, x3, x4, p, next, f, he, hx, hx2, hx3, hx4, -⟩ := hclean (by decide +kernel)
  have hf : x.fail = none := hx ▸ (tileStored_beats rfl ..).1
  have hf2 : x2.fail = none := hx2 ▸ (tileStored_beats hf ..).1
  have hf3 : x3.fail = none := by
    rw [hx3]
    split
    · exact (tileStored_beats hf2 ..).1
    · exact hf2
  have hrow : x4 = tileStored x3 tallScales (tallScales.desc 5) 5 0 0 1 statedScale := by
    rw [hx4, if_pos (by decide +kernel)]
    rfl
  have hstated : (x4.beats.getLast?).map (·.data) = some (BitVec.ofNat 1024 (0x3F800000 <<< 32)) := by
    rw [hrow, (tileStored_beats hf3 ..).2, List.getLast?_append, Option.map_or, tileBeats_statedScale_getLast?]
    rfl
  rw [exec_quantize_load tallScalesHere_live tallScalesHere_runs rfl rfl] at he
  have hkept : x4.beats.getLast?.map (·.data) = some 0 := by
    rw [← quantTile_tallScales_lastKept, Host.Outcome.next.inj he]
    rfl
  exact absurd (hstated.symm.trans hkept) (by decide +kernel)

end Sys2Proof.Machine

/-! The queue registers (12 R273, R274, R277): a write at an offset of a queue, which writes are ignored, and what stopping a queue
drops. -/

namespace Sys2Proof.Machine

open Sys2Proof

/-! ### A write at an offset of a queue -/

/-- The offsets of a queue's ring base, tail and control. -/
def ringOffsets : List Nat := [0x00, 0x04, 0x08, 0x10]

theorem regWrite_queueAddr {o : Nat} (ho : o ∈ ringOffsets) (s : State) (q : BitVec 2) (v : Word) :
    regWrite s (queueAddr q o).toNat v = writeQueue s q o v := by
  fin_cases ho <;> rcases queue_cases q with rfl | rfl | rfl | rfl <;> rfl

theorem queueAddr_legal {o : Nat} (ho : o ∈ ringOffsets) (q : BitVec 2) :
    (queueAddr q o).toNat % 4 = 0 ∧ stallAddr (queueAddr q o).toNat = false := by
  fin_cases ho <;> rcases queue_cases q with rfl | rfl | rfl | rfl <;> exact ⟨rfl, rfl⟩

/-- A write at such an offset that stops no queue. -/
theorem regPort_queueAddr {s t : State} {o : Nat} {q : BitVec 2} {v : Word} (h : s.Live) (ho : o ∈ ringOffsets)
    (hw : writeQueue s q o v = t) (he : ∀ p, (s.queue p).enable = true → (t.queue p).enable = true) :
    s.regPort (queueAddr q o) v = t.drive (.reg 0 false) := by
  obtain ⟨ha, hs⟩ := queueAddr_legal ho q
  exact regPort_of_regWrite h ha hs ((regWrite_queueAddr ho s q v).trans hw) he

/-- Replacing a queue by one that is enabled where it was stops none. -/
theorem State.setQueue_enable {s : State} {q : BitVec 2} {x : Queue} (hx : (s.queue q).enable = true → x.enable = true)
    (p : BitVec 2) (hp : (s.queue p).enable = true) : ((s.setQueue q x).queue p).enable = true := by
  by_cases h : p = q
  case pos => subst h; rw [State.setQueue_self]; exact hx hp
  case neg => rwa [State.setQueue_other s p q x h]

/-- Nor does a write that is either counted as ignored or replaces such a queue. -/
theorem State.ignoredOr_enable {c : Prop} [Decidable c] {s t : State}
    (h : ∀ p, (s.queue p).enable = true → (t.queue p).enable = true) (p : BitVec 2) (hp : (s.queue p).enable = true) :
    ((if c then s.ignored else t).queue p).enable = true := by
  split
  · exact hp
  · exact h p hp

/-- A size that is not reserved is taken (12 R273). -/
theorem RingBase.withHi_of_lt {v : Word} (h : (v.extractLsb' 28 4).toNat < 13) (b : RingBase) :
    b.withHi v = { b with hi := v.extractLsb' 0 20, size := v.extractLsb' 28 4 } := by
  have hn : ¬ v.extractLsb' 28 4 ≥ 13 := Nat.not_le.mpr h
  rw [RingBase.withHi, if_neg hn]

theorem writeReplyTail_eq (s : State) (v : Word) :
    writeReplyTail s v = if (v.extractLsb' 0 16).toNat ≥ s.ring.base.entries then s.ignored else
      { s with ring := { s.ring with tail := v.extractLsb' 0 16, irq := s.ring.irq && v.extractLsb' 0 16 != s.ring.head } } := by
  have hne : decide (v.extractLsb' 0 16 ≠ s.ring.head) = (v.extractLsb' 0 16 != s.ring.head) := by simp [bne, beq_eq_decide]
  rw [writeReplyTail, hne]

/-- Settles O9: each row is a write at its register's address, which is ignored or replaces one field. -/
theorem ringRegisterWrites : Obligations.RingRegisterWrites := by
  intro s v hs
  refine ⟨fun q => congrArg Host.Outcome.next ?tail, congrArg Host.Outcome.next ?replyTail, fun q => congrArg Host.Outcome.next ?lo,
    fun q hq => congrArg Host.Outcome.next ?hi, congrArg Host.Outcome.next ?replyLo, fun hr => congrArg Host.Outcome.next ?replyHi⟩
  case tail => exact regPort_queueAddr hs (by decide) rfl (State.ignoredOr_enable (State.setQueue_enable id))
  case replyTail =>
    exact regPort_of_regWrite (a := 0x0C08) hs rfl rfl (writeReplyTail_eq s v) (State.ignoredOr_enable fun _ h => h)
  case lo => exact regPort_queueAddr hs (by decide) rfl (State.ignoredOr_enable (State.setQueue_enable id))
  case hi =>
    refine regPort_queueAddr hs (by decide) ?_ (State.ignoredOr_enable (State.setQueue_enable id))
    show (if (s.queue q).enable then s.ignored else s.setQueue q { s.queue q with base := (s.queue q).base.withHi v }) = _
    split
    case isTrue => rfl
    case isFalse he => rw [RingBase.withHi_of_lt (hq.resolve_left he)]
  case replyLo => exact regPort_of_regWrite (a := 0x0C00) hs rfl rfl rfl (State.ignoredOr_enable fun _ h => h)
  case replyHi =>
    refine regPort_of_regWrite (a := 0x0C04) hs rfl rfl ?_ (State.ignoredOr_enable fun _ h => h)
    show (if s.anyEnabled then s.ignored else { s with ring := { s.ring with base := s.ring.base.withHi v } }) = _
    split
    case isTrue => rfl
    case isFalse he => rw [RingBase.withHi_of_lt (hr.resolve_left he)]

/-! ### Starting and stopping a queue -/

/-- What a stopped queue waited for is dropped, and nothing of another. -/
theorem State.dropStopped_of_stopped {s t : State} {q : BitVec 2} (hs : (s.queue q).enable = true) (ht : (t.queue q).enable = false)
    (ho : ∀ p, p ≠ q → t.queue p = s.queue p) : s.dropStopped t = t.dropReads (ownFetch q) := by
  have others (l : List (BitVec 2)) (u : State) (hu : u.queues = t.queues) (hl : q ∉ l) :
      l.foldl (fun t q => if (s.queue q).enable && !(t.queue q).enable then t.dropReads (ownFetch q) else t) u = u := by
    induction l with
    | nil => rfl
    | cons p l ih =>
      obtain ⟨hp, hl⟩ := not_or.mp (List.mem_cons.not.mp hl)
      rw [List.foldl_cons, if_neg (by simp [State.queue_of_queues hu, ho p (Ne.symm hp)]), ih hl]
  obtain ⟨l₁, l₂, he, h₁, h₂⟩ : ∃ l₁ l₂, allQ = l₁ ++ q :: l₂ ∧ q ∉ l₁ ∧ q ∉ l₂ := by
    rcases queue_cases q with rfl | rfl | rfl | rfl
    · exact ⟨[], [1, 2, 3], by decide⟩
    · exact ⟨[0], [2, 3], by decide⟩
    · exact ⟨[0, 1], [3], by decide⟩
    · exact ⟨[0, 1, 2], [], by decide⟩
  rw [State.dropStopped, he, List.foldl_append, others l₁ t rfl h₁, List.foldl_cons, if_pos (by simp [hs, ht]),
    others l₂ _ (State.dropReads_queues t _) h₂]

theorem writeCtrl_enables {v : Word} (hv : v.getLsbD 31 = true) (s : State) (q : BitVec 2) :
    writeCtrl s q v = { s.setQueue q { s.queue q with enable := true, preemptLower := v.getLsbD 30 } with
      ring := { s.ring with faulted := false } } := by
  simp only [writeCtrl, hv]
  rfl

theorem writeCtrl_stops {v : Word} (hv : v.getLsbD 31 = false) (s : State) (q : BitVec 2) :
    writeCtrl s q v = s.setQueue q { s.queue q with enable := false, preemptLower := v.getLsbD 30, fetch := .idle } := by
  simp only [writeCtrl, hv]
  rfl

/-- Settles O10: the control register enables its queue or stops it, and stopping one that was enabled drops what it waited for. -/
theorem queueControlWrite : Obligations.QueueControlWrite := by
  intro q v s hs
  refine ⟨fun hv => congrArg Host.Outcome.next ?enabled, fun hv he => congrArg Host.Outcome.next ?stopped,
    fun hv he => congrArg Host.Outcome.next ?wasStopped⟩
  case enabled => exact regPort_queueAddr hs (by decide) (writeCtrl_enables hv s q) (State.setQueue_enable fun _ => rfl)
  case stopped =>
    obtain ⟨ha, hn⟩ := queueAddr_legal (o := 0x10) (by decide) q
    rw [State.regPort, portWrite_live hs ha hn, regWrite_queueAddr (by decide)]
    show s.dropStopped ((writeCtrl s q v).drive _) = _
    rw [writeCtrl_stops hv]
    refine State.dropStopped_of_stopped he ?_ fun p hp => ?_
    · exact congrArg Queue.enable (State.setQueue_self s q _)
    · exact State.setQueue_other s p q _ hp
  case wasStopped =>
    have hw : writeQueue s q 0x10 v = _ := (writeCtrl_stops hv s q).trans (by rw [← he])
    exact regPort_queueAddr hs (by decide) hw (State.setQueue_enable id)

end Sys2Proof.Machine

/-! Shared by the queue commands: a row that advances the executing command, what a message leaves of the pair (17 R407), and what
else the end of a command leaves (12 R278). -/

namespace Sys2Proof.Machine

open Sys2Proof

/-- A row of the opcode `op` that this twin's own command executes. -/
theorem functional_onRun {s : State} {r : Running} {op : Nat} (hs : s.Live) (hr : s.Runs r op) (f : State → Running → State) :
    functional s (s.onRun op f) = .next (f s r) := by
  rw [functional_live hs, State.onRun_of hr.run hr.op hr.own hr.works]

/-! ### Messages to the partner -/

section Channel

variable {γ : Type} (p : Pair → γ) (hp : ∀ x c tx, p { x with credits := c, tx := tx } = p x)

include hp

/-- A message changes of the pair the credits and what waits for one. -/
theorem State.sendBeat_pair (s : State) (d : Line) (sb : BitVec 112) : p (s.sendBeat d sb).pair = p s.pair := by
  unfold State.sendBeat
  split
  · exact hp _ _ s.pair.tx
  · exact hp _ s.pair.credits _

theorem State.sendWords_pair (s : State) (k : Nat) (ws : List Nat) : p (s.sendWords k ws).pair = p s.pair :=
  foldl_frame (fun s => p s.pair) _ (fun s _ => State.sendBeat_pair p hp s _ _) _ s

theorem State.tell_pair (s : State) (y : Reply) : p (s.tell y).pair = p s.pair := by
  unfold State.tell
  split
  · exact State.sendWords_pair p hp s _ _
  · rfl

theorem State.tellEnd_pair (s : State) (y : Reply) : p (s.tellEnd y).pair = p s.pair := by
  unfold State.tellEnd
  split
  · exact State.sendWords_pair p hp s _ _
  · rfl

theorem State.forwardBegin_pair (s : State) (r : Running) : p (s.forwardBegin r).pair = p s.pair := by
  unfold State.forwardBegin
  split
  · exact State.sendWords_pair p hp s _ _
  · rfl

theorem State.recallBands_pair (s : State) (r : Running) : p (s.recallBands r).1.pair = p s.pair := by
  unfold State.recallBands
  split
  · rfl
  · exact State.sendBeat_pair p hp _ _ _

end Channel

/-- Forwarding a command that begins changes what a message does, and nothing else. -/
theorem State.forwardBegin_frame {γ : Type} (p : State → γ) (hw : ∀ (s : State) k ws, p (s.sendWords k ws) = p s) (s : State)
    (r : Running) : p (s.forwardBegin r) = p s := by
  unfold State.forwardBegin
  split
  · exact hw _ _ _
  · rfl

/-! ### The end of a command -/

/-- Where no reply waits, the command is gone and its reply waits, whatever bands the partner runs. -/
theorem State.EndedWith.replies {s t : State} {r : Running} {x : Say} {ks : List Nat} (h : s.EndedWith r t x ks)
    (hw : s.ring.waiting = []) : t.run = none ∧ t.ring = { s.ring with waiting := [r.reply x] } :=
  ⟨by simp [h.run, hw], by simp [h.ring, hw]⟩

theorem State.leave_stealing (s : State) (r : Running) : (s.leave r).pair.stealing = s.pair.stealing := by
  show (s.abandonSegment r).releaseToken.pair.stealing = s.pair.stealing
  rw [State.releaseToken, ← State.abandonSegment_pair s r]
  dsimp only
  split <;> rfl

theorem State.endRun_stealing (s : State) {r : Running} (h : r.stolen = none) (x : Say) (ks : List Nat) :
    (s.endRun r x ks).pair.stealing = s.pair.stealing := by
  have left (s : State) (r : Running) : (ks.foldl (fun s k => s.count k) (s.leave r)).pair.stealing = s.pair.stealing :=
    (foldl_frame (·.pair.stealing) State.count (fun _ _ => rfl) _ _).trans (State.leave_stealing s r)
  have recalled := State.recallBands_pair (·.stealing) (fun _ _ _ => rfl) s r
  unfold State.endRun
  rw [if_neg (by simp [h])]
  simp only [State.giveFinal_pair]
  split
  · exact (left _ _).trans recalled
  · split
    · exact (State.tellEnd_pair (·.stealing) (fun _ _ _ => rfl) _ _).trans ((left _ _).trans recalled)
    · exact (State.tell_pair (·.stealing) (fun _ _ _ => rfl) _ _).trans ((left _ _).trans recalled)

end Sys2Proof.Machine

/-! The commands that end as they execute (12 R284, R286, 04 R122, R124, 13 R308): what CHAIN_LOAD makes of the image that it read, and a
PAIR_MODE of this twin alone. -/

namespace Sys2Proof.Machine

open Sys2Proof

/-! ### CHAIN_LOAD -/

section Load

variable {s u : State} {r : Running} {buf : Sparse RdLine} {ws : List Nat} (hn : nth r.ws 9 ≠ 0) (hf : s.port.faultOf 0 = none)
  (ha : s.askRun r (wantAt 0xFF (byteLines (pAddr r.ws) (nth r.ws 9))) = .ready u buf)
  (hb : bufWords buf (pAddr r.ws) (nth r.ws 9 / 4) = (ws, false))

include hn hf ha hb

/-- An image without poison is refused for its first fault, registered, or refused for want of room (04 R124). -/
theorem chainLoadStep_reads : chainLoadStep s r =
    match imageFault ws (nth r.ws 9) with
    | some (why, i) => u.refuseRun r 0x07 why i 0
    | none =>
      if u.arch.fits (pf r.ws 6 26 6) ws then { u with arch := placeProgs u.arch (u.arch.progList (pf r.ws 6 26 6) ws) }.endOk r
      else u.refuseRun r 0x08 0 0 0 := by
  simp only [chainLoadStep, ownCmd, hf, ha, hb, hn]
  rfl

theorem chainLoadStep_illegal {why i : Nat} (hi : imageFault ws (nth r.ws 9) = some (why, i)) :
    chainLoadStep s r = u.refuseRun r 0x07 why i 0 := by
  rw [chainLoadStep_reads hn hf ha hb, hi]

theorem chainLoadStep_full (hi : imageFault ws (nth r.ws 9) = none) (ht : u.arch.fits (pf r.ws 6 26 6) ws = false) :
    chainLoadStep s r = u.refuseRun r 0x08 0 0 0 := by
  rw [chainLoadStep_reads hn hf ha hb, hi]
  exact if_neg (by simp [ht])

theorem chainLoadStep_registers (hi : imageFault ws (nth r.ws 9) = none) (ht : u.arch.fits (pf r.ws 6 26 6) ws = true) :
    chainLoadStep s r = { u with arch := placeProgs u.arch (u.arch.progList (pf r.ws 6 26 6) ws) }.endOk r := by
  rw [chainLoadStep_reads hn hf ha hb, hi]
  exact if_pos ht

end Load

/-! ### PAIR_MODE -/

/-- Setting the steal bit leaves what neither the bit nor a message changes. -/
theorem State.setSteal_frame {γ : Type} (p : State → γ)
    (hs : ∀ (s : State) b, p { s with pair := { s.pair with stealing := b } } = p s)
    (hb : ∀ (s : State) d sb, p (s.sendBeat d sb) = p s) (s : State) (b : Bool) : p (s.setSteal b) = p s := by
  unfold State.setSteal
  dsimp only
  split
  · exact hs s b
  · exact (hb _ _ _).trans (hs s b)

theorem State.setSteal_stealing (s : State) (b : Bool) : (s.setSteal b).pair.stealing = b := by
  unfold State.setSteal
  dsimp only
  split
  · rfl
  · exact State.sendBeat_pair (·.stealing) (fun _ _ _ => rfl) _ _ _

/-- The mode `m` is entered with steal bit `b`, and the PAIR_MODE has ended with ST_OK. -/
structure State.PairModeEntered (s : State) (r : Running) (m : Nat) (b : Bool) (t : State) : Prop where
  run : t.run = none
  arch : t.arch = s.arch
  queues : t.queues = s.queues
  ring : t.ring = { s.ring with waiting := [r.reply { status := 0 }] }
  mode : t.pair.mode = modeOf m
  stealing : t.pair.stealing = b

/-- A SPLIT pair that stays in SPLIT changes its steal bit alone (14 R335). -/
theorem endOk_setSteal_entered {s : State} {r : Running} (hs : r.stolen = none) (hw : s.ring.waiting = []) (hm : s.pair.mode = .split)
    (b : Bool) : s.PairModeEntered r 0 b ((s.setSteal b).endOk r) := by
  have h := (s.setSteal b).endOk_ended r hs
  have hring : (s.setSteal b).ring = s.ring := State.setSteal_frame (·.ring) (fun _ _ => rfl) State.sendBeat_ring s b
  obtain ⟨hrun, hreply⟩ := h.replies (by rw [hring, hw])
  exact {
    run := hrun
    arch := h.arch.trans (State.setSteal_frame (·.arch) (fun _ _ => rfl) State.sendBeat_arch s b)
    queues := h.queues.trans (State.setSteal_frame (·.queues) (fun _ _ => rfl) State.sendBeat_queues s b)
    ring := by rw [hreply, hring]
    mode := h.mode.trans ((State.setSteal_frame (·.pair.mode) (fun _ _ => rfl) State.sendBeat_mode s b).trans hm)
    stealing := (State.endRun_stealing _ hs _ _).trans (State.setSteal_stealing s b) }

/-- Entering a mode after the command has ended, then setting its steal bit. -/
theorem enter_setSteal_entered {s : State} {r : Running} (hs : r.stolen = none) (hw : s.ring.waiting = []) (m : Nat) (b : Bool) :
    s.PairModeEntered r m b ({ s.endOk r with pair := (s.endOk r).pair.enter (modeOf m) }.setSteal b) := by
  have h := s.endOk_ended r hs
  obtain ⟨hrun, hreply⟩ := h.replies hw
  exact {
    run := (State.setSteal_frame (·.run) (fun _ _ => rfl) State.sendBeat_run _ b).trans hrun
    arch := (State.setSteal_frame (·.arch) (fun _ _ => rfl) State.sendBeat_arch _ b).trans h.arch
    queues := (State.setSteal_frame (·.queues) (fun _ _ => rfl) State.sendBeat_queues _ b).trans h.queues
    ring := (State.setSteal_frame (·.ring) (fun _ _ => rfl) State.sendBeat_ring _ b).trans hreply
    mode := State.setSteal_frame (·.pair.mode) (fun _ _ => rfl) State.sendBeat_mode _ b
    stealing := State.setSteal_stealing _ b }

/-- A mode other than SPLIT is entered with the steal bit clear. -/
theorem enter_entered {s : State} {r : Running} (hs : r.stolen = none) (hw : s.ring.waiting = []) (m : Nat) :
    s.PairModeEntered r m false { s.endOk r with pair := { (s.endOk r).pair.enter (modeOf m) with stealing := false } } := by
  have h := s.endOk_ended r hs
  obtain ⟨hrun, hreply⟩ := h.replies hw
  exact ⟨hrun, h.arch, h.queues, hreply, rfl, rfl⟩

theorem pairModeStep_joint {s : State} {r : Running} (hst : r.stage ≠ .waiting) (hj : s.jointChange (pf r.ws 6 0 2) = true) :
    pairModeStep s r = { s with run := some { r with stage := .waiting } } := by
  unfold pairModeStep
  dsimp only
  split
  · contradiction
  · exact if_pos hj

/-- A change that needs no partner is made at once (13 R308). -/
theorem pairModeStep_alone {s : State} {r : Running} (hst : r.stage ≠ .waiting) (hj : s.jointChange (pf r.ws 6 0 2) = false)
    (hm : r.mirror = false) (hs : r.stolen = none) (hw : s.ring.waiting = []) :
    s.PairModeEntered r (pf r.ws 6 0 2) (decide (pf r.ws 6 0 2 = 0) && bit (nth r.ws 6) 2) (pairModeStep s r) := by
  unfold pairModeStep
  dsimp only
  split
  · contradiction
  generalize pf r.ws 6 0 2 = m at hj ⊢
  rw [if_neg (by simp [hj])]
  split
  case isTrue h =>
    obtain ⟨hsplit, rfl⟩ : s.pair.mode = .split ∧ m = 0 := by simpa using h
    exact endOk_setSteal_entered hs hw hsplit _
  case isFalse =>
    by_cases h0 : m = 0
    · simpa [h0, hm] using enter_setSteal_entered hs hw 0 (bit (nth r.ws 6) 2)
    · simpa [h0] using enter_entered hs hw m

/-- Settles O54: each command is a branch of its step, and ends with its reply or waits for the partner. -/
theorem immediateCommands : Obligations.ImmediateCommands := by
  intro r s hs
  refine ⟨fun hr => ⟨_, functional_onRun hs hr State.endOk, s.endOk_ended r hr.whole⟩,
    fun hr => ⟨_, functional_onRun hs hr configStep, State.endOk_ended _ r hr.whole⟩, fun hr h0 => ?remove,
    fun u buf ws hr hn hf ha hb => ?read, fun hr hst => ?pairMode⟩
  case remove =>
    have he : chainLoadStep s r = { s with arch := s.arch.removeProg (pf r.ws 6 26 6) }.endOk r := if_pos h0
    exact ⟨_, (functional_onRun hs hr chainLoadStep).trans (congrArg _ he), State.endOk_ended _ r hr.whole⟩
  case read =>
    have row : exec .chainLoad s = .next (chainLoadStep s r) := functional_onRun hs hr chainLoadStep
    refine ⟨fun why i hi => ?illegal, fun hi ht => ?full, fun hi ht => ?registered⟩
    case illegal => exact ⟨_, row.trans (congrArg _ (chainLoadStep_illegal hn hf ha hb hi)), u.refuseRun_ended r _ _ _ _ hr.whole⟩
    case full => exact ⟨_, row.trans (congrArg _ (chainLoadStep_full hn hf ha hb hi ht)), u.refuseRun_ended r _ _ _ _ hr.whole⟩
    case registered =>
      exact ⟨_, row.trans (congrArg _ (chainLoadStep_registers hn hf ha hb hi ht)), State.endOk_ended _ r hr.whole⟩
  case pairMode =>
    have row : exec .pairMode s = .next (pairModeStep s r) := functional_onRun hs hr pairModeStep
    refine ⟨fun hj => row.trans (congrArg _ (pairModeStep_joint hst hj)), fun hj hw => ?alone⟩
    obtain ⟨hrun, harch, hqueues, hring, hmode, hsteal⟩ := pairModeStep_alone hst hj hr.own hr.whole hw
    exact ⟨_, row, hrun, harch, hqueues, hring, hmode, hsteal⟩

end Sys2Proof.Machine

/-! The commands that wait (12 R278, R287, R289-R291, 13 R330, R332, 16 R388): QUERY's report and reply, RESUME and ABORT by their target,
and the beginning of Dusk. -/

namespace Sys2Proof.Machine

open Sys2Proof

/-! ### QUERY -/

/-- Asking for a translation changes the port and drives a request. -/
theorem State.requestXlat_eq (s : State) (owner page kind pos va : Nat) : s.requestXlat owner page kind pos va =
    { s with port := (s.requestXlat owner page kind pos va).port, wires := (s.requestXlat owner page kind pos va).wires } := by
  unfold State.requestXlat
  split
  · rfl
  · split <;> rfl

/-- Without a kept translation the first write waits for one, and all stay. -/
theorem State.pump_untranslated {s : State} (h : s.port.xlats = []) (ho : s.port.outbox ≠ []) :
    s.pump.port.outbox = s.port.outbox ∧ s.pump = { s with port := s.pump.port, wires := s.pump.wires } := by
  obtain ⟨b, bs, e⟩ := List.exists_cons_of_ne_nil ho
  have hb : s.issueWrite b = (s.requestXlat b.owner (b.vline / 32) 1 b.pos (128 * b.vline), false) := by
    simp [State.issueWrite, Port.translate, h]
  rw [State.pump, e, State.pumpFrom, hb, State.requestXlat_eq]
  exact ⟨rfl, rfl⟩

theorem plainBeats_ne_nil (va n bytes : Nat) (cls : BitVec 2) (owner pos : Nat) : plainBeats va n bytes cls owner pos ≠ [] := by
  simp [plainBeats]

section Query

variable {s : State} {r : Running} (hf : s.port.faultOf 0 = none) (hm : r.mirror = false) (hl : s.leads = false)

include hf hm hl

/-- QUERY forms the writes of its report. -/
theorem queryStep_reports (hst : r.stage = .load) : queryStep s r =
    { (s.post (plainBeats (pAddr r.ws) 256 (pack 32 ((List.range 64).map (reportWord s r))) 0 0 0xFF)).pump with
      run := some { r with stage := .trailer true } } := by
  have hw : queryWords s r = (List.range 64).map (reportWord s r) := by simp [queryWords, hm]
  have hp (bs : List WriteBeat) : (s.post bs).pumpRun r = (s.post bs).pump := State.pumpRun_alone hm hl
  simp [queryStep, ownCmd, hf, hm, hl, hst, hw, hp]

theorem queryStep_replies (hst : r.stage = .trailer true) (hd : s.writesDone = true) : queryStep s r = s.endOk r := by
  simp [queryStep, ownCmd, hf, hm, hst, State.pumpRun_done hm hl hd, hd]

end Query

/-! ### RESUME -/

/-- Beginning to execute changes the command, the pair and the mark of the stall counters. -/
theorem State.starts_eq (s : State) (r : Running) :
    s.starts r = { s with run := some r, cnt := { s.cnt with stalls := true }, pair := (s.starts r).pair } := by
  unfold State.starts State.takeToken
  dsimp only
  split <;> rfl

section Resume

variable {s u : State} {r : Running} {p : Suspended} {q : BitVec 2} (hq : q = BitVec.ofNat 2 (pf r.ws 6 0 2))

include hq

theorem resumeCommand_begins (hst : r.stage = .load) (hp : (s.queue q).susp = some p) : resumeCommand s r =
    { (if s.leads then s.sendWords 5 (2 :: s.ringWords ++ [q.toNat, pTag p.run.ws]) else s).dropXlats with
      run := some { r with stage := .restoring 0 } } := by
  subst hq
  simp only [resumeCommand, hst, hp]

theorem resumeCommand_without (hst : r.stage = .load) (hp : (s.queue q).susp = none) : resumeCommand s r = s.refuseRun r 0x16 0 0 0 := by
  subst hq
  simp only [resumeCommand, hst, hp]

variable {k : Nat} (hst : r.stage = .restoring k) (hp : (s.queue q).susp = some p) (hw : s.ring.waiting = [])

include hst hp hw

theorem resumeCommand_continues (h : s.resumeStep r p (s.queue q).ctxBase = .done u) : resumeCommand s r =
    ((u.continueRun q p r).tell (r.reply { status := 0x00 })).push (r.reply { status := 0x00 }) := by
  subst hq
  simp [resumeCommand, hst, hp, h, hw]

theorem resumeCommand_fails (h : s.resumeStep r p (s.queue q).ctxBase = .failed u) : resumeCommand s r =
    { u.resumeFailed q p with run := some { r with stage := .done, chunks := [] }, pow := s.pow } := by
  subst hq
  simp [resumeCommand, hst, hp, h, hw]

end Resume

theorem resumeCommand_replies {s : State} {r : Running} (hst : r.stage = .done) (hw : s.ring.waiting = []) :
    resumeCommand s r = s.endRun r { status := 0x15 } [] := by
  simp [resumeCommand, hst, hw]

/-- A suspended command whose image no longer stands ends with ST_ABORTED (13 R330). -/
theorem State.resumeFailed_ends {u : State} {p : Suspended} (q : BitVec 2) (hs : p.run.stolen = none) :
    (u.resumeFailed q p).err = { u.err with status := u.err.status ||| 0x200 } ∧
    (u.ring.waiting = [] → p.run.claimed = [] →
      (u.resumeFailed q p).ring = { u.ring with waiting := [p.run.reply { status := 0x35 }] } ∧
      (u.resumeFailed q p).cnt = u.cnt.raise 19 1 ∧
      (u.resumeFailed q p).queues = (u.setQueue q { u.queue q with susp := none }).queues) := by
  have h := (u.setQueue q { u.queue q with susp := none }).endRun_ended p.run { status := 0x35 } [cABORTED] hs
  refine ⟨?_, fun hw hc => ?_⟩
  · rw [State.resumeFailed, State.raiseErr, h.err]
    rfl
  · obtain ⟨-, hring, hcnt⟩ := h.free hw hc
    exact ⟨hring, hcnt, h.queues⟩

/-! ### ABORT -/

/-- ABORT has ended its target with the final reply `y`, and its own reply is left. -/
def State.targetAborted (s : State) (r : Running) (y : Reply) : State :=
  { ((s.count cABORTED).tellEnd y).push y with run := some { r with stage := .done } }

theorem State.targetAborted_fields {s : State} (hw : s.ring.waiting = []) (r : Running) (y : Reply) :
    (s.targetAborted r y).run = some { r with stage := .done } ∧ (s.targetAborted r y).queues = s.queues ∧
    (s.targetAborted r y).cnt = s.cnt.raise 19 1 ∧ (s.targetAborted r y).arch = s.arch ∧
    (s.targetAborted r y).ring = { s.ring with waiting := [y] } := by
  simp [State.targetAborted, hw, cABORTED]

section Abort

variable {s : State} {r : Running} {q : BitVec 2} (hq : q = BitVec.ofNat 2 (pf r.ws 6 0 2)) (hst : r.stage ≠ .done)
  (hw : s.ring.waiting = [])

include hq hst hw

theorem abortCommand_suspended {p : Suspended} (hp : (s.queue q).susp = some p) (ht : pTag p.run.ws = nth r.ws 7) :
    abortCommand s r = (s.setQueue q { s.queue q with susp := none }).targetAborted r (p.run.reply { status := 0x35 }) := by
  subst hq
  simp [abortCommand, State.suspendedTag, State.targetAborted, hw, hp, ht]

variable (hn : s.suspendedTag q (nth r.ws 7) = false)

include hn

theorem abortCommand_fence {ws : List Word} (hf : (s.queue q).waitFence = some ws) (ht : pTag (nats ws) = nth r.ws 7) :
    abortCommand s r =
      (s.setQueue q { s.queue q with waitFence := none }).targetAborted r (packetReply q (nats ws) { status := 0x35 }) := by
  subst hq
  simp [abortCommand, State.fenceTagWaits, State.targetAborted, hw, hn, hf, ht]

theorem abortCommand_without (hf : s.fenceTagWaits q (nth r.ws 7) = false) : abortCommand s r = s.refuseRun r 0x16 0 0 0 := by
  subst hq
  simp [abortCommand, hw, hn, hf]

end Abort

theorem abortCommand_replies {s : State} {r : Running} (hst : r.stage = .done) (hw : s.ring.waiting = []) :
    abortCommand s r = s.endOk r := by
  simp [abortCommand, hst, hw]

theorem abortCommand_waits {s : State} {r : Running} (hw : s.ring.waiting ≠ []) : abortCommand s r = s := by
  unfold abortCommand
  dsimp only
  split <;> simp [hw]

/-! ### DUSK -/

theorem State.discardFetch_queue (s : State) (q p : BitVec 2) :
    (s.discardFetch q).queue p = if p = q then { s.queue p with fetch := .idle } else s.queue p := by
  rw [State.discardFetch, State.queue_of_queues (State.dropReads_queues _ _)]
  split
  case isTrue h => rw [h, State.setQueue_self]
  case isFalse h => exact State.setQueue_other s p q _ h

/-- Every queue named loses the packet that it holds. -/
theorem discardFetch_foldl_queue (l : List (BitVec 2)) (s : State) (p : BitVec 2) :
    (l.foldl State.discardFetch s).queue p = if p ∈ l then { s.queue p with fetch := .idle } else s.queue p := by
  induction l generalizing s with
  | nil => rfl
  | cons q l ih =>
    rw [List.foldl_cons, ih, State.discardFetch_queue]
    by_cases h : p = q <;> simp [h]

/-- The array token and its request are given up; the rest of the pair stays or is that of a lowered token (01 R37). -/
theorem State.releaseToken_pair (s : State) : s.releaseToken.pair.token = false ∧ s.releaseToken.pair.claim = s.pair.claim := by
  unfold State.releaseToken
  dsimp only
  split
  case isTrue => exact ⟨rfl, rfl⟩
  case isFalse h => exact ⟨by simpa using h, rfl⟩

/-- What the beginning of Dusk makes of a twin in which nothing executes (16 R388 steps 1 and 2). -/
structure State.DuskBegun (s t : State) : Prop where
  run : t.run = none
  state : t.pow.state = .dusk
  dawnDone : t.pow.dawnDone = false
  queue : ∀ q, t.queue q = { s.queue q with fetch := .idle }
  arch : t.arch = s.arch
  num : t.num = s.num
  cnt : t.cnt = s.cnt
  ring : t.ring = s.ring
  token : t.pair.token = false
  claim : t.pair.claim = none

theorem State.startDusk_begun {s : State} (h : s.run = none) : s.DuskBegun s.startDusk := by
  have frame {γ : Type} (p : State → γ) (hp : ∀ s q, p (State.discardFetch s q) = p s) : p (allQueues.foldl State.discardFetch s) = p s :=
    foldl_frame p _ hp _ _
  have hrun := (frame (·.run) State.discardFetch_run).trans h
  have harch := frame (·.arch) State.discardFetch_arch
  have hnum := frame (·.num) State.discardFetch_num
  have hcnt := frame (·.cnt) State.discardFetch_cnt
  have hring := frame (·.ring) State.discardFetch_ring
  have hqueue (q : BitVec 2) : (allQueues.foldl State.discardFetch s).queue q = { s.queue q with fetch := .idle } := by
    have hq : q ∈ allQueues := by rcases queue_cases q with rfl | rfl | rfl | rfl <;> decide
    exact (discardFetch_foldl_queue allQueues s q).trans (if_pos hq)
  unfold State.startDusk
  generalize allQueues.foldl State.discardFetch s = d at hrun harch hnum hcnt hring hqueue ⊢
  dsimp only
  split
  case h_1 r e => exact absurd (hrun.symm.trans e) nofun
  case h_2 =>
    obtain ⟨htoken, hclaim⟩ := State.releaseToken_pair { d with pair := { d.pair with claim := none } }
    exact {
      run := (State.releaseToken_run _).trans hrun
      state := rfl
      dawnDone := rfl
      queue := fun q => (State.queue_of_queues (State.releaseToken_queues _) q).trans (hqueue q)
      arch := (State.releaseToken_arch _).trans harch
      num := (State.releaseToken_num _).trans hnum
      cnt := (State.releaseToken_cnt _).trans hcnt
      ring := (State.releaseToken_ring _).trans hring
      token := htoken
      claim := hclaim }

/-- DUSK begins Dusk and is kept for the reply that ends it. -/
theorem duskCommand_begins (s : State) (r : Running) : s.DuskBegun (duskCommand s r) ∧
    (duskCommand s r).pow.duskCommand = some (r.queue, r.packet) := by
  have h : s.DuskBegun { s with run := none, pow := s.pow.spent }.startDusk :=
    { State.startDusk_begun (s := { s with run := none, pow := s.pow.spent }) rfl with }
  unfold duskCommand
  generalize State.startDusk _ = t at h ⊢
  exact ⟨{ h with }, rfl⟩

theorem latchDawn_latches {s : State} {q : BitVec 2} {ws : List Word} (hd : s.pow.state = .dusk) (hh : s.dawnHead = some (q, ws)) :
    s.latchDawn = { s.setQueue q (s.queue q).advance with
      pow := { s.pow with latchedDawn := s.pow.latchedDawn ++ [(q, ws)], wakeLatched := true } } := by
  simp [State.latchDawn, hd, hh]

theorem latchDawn_without {s : State} (hd : s.pow.state = .dusk) (hh : s.dawnHead = none) : s.latchDawn = s := by
  simp [State.latchDawn, hd, hh]

theorem exec_dawn_dusk {s : State} (hs : s.Live) (hd : s.pow.state = .dusk) : exec .dawn s = .next s.latchDawn :=
  (functional_live hs _).trans (congrArg _ (if_pos hd))

/-- Settles O55: each row is one branch of its command's step, by the stage it stands at and by what its target queue holds. -/
theorem waitingCommands : Obligations.WaitingCommands := by
  intro r s hs
  refine ⟨fun hr => functional_onRun hs hr fenceStep, fun hr hf hm => ?query, fun q hr hq => ?resume, fun q hr hq hst hw => ?abort,
    fun hr hst hw => ?aborted, fun hr hw => ?abortWaits, fun hr => ?dusk, fun q ws hd hh => ?latch, fun hd hh => ?noDawn,
    fun hr hd => ?refused⟩
  case query =>
    have row : exec .query s = .next (queryStep s r) := functional_onRun hs hr queryStep
    have hl := State.leads_of_not_lockstep hm
    refine ⟨fun hst hx ho => ?_, fun hst hd => ?_⟩
    · generalize hb : plainBeats (pAddr r.ws) 256 (pack 32 ((List.range 64).map (reportWord s r))) 0 0 0xFF = bs
      have hbs : bs ≠ [] := by
        rw [← hb]
        exact plainBeats_ne_nil _ _ _ _ _ _
      have hp : (s.post bs).port.outbox = bs := by simp [ho]
      obtain ⟨hout, he⟩ := State.pump_untranslated (s := s.post bs) hx (by rwa [hp])
      refine ⟨_, row.trans (congrArg _ (queryStep_reports hf hr.own hl hst)), rfl, ?_, ?_⟩
      · rw [hb]; exact hout.trans hp
      · rw [hb, he]; rfl
    · exact ⟨_, row.trans (congrArg _ (queryStep_replies hf hr.own hl hst hd)), s.endOk_ended r hr.whole⟩
  case resume =>
    have row : exec .resume s = .next (resumeCommand s r) := functional_onRun hs hr resumeCommand
    refine ⟨fun p hst hp => ?begins, fun p u k hst hp hw => ⟨fun h => ?continues, fun h hstolen => ?fails⟩, fun hst hw => ?replies,
      fun hst hp => ?without⟩
    case begins =>
      refine ⟨_, row.trans (congrArg _ (resumeCommand_begins hq hst hp)), rfl, rfl, ?_⟩
      split <;> simp
    case continues =>
      refine ⟨_, row.trans (congrArg _ (resumeCommand_continues hq hst hp hw h)), ?_⟩
      rw [State.continueRun, State.starts_eq]
      refine ⟨by simp, by simp, ?_, by simp⟩
      rw [State.queue_of_queues (State.push_queues _ _), State.queue_of_queues (State.tell_queues _ _)]
      exact State.setQueue_self u q _
    case fails =>
      obtain ⟨herr, hrest⟩ := State.resumeFailed_ends (u := u) q hstolen
      refine ⟨_, _, row.trans (congrArg _ (resumeCommand_fails hq hst hp hw h)), rfl, herr, rfl, fun hu hc => ?_⟩
      obtain ⟨hring, hcnt, hqueues⟩ := hrest hu hc
      exact ⟨hring, hcnt, State.queue_of_queues hqueues q⟩
    case replies => exact ⟨_, row.trans (congrArg _ (resumeCommand_replies hst hw)), s.endRun_ended r _ _ hr.whole⟩
    case without => exact ⟨_, row.trans (congrArg _ (resumeCommand_without hq hst hp)), s.refuseRun_ended r _ _ _ _ hr.whole⟩
  case abort =>
    have row : exec .abort s = .next (abortCommand s r) := functional_onRun hs hr abortCommand
    refine ⟨fun p hp ht => ?suspended, fun ws hn hf ht => ?fence, fun hn hf => ?without⟩
    case suspended =>
      obtain ⟨hrun, hqueues, hcnt, harch, hring⟩ := State.targetAborted_fields (s := s.setQueue q { s.queue q with susp := none }) hw r
        (p.run.reply { status := 0x35 })
      exact ⟨_, row.trans (congrArg _ (abortCommand_suspended hq hst hw hp ht)), hrun,
        (State.queue_of_queues hqueues q).trans (State.setQueue_self s q _), hcnt, harch, hring⟩
    case fence =>
      obtain ⟨hrun, hqueues, hcnt, harch, hring⟩ := State.targetAborted_fields (s := s.setQueue q { s.queue q with waitFence := none }) hw r
        (packetReply q (nats ws) { status := 0x35 })
      exact ⟨_, row.trans (congrArg _ (abortCommand_fence hq hst hw hn hf ht)), hrun,
        (State.queue_of_queues hqueues q).trans (State.setQueue_self s q _), hcnt, harch, hring⟩
    case without => exact ⟨_, row.trans (congrArg _ (abortCommand_without hq hst hw hn hf)), s.refuseRun_ended r _ _ _ _ hr.whole⟩
  case aborted =>
    exact ⟨_, (functional_onRun hs hr abortCommand).trans (congrArg _ (abortCommand_replies hst hw)), s.endOk_ended r hr.whole⟩
  case abortWaits => exact (functional_onRun hs hr abortCommand).trans (congrArg _ (abortCommand_waits hw))
  case dusk =>
    obtain ⟨h, hc⟩ := duskCommand_begins s r
    exact ⟨_, functional_onRun hs hr duskCommand, h.run, h.state, h.dawnDone, hc, h.queue, h.arch, h.num, h.cnt, h.ring, h.token, h.claim⟩
  case latch => rw [exec_dawn_dusk hs hd, latchDawn_latches hd hh]
  case noDawn => rw [exec_dawn_dusk hs hd, latchDawn_without hd hh]
  case refused =>
    refine ⟨_, ?_, s.refuseRun_ended r 0x17 0 0 0 hr.whole⟩
    show functional s (if s.pow.state = .dusk then s.latchDawn else _) = _
    rw [if_neg hd]
    exact functional_onRun hs hr fun s r => s.refuseRun r 0x17 0 0 0

end Sys2Proof.Machine

/-! The write of a reply (12 R278-R280, R287, R297, 13 R311): when its beat is issued, what its write makes of the ring and of its queue's
window, which reply waits next, and a FENCE that passes. -/

namespace Sys2Proof.Machine

open Sys2Proof

/-! ### Issuing a write -/

section Issue

variable {s : State} {b : WriteBeat} {ph k : Nat} (ht : s.port.translate (b.vline / 32) true = some ph)
  (hk : lowestFree 64 s.writeTags = some k) (hi : s.mayIssue b.cls = true)

include ht hk hi

/-- Outside LOCKSTEP a write that is translated, has a tag and whose class may go is driven. -/
theorem State.issueWrite_drives (hl : s.leads = false) :
    s.issueWrite b = (s.driveWrite b (BitVec.ofNat 6 k) (physLine ph b.vline), true) := by
  simp [State.issueWrite, State.writeTag, ht, hk, hi, hl]

/-- Twin A of LOCKSTEP holds it for the comparison when twin B's check is not here (13 R311). -/
theorem State.issueWrite_holds (hl : s.leads = true) (ho : b.owner ≠ ownStar) (hc : s.pair.checks = []) :
    s.issueWrite b =
      ({ s with pair := { s.pair with held := s.pair.held ++ [(b, BitVec.ofNat 6 k, physLine ph b.vline)] } }, true) := by
  simp [State.issueWrite, State.writeTag, ht, hk, hi, hl, ho, hc]

end Issue

/-! ### Which reply waits next -/

theorem State.nextReply_waits {s : State} (h : s.ring.waiting ≠ []) : s.nextReply = s := by
  simp [State.nextReply, h]

theorem State.nextReply_owed {s : State} {z : Reply} {zs : List Reply} (h : s.ring.waiting = []) (ho : s.ring.owed = z :: zs) :
    s.nextReply = { s with ring := { s.ring with waiting := [z], owed := zs } } := by
  simp [State.nextReply, State.push, h, ho]

theorem State.nextReply_final {s : State} {r : Running} {z : Reply} (h : s.ring.waiting = []) (ho : s.ring.owed = [])
    (hr : s.run = some r) (hf : r.final = some z) :
    s.nextReply = { s with run := none, ring := { s.ring with waiting := [z] } } := by
  simp [State.nextReply, State.push, h, ho, hr, hf]

theorem State.nextReply_none {s : State} (ho : s.ring.owed = []) (hf : ∀ r, s.run = some r → r.final = none) : s.nextReply = s := by
  have hb : s.run.bind (·.final) = none := Option.bind_eq_none_iff.mpr hf
  simp [State.nextReply, ho, hb]

/-- Only the replies that wait or are owed change, and the command whose reply is given is gone. -/
theorem State.nextReply_eq (s : State) :
    ∃ w o x, s.nextReply = { s with ring := { s.ring with waiting := w, owed := o }, run := x } := by
  unfold State.nextReply
  split
  · exact ⟨_, _, _, rfl⟩
  · split
    · exact ⟨_, _, _, rfl⟩
    · split <;> exact ⟨_, _, _, rfl⟩

/-! ### What a written reply leaves -/

/-- The newest entry of a window stays when the oldest leaves (12 R297). -/
theorem Queue.mem_window_enter (x : Queue) (t : Word) (ws : List Word) : ⟨t, ws⟩ ∈ (x.enter t ws).window := by
  simp only [Queue.enter]
  split
  case isTrue h =>
    have hd : 1 ≤ x.window.length := by
      rw [List.length_append, List.length_singleton] at h
      omega
    rw [List.drop_append_of_le_length hd]
    simp
  case isFalse => simp

/-- The reply `y` has been written and `rest` waits behind it: the ring advances, IRQ_REPLY rises when asked, a reply ST_PREEMPTED that is
not final spends the pre-emption request, and a final reply's tag enters its queue's window. -/
def State.afterReply (s : State) (y : Reply) (rest : List Reply) : State :=
  { s with
    ring := { s.ring.next with irq := s.ring.irq || y.irq, waiting := rest, stallCounted := false, issued := false }
    pow := if y.w0.getLsbD 23 && y.w0.extractLsb' 24 8 = 0x21 then { s.pow with preempt := s.pow.preemptKeep, preemptKeep := false } else s.pow
    queues := if y.enters then s.queues.set y.queue ((s.queue y.queue).enter y.w1 [y.w0, y.w1, y.w2, y.w3, y.w4, y.w5]) else s.queues }

theorem State.replyWritten_eq {s : State} {y : Reply} {rest : List Reply} (hw : s.ring.waiting = y :: rest)
    (he : s.pair.entering = false) : s.replyWritten = (s.afterReply y rest).nextReply := by
  simp only [State.replyWritten, State.afterReply, hw, he]
  split <;> split <;> rfl

theorem State.afterReply_queue (s : State) (y : Reply) (rest : List Reply) : (s.afterReply y rest).queue y.queue =
    if y.enters then (s.queue y.queue).enter y.w1 [y.w0, y.w1, y.w2, y.w3, y.w4, y.w5] else s.queue y.queue := by
  unfold State.afterReply
  split
  · exact Quad.get_set_self _ _ _
  · rfl

/-- The phase turns where the ring wraps (12 R279). -/
theorem ReplyRing.next_phase (g : ReplyRing) : g.next.phase = (g.phase != decide ((g.head.toNat + 1) % g.base.entries = 0)) := by
  unfold ReplyRing.next
  dsimp only
  split <;> simp [*]

/-- The reply `y` is written and `rest` stood behind it: what the ring, its queue, the replies and the ended command are in `t` (12 R278-R280,
R287, R297). -/
structure State.ReplyGone (s : State) (y : Reply) (rest : List Reply) (t : State) : Prop where
  wires : t.wires = s.wires
  head : t.ring.head = BitVec.ofNat 16 ((s.ring.head.toNat + 1) % s.ring.base.entries)
  serial : t.ring.serial = s.ring.serial + 1
  phase : t.ring.phase = (s.ring.phase != decide ((s.ring.head.toNat + 1) % s.ring.base.entries = 0))
  irq : t.ring.irq = (s.ring.irq || y.irq)
  stall : t.ring.stallCounted = false
  tail : t.ring.tail = s.ring.tail
  base : t.ring.base = s.ring.base
  queue : t.queue y.queue =
    if y.enters then (s.queue y.queue).enter y.w1 [y.w0, y.w1, y.w2, y.w3, y.w4, y.w5] else s.queue y.queue
  arch : t.arch = s.arch
  cnt : t.cnt = s.cnt
  same : rest ≠ [] ∨ (s.ring.owed = [] ∧ ∀ r, s.run = some r → r.final = none) → t.run = s.run ∧ t.ring.waiting = rest
  final : ∀ r z, rest = [] → s.ring.owed = [] → s.run = some r → r.final = some z → t.run = none ∧ t.ring.waiting = [z]
  owed : ∀ z zs, rest = [] → s.ring.owed = z :: zs → t.run = s.run ∧ t.ring.waiting = [z] ∧ t.ring.owed = zs

theorem State.afterReply_gone (s : State) (y : Reply) (rest : List Reply) : s.ReplyGone y rest (s.afterReply y rest).nextReply := by
  obtain ⟨w, o, x, e⟩ := (s.afterReply y rest).nextReply_eq
  exact {
    wires := congrArg (·.wires) e
    head := congrArg (·.ring.head) e
    serial := congrArg (·.ring.serial) e
    phase := (congrArg (·.ring.phase) e).trans s.ring.next_phase
    irq := congrArg (·.ring.irq) e
    stall := congrArg (·.ring.stallCounted) e
    tail := congrArg (·.ring.tail) e
    base := congrArg (·.ring.base) e
    queue := (congrArg (·.queue y.queue) e).trans (s.afterReply_queue y rest)
    arch := congrArg (·.arch) e
    cnt := congrArg (·.cnt) e
    same := fun h => by
      have hs : (s.afterReply y rest).nextReply = s.afterReply y rest :=
        h.elim (State.nextReply_waits (s := s.afterReply y rest)) fun ⟨ho, hf⟩ => State.nextReply_none ho hf
      rw [hs]
      exact ⟨rfl, rfl⟩
    final := fun r z h ho hr hz => by
      rw [State.nextReply_final (s := s.afterReply y rest) h ho hr hz]
      exact ⟨rfl, rfl⟩
    owed := fun z zs h ho => by
      rw [State.nextReply_owed (s := s.afterReply y rest) h ho]
      exact ⟨rfl, rfl, rfl⟩ }

/-! ### The row -/

theorem exec_replyWrite_clocked {s : State} (hs : s.Live) (hp : s.pow.state = .run ∨ s.pow.state = .dusk) :
    exec .replyWrite s = .next s.writeReply :=
  (functional_live hs _).trans (congrArg _ (if_pos (by simpa using hp)))

theorem exec_replyWrite_unclocked {s : State} (hs : s.Live) (hr : s.pow.state ≠ .run) (hd : s.pow.state ≠ .dusk) :
    exec .replyWrite s = .next s :=
  (functional_live hs _).trans (congrArg _ (if_neg (by simp [hr, hd])))

theorem writeReply_idle {s : State}
    (h : s.ring.waiting = [] ∨ s.ring.faulted = true ∨ s.ring.issued = true ∨ (s.pow.fence = true ∧ s.pow.state ≠ .run)) :
    s.writeReply = s := by
  unfold State.writeReply
  split
  case h_1 => rfl
  case h_2 y rest hw =>
    rcases h with h | h | h | ⟨h, hp⟩
    · exact absurd (hw.symm.trans h) nofun
    · exact if_pos (by simp [h])
    · exact if_pos (by simp [h])
    · exact if_pos (by simp [h, hp])

section Write

variable {s : State} {y : Reply} {rest : List Reply} (hp : s.pow.state = .run) (hw : s.ring.waiting = y :: rest)
  (hf : s.ring.faulted = false) (hi : s.ring.issued = false)

include hp hw hf hi

/-- A full ring holds the reply, counted once (12 R278). -/
theorem writeReply_full (h : s.ring.room = false) : s.writeReply =
    if s.ring.stallCounted then s else { s with ring := { s.ring with stallCounted := true }, cnt := s.cnt.raise cREPLYSTALL 1 } := by
  simp [State.writeReply, State.count, hp, hw, hf, hi, h]

/-- A beat that is issued is a written reply, unless it is held for its comparison. -/
theorem writeReply_issued {t : State} (h : s.ring.room = true) (hb : s.issueWrite (s.ring.beat y) = (t, true)) : s.writeReply =
    if t.pair.held.any (fun h => h.1.owner = ownReply) then { t with ring := { t.ring with issued := true } } else t.replyWritten := by
  simp [State.writeReply, hp, hw, hf, hi, h, hb]

end Write

/-! ### A FENCE that passes -/

theorem exec_fenceSatisfied_live {s : State} (hs : s.Live) (q : BitVec 2) : exec (.fenceSatisfied q) s = .next (fenceRelease s q) :=
  functional_live hs _

theorem fenceRelease_idle {s : State} {q : BitVec 2}
    (h : (s.queue q).waitFence = none ∨ s.pow.state ≠ .run ∨ s.ring.waiting ≠ [] ∨ s.pow.fence = true) : fenceRelease s q = s := by
  unfold fenceRelease
  split
  case h_1 => rfl
  case h_2 ws hq =>
    rcases h with h | h | h | h
    · exact absurd (hq.symm.trans h) nofun
    · exact if_neg (by simp [h])
    · exact if_neg (by simp [h])
    · exact if_neg (by simp [h])

section Fence

variable {s : State} {q : BitVec 2} {ws : List Word} (hq : (s.queue q).waitFence = some ws)

include hq

theorem fenceRelease_waits (h : s.fenceHolds (nats ws) = false) : fenceRelease s q = s := by
  simp [fenceRelease, hq, h]

theorem fenceRelease_releases (hp : s.pow.state = .run) (hw : s.ring.waiting = []) (hf : s.pow.fence = false)
    (h : s.fenceHolds (nats ws) = true) : fenceRelease s q =
      ((s.setQueue q { s.queue q with waitFence := none }).tell (packetReply q (nats ws) { status := 0 })).push
        (packetReply q (nats ws) { status := 0 }) := by
  simp [fenceRelease, hq, hp, hw, hf, h]

end Fence

/-- Settles O53: the beat is issued, held, or kept back; a beat that is driven is a written reply, after which the next waits. -/
theorem repliesAndFences : Obligations.RepliesAndFences := by
  intro s hs
  refine ⟨fun h => ?idle, fun y rest hp hw hf hi hroom => ?full,
    fun y rest b ph k hp hw hf hi hroom hb ht hk hmay => ⟨fun hmode hside hc => ?held, fun hmode hheld hent => ?written⟩,
    fun q h => ?fenceIdle, fun q ws hq hp hw hf => ⟨fun h => ?fenceWaits, fun h => ?fencePasses⟩⟩
  case idle =>
    by_cases hp : s.pow.state = .run ∨ s.pow.state = .dusk
    · rw [exec_replyWrite_clocked hs hp, writeReply_idle]
      rcases h with h | ⟨hr, hd⟩ | h | h | ⟨hf, hd⟩
      · exact .inl h
      · exact absurd hp (by simp [hr, hd])
      · exact .inr (.inl h)
      · exact .inr (.inr (.inl h))
      · exact .inr (.inr (.inr ⟨hf, by simp [hd]⟩))
    · obtain ⟨hr, hd⟩ := not_or.mp hp
      exact exec_replyWrite_unclocked hs hr hd
  case full => exact (exec_replyWrite_clocked hs (.inl hp)).trans (congrArg _ (writeReply_full hp hw hf hi hroom))
  case held =>
    subst hb
    have hl : s.leads = true := by simp [State.leads, State.isA, hmode, hside]
    have hissue := State.issueWrite_holds ht hk hmay hl (show ownReply ≠ ownStar by decide) hc
    rw [exec_replyWrite_clocked hs (.inl hp), writeReply_issued hp hw hf hi hroom hissue,
      if_pos (by simp [ReplyRing.beat, plainBeat])]
  case written =>
    subst hb
    have hissue := State.issueWrite_drives ht hk hmay (State.leads_of_not_lockstep hmode)
    have row := exec_replyWrite_clocked hs (.inl hp)
    rw [writeReply_issued hp hw hf hi hroom hissue, if_neg (by simp [hheld]),
      State.replyWritten_eq (y := y) (rest := rest) (by simp [hw]) (by simp [hent])] at row
    obtain ⟨hwires, hhead, hserial, hphase, hirq, hstall, htail, hbase, hqueue, harch, hcnt, hsame, hfinal, howed⟩ :=
      State.afterReply_gone (s.driveWrite (s.ring.beat y) (BitVec.ofNat 6 k) (physLine ph (s.ring.beat y).vline)) y rest
    rw [State.queue_of_queues (State.driveWrite_queues _ _ _ _)] at hqueue
    refine ⟨_, row, hwires, hhead, hserial, hphase, hirq, hstall, htail, hbase, hqueue, fun hy => ?_, harch, hcnt, hsame, hfinal, howed⟩
    rw [hqueue, if_pos hy]
    exact Queue.mem_window_enter _ _ _
  case fenceIdle => rw [exec_fenceSatisfied_live hs, fenceRelease_idle h]
  case fenceWaits => rw [exec_fenceSatisfied_live hs, fenceRelease_waits hq h]
  case fencePasses =>
    refine ⟨_, (exec_fenceSatisfied_live hs q).trans (congrArg _ (fenceRelease_releases hq hp hw hf h)), ?_, by simp [hw, packetReply],
      by simp, by simp, by simp⟩
    rw [State.queue_of_queues (State.push_queues _ _), State.queue_of_queues (State.tell_queues _ _)]
    exact State.setQueue_self s q _

end Sys2Proof.Machine

/-! A command boundary (12 R276, R295, R300, R303): what the begin checks read, the packet accepted, and the command refused or set running. -/

namespace Sys2Proof.Machine

open Sys2Proof

/-! ### What the begin checks read -/

/-- Two states that the begin checks do not tell apart: configuration, storages, what is suspended or waits in a FENCE, and the pair's mode. -/
structure State.SameForChecks (s t : State) : Prop where
  num : t.num = s.num
  arch : t.arch = s.arch
  straps : t.straps = s.straps
  mode : t.pair.mode = s.pair.mode
  detached : t.pair.detached = s.pair.detached
  barred : t.pair.arrayBarred = s.pair.arrayBarred
  susp : ∀ q, (t.queue q).susp = (s.queue q).susp
  waitFence : ∀ q, (t.queue q).waitFence = (s.queue q).waitFence

section Checks

variable {s t : State} (h : s.SameForChecks t)

include h

theorem State.SameForChecks.pairModeIllegal (m : Nat) : t.pairModeIllegal m = s.pairModeIllegal m := by
  have hsusp : t.queues.toList.any (·.susp.isSome) = s.queues.toList.any (·.susp.isSome) := by
    show List.any [t.queue 0, t.queue 1, t.queue 2, t.queue 3] _ = List.any [s.queue 0, s.queue 1, s.queue 2, s.queue 3] _
    simp only [List.any_cons, h.susp]
  simp only [State.pairModeIllegal, State.isA, h.mode, h.detached, h.straps, hsusp]

theorem State.SameForChecks.programSuspended (id : Nat) : t.programSuspended id = s.programSuspended id := by
  unfold State.programSuspended
  show List.any [t.queue 0, t.queue 1, t.queue 2, t.queue 3] _ = List.any [s.queue 0, s.queue 1, s.queue 2, s.queue 3] _
  simp only [List.any_cons, h.susp]

theorem State.SameForChecks.suspendedTag (q : BitVec 2) (n : Nat) : t.suspendedTag q n = s.suspendedTag q n := by
  simp only [State.suspendedTag, h.susp]

theorem State.SameForChecks.fenceTagWaits (q : BitVec 2) (n : Nat) : t.fenceTagWaits q n = s.fenceTagWaits q n := by
  simp only [State.fenceTagWaits, h.waitFence]

theorem State.SameForChecks.ownRules (g : Geom) (ws : List Nat) (ds : List (List Nat)) (P : Option Prog) :
    t.ownRules g ws ds P = s.ownRules g ws ds P := by
  simp only [State.ownRules, h.arch, h.programSuspended, h.suspendedTag, h.fenceTagWaits]

theorem State.SameForChecks.beginChecks (ws : List Nat) (ds : List (List Nat)) (P : Option Prog) :
    t.beginChecks ws ds P = s.beginChecks ws ds P := by
  simp only [State.beginChecks, h.num, h.straps, h.barred, h.pairModeIllegal, h.ownRules]

end Checks

/-! ### The packet accepted -/

/-- The packet at the head of queue `q` is accepted: its tag is the newest, the head passes it, translations are discarded, the queue passed
over had its turn, and a band that this twin asked for is given up (12 R276, R299, 13 R317, R326, 17 R403). -/
def State.accepted (s : State) (q : BitVec 2) (pkt : List Word) : State :=
  { s.setQueue q ((s.queue q).advance.accept (w32 (pTag (nats pkt)))) with
    port := { s.port with xlats := [] }
    pair := { s.pair with claim := none }
    pow := { s.pow with passedOver := none, preemptKeep := false } }

theorem State.accepted_queue (s : State) (q : BitVec 2) (pkt : List Word) :
    (s.accepted q pkt).queue q = { (s.queue q).advance with newest := some (w32 (pTag (nats pkt))) } :=
  Quad.get_set_self _ _ _

/-- Accepting a packet changes nothing that the begin checks read. -/
theorem State.accepted_sameForChecks (s : State) (q : BitVec 2) (pkt : List Word) : s.SameForChecks (s.accepted q pkt) := by
  have other (p : BitVec 2) (hp : p ≠ q) : (s.accepted q pkt).queue p = s.queue p := State.setQueue_other s p q _ hp
  refine ⟨rfl, rfl, rfl, rfl, rfl, rfl, fun p => ?susp, fun p => ?waitFence⟩
  case susp =>
    by_cases hp : p = q
    · rw [hp, State.accepted_queue]; rfl
    · rw [other p hp]
  case waitFence =>
    by_cases hp : p = q
    · rw [hp, State.accepted_queue]; rfl
    · rw [other p hp]

/-! ### The row -/

theorem exec_commandBegin_live {s : State} (hs : s.Live) : exec .commandBegin s = .next (beginStep s) := functional_live hs _

theorem beginStep_idle {s : State} (h : s.atBoundary = false ∨ s.nextQueue = none) : beginStep s = s := by
  unfold beginStep
  rcases h with h | h
  · exact if_pos (by simp [h])
  · rw [h]
    exact ite_self _

/-- At a boundary nothing executes and no reply waits (12 R300). -/
theorem State.atBoundary_free {s : State} (h : s.atBoundary = true) : s.run = none ∧ s.ring.waiting = [] := by
  simp only [State.atBoundary, Bool.and_eq_true, Option.isNone_iff_eq_none, List.isEmpty_iff] at h
  obtain ⟨⟨⟨⟨⟨hrun, hw⟩, -⟩, -⟩, -⟩, -⟩ := h
  exact ⟨hrun, hw⟩

/-- The image that a command takes of its program, when it names a registered one (04 R123). -/
def Arch.imageOf (a : Arch) (e : Option ProgEntry) : List Word :=
  match e with
  | some e => a.image e
  | none => []

/-- With no suspended command of its own to resume, the queue whose turn it is begins its packet. -/
theorem beginStep_begins {s t : State} {q : BitVec 2} (hb : s.atBoundary = true) (hn : s.nextQueue = some q)
    (hp : (s.queue q).susp = none) (ht : State.beginQueue { s with pair := { s.pair with claim := none } } q = t) :
    beginStep s = match t.run with | some r => t.forwardBegin r | none => t := by
  simp only [beginStep, hb, hn, Queue.canResume, hp, ht]
  rfl

section Begin

variable {s : State} {q : BitVec 2} {pkt : List Word} {ds : List (List Word)} {e : Option ProgEntry} {image : List Word}
  (hf : (s.queue q).fetch = .ready pkt ds) (he : e = (pProg (nats pkt)).bind s.arch.prog?)
  (hi : image = s.arch.imageOf e)

include hf he hi

theorem beginQueue_refuses {st why i : Nat} (hst : st ≠ 0x15)
    (hc : s.beginChecks (nats pkt) (ds.map nats) (e.map fun _ => progOf (nats image)) = .error (st, why, i)) :
    State.beginQueue { s with pair := { s.pair with claim := none } } q =
      (((s.accepted q pkt).count cREFUSED).tell (replyOf q (pOp (nats pkt)) (pTag (nats pkt)) (pIrq (nats pkt))
        { status := st, reason := why, index := i })).push
      (replyOf q (pOp (nats pkt)) (pTag (nats pkt)) (pIrq (nats pkt)) { status := st, reason := why, index := i }) := by
  subst hi he
  rw [← (s.accepted_sameForChecks q pkt).beginChecks] at hc
  unfold State.beginQueue
  dsimp only
  split
  case h_2 h => exact absurd hf (h _ _)
  case h_1 pkt' ds' h =>
    obtain ⟨rfl, rfl⟩ := Fetch.ready.inj (h.symm.trans hf)
    split
    case h_1 st' why' i' hc' =>
      obtain ⟨rfl, rfl, rfl⟩ : st' = st ∧ why' = why ∧ i' = i := by simpa using hc'.symm.trans hc
      rw [if_neg hst, if_neg hst]
      rfl
    case h_2 fb hc' => exact absurd (hc'.symm.trans hc) nofun

theorem beginQueue_starts {fb : Bool} (hpo : ∀ x, e = some x → x.poison = false)
    (hc : s.beginChecks (nats pkt) (ds.map nats) (e.map fun _ => progOf (nats image)) = .ok fb) :
    State.beginQueue { s with pair := { s.pair with claim := none } } q =
      ((s.accepted q pkt).countFallback fb).starts ((s.accepted q pkt).newRun q pkt ds image fb) := by
  subst hi he
  have hany : ((pProg (nats pkt)).bind s.arch.prog?).any (·.poison) = false := by
    cases h : (pProg (nats pkt)).bind s.arch.prog? with
    | none => rfl
    | some x => exact hpo x h
  rw [← (s.accepted_sameForChecks q pkt).beginChecks] at hc
  unfold State.beginQueue
  dsimp only
  split
  case h_2 h => exact absurd hf (h _ _)
  case h_1 pkt' ds' h =>
    obtain ⟨rfl, rfl⟩ := Fetch.ready.inj (h.symm.trans hf)
    split
    case h_1 hc' => exact absurd (hc'.symm.trans hc) nofun
    case h_2 fb' hc' =>
      obtain rfl : fb' = fb := by simpa using hc'.symm.trans hc
      exact if_neg (by simpa using hany)

end Begin

/-- Asking for the array token leaves the request standing, and no steal is touched (01 R37). -/
theorem State.takeToken_pair (s : State) : s.takeToken.pair.request = true ∧ s.takeToken.pair.claim = s.pair.claim := by
  unfold State.takeToken
  dsimp only
  (repeat' split) <;> exact ⟨rfl, rfl⟩

theorem State.starts_claim (s : State) (r : Running) : (s.starts r).pair.claim = s.pair.claim := by
  unfold State.starts
  dsimp only
  split
  · exact (State.takeToken_pair _).2
  · rfl

theorem State.starts_request (s : State) {r : Running} (h : r.op = oPRODUCT ∨ r.op = oLINK) : (s.starts r).pair.request = true := by
  have ha : (r.op = oPRODUCT || r.op = oLINK) = true := by simpa using h
  rw [State.starts, if_pos ha]
  exact (State.takeToken_pair _).1

theorem State.countFallback_eq (s : State) (fb : Bool) :
    s.countFallback fb = { s with cnt := if fb then s.cnt.raise cG2FALL 1 else s.cnt } := by
  cases fb <;> rfl

/-- Settles O50: a boundary accepts the packet, and its begin checks refuse it or set it running. -/
theorem commandBegins : Obligations.CommandBegins := by
  intro s hs
  refine ⟨fun h => by rw [exec_commandBegin_live hs, beginStep_idle h], fun q pkt ds e image hb hn hp hf he hi => ?_⟩
  obtain ⟨hrun, hw⟩ := State.atBoundary_free hb
  have hi : image = s.arch.imageOf e := hi
  refine ⟨fun st why i hc hst => ?refused, fun fb hc hpo => ?begun⟩
  case refused =>
    have hstep := beginStep_begins hb hn hp (beginQueue_refuses hf he hi hst hc)
    generalize hy : replyOf q (pOp (nats pkt)) (pTag (nats pkt)) (pIrq (nats pkt)) { status := st, reason := why, index := i } = y
      at hstep ⊢
    have hnone : ((((s.accepted q pkt).count cREFUSED).tell y).push y).run = none := by
      rw [State.push_run, State.tell_run]
      exact hrun
    rw [hnone] at hstep
    refine ⟨_, (exec_commandBegin_live hs).trans (congrArg _ hstep), hnone, by simp [State.accepted, cREFUSED], by simp [State.accepted],
      by simp [State.accepted], by simp [State.accepted, hw], ?_⟩
    rw [State.queue_of_queues (State.push_queues _ _), State.queue_of_queues (State.tell_queues _ _)]
    exact State.accepted_queue s q pkt
  case begun =>
    have hstep := beginStep_begins hb hn hp (beginQueue_starts hf he hi hpo hc)
    generalize hr : (s.accepted q pkt).newRun q pkt ds image fb = r at hstep
    obtain ⟨v, hv⟩ : ∃ v, ((s.accepted q pkt).countFallback fb).starts r = v := ⟨_, rfl⟩
    have he : v = { s.accepted q pkt with
        run := some r, cnt := { (if fb then s.cnt.raise cG2FALL 1 else s.cnt) with stalls := true }, pair := v.pair } := by
      rw [← hv, State.starts_eq, State.countFallback_eq]
      rfl
    have hsome : v.run = some r := congrArg (·.run) he
    rw [hv, hsome] at hstep
    have frame {γ : Type} (p : State → γ) (hp : ∀ (s : State) k ws, p (s.sendWords k ws) = p s) : p (v.forwardBegin r) = p v :=
      State.forwardBegin_frame p hp v r
    have hclaim : v.pair.claim = none := by rw [← hv, State.starts_claim, State.countFallback_pair]; rfl
    have hrequest (ho : r.op = 0x04 ∨ r.op = 0x05) : v.pair.request = true := by rw [← hv, State.starts_request _ ho]
    have hqueue := (congrArg (·.queue q) he).trans (State.accepted_queue s q pkt)
    subst hr
    exact ⟨_, _, (exec_commandBegin_live hs).trans (congrArg _ hstep), (frame (·.run) State.sendWords_run).trans hsome,
      rfl, rfl, rfl, rfl, rfl, rfl, rfl, rfl, rfl, rfl, rfl, rfl, rfl, rfl,
      (frame (·.cnt) State.sendWords_cnt).trans (congrArg (·.cnt) he), (frame (·.arch) State.sendWords_arch).trans (congrArg (·.arch) he),
      (frame (·.num) State.sendWords_num).trans (congrArg (·.num) he), (frame (·.ring) State.sendWords_ring).trans (congrArg (·.ring) he),
      (congrArg (·.xlats) (frame (·.port) State.sendWords_port)).trans (congrArg (·.port.xlats) he),
      (State.forwardBegin_pair (·.claim) (fun _ _ _ => rfl) v _).trans hclaim,
      fun ho => (State.forwardBegin_pair (·.request) (fun _ _ _ => rfl) v _).trans (hrequest ho),
      (State.queue_of_queues (frame (·.queues) State.sendWords_queues) q).trans hqueue⟩

end Sys2Proof.Machine

/-! The fetch of a packet (12 R273-R277, R295-R299, 17 R398, R402): asking for the one line that holds it, the outcome of its checks, and an
answer given without beginning. -/

namespace Sys2Proof.Machine

open Sys2Proof

/-! ### Asking for one line -/

/-- The state in which `owner` asks: what it wanted before is dropped. -/
def State.awaiting (s : State) (owner : Nat) : State := { s with port := s.port.unwant owner }

/-- `owner` wants the line `l`. -/
def State.wanting (s : State) (owner : Nat) (cls : BitVec 2) (l : Nat) : State := { s with port := s.port.want owner cls l }

/-- The state in which `owner` has what it asked for: its part of the buffer is free again. -/
def State.received (s : State) (owner : Nat) : State :=
  { s with port := { s.port.unwant owner with buf := s.port.buf.filter (fun x => x.1 != owner) } }


section Ask

variable {s : State} {owner l : Nat}

theorem State.ask_here {x : RdLine} (hf : s.port.faultOf owner = none) (h : s.port.line? owner l = some x) (kind : Nat) (cls : BitVec 2)
    (pos : Nat) : s.ask owner kind cls [(l, pos)] =
      .ready (s.received owner) [(l, x)] := by
  simp [State.ask, State.received, hf, dedup, h, sput]

theorem State.ask_awaits (hf : s.port.faultOf owner = none) (h : s.port.line? owner l = none) (kind : Nat) (cls : BitVec 2) (pos : Nat) :
    s.ask owner kind cls [(l, pos)] =
      .wait ((s.awaiting owner).requestLine owner kind cls 0 l pos) := by
  simp [State.ask, State.awaiting, hf, dedup, h, List.range_succ, nth]

variable (h : s.port.line? owner l = none)

include h

theorem State.requestLine_onItsWay (hr : s.port.reads.any (fun r => r.owner = owner && r.vline = l) = true) (kind : Nat) (cls : BitVec 2)
    (idx pos : Nat) : s.requestLine owner kind cls idx l pos = s :=
  if_pos (by rw [h, hr]; rfl)

variable (hr : s.port.reads.any (fun r => r.owner = owner && r.vline = l) = false)

include hr

theorem State.requestLine_untranslated (ht : s.port.translate (l / 32) false = none) (kind : Nat) (cls : BitVec 2) (idx pos : Nat) :
    s.requestLine owner kind cls idx l pos =
      (s.wanting owner cls l).requestXlat owner (l / 32) kind pos (128 * l) := by
  simp only [State.requestLine, h, hr, ht]
  rfl

variable (ht : s.port.translate (l / 32) false ≠ none)

include ht

/-- A request of another class goes first (01 R41). -/
theorem State.requestLine_later {cls : BitVec 2} (hi : s.mayIssue cls = false) (kind idx pos : Nat) :
    s.requestLine owner kind cls idx l pos = s.wanting owner cls l := by
  obtain ⟨ph, ht⟩ := Option.ne_none_iff_exists'.mp ht
  simp only [State.requestLine, h, hr, ht, hi]
  rfl

theorem State.requestLine_drives {cls : BitVec 2} (hi : s.mayIssue cls = true) {tag : BitVec 7} {line : BitVec 45}
    (hg : s.port.readTag cls l = some (tag, line)) (kind idx pos : Nat) :
    s.requestLine owner kind cls idx l pos =
      { s with
        port := { s.port with reads := s.port.reads ++ [⟨tag, owner, l, BitVec.ofNat 16 idx⟩] }
        wires := .readReq tag line (BitVec.ofNat 16 idx) cls :: s.wires } := by
  obtain ⟨ph, ht⟩ := Option.ne_none_iff_exists'.mp ht
  simp only [State.requestLine, h, hr, ht, hi, hg]
  rfl

end Ask

theorem State.requestXlat_requests {s : State} {owner page kind i : Nat}
    (ha : s.port.atps.any (fun a => a.page = page && a.kind = kind && a.owner = owner) = false)
    (hi : lowestFree 64 (s.port.atps.map (fun a => a.id.toNat)) = some i) (pos va : Nat) : s.requestXlat owner page kind pos va =
      { s with
        port := { s.port with atps := s.port.atps ++ [⟨BitVec.ofNat 6 i, owner, page, kind, pos, va⟩] }
        wires := .atp (BitVec.ofNat 6 i) (BitVec.ofNat 40 page) (BitVec.ofNat 2 kind) :: s.wires } := by
  simp only [State.requestXlat, ha, hi]
  rfl

/-- A read takes the lowest free tag when no write of its line is unanswered and its class may hold one more (17 R401). -/
theorem Port.readTag_free {p : Port} {cls : BitVec 2} {l ph i : Nat} (ht : p.translate (l / 32) false = some ph)
    (hw : p.writes.any (fun w => w.line = physLine ph l) = false) (hr : p.reads.length < tagLimit cls)
    (hi : lowestFree 128 (p.reads.map (fun r => r.tag.toNat)) = some i) :
    p.readTag cls l = some (BitVec.ofNat 7 i, physLine ph l) := by
  simp only [Port.readTag, ht, hw, hi]
  exact if_neg (by simpa using hr)

/-! ### The outcome of a fetch -/

/-- The fetch of queue `q` comes to `f`; an answer is given at once when it may be. -/
def State.putFetch (s : State) (q : BitVec 2) (f : Fetch) : State := (s.setQueue q { s.queue q with fetch := f }).giveAnswer q

/-- An outcome that is no answer stays in its queue. -/
theorem State.putFetch_holds {s : State} {q : BitVec 2} {f : Fetch} (h : (∃ pkt ds, f = .ready pkt ds) ∨ ∃ pkt, f = .table pkt) :
    s.putFetch q f = s.setQueue q { s.queue q with fetch := f } := by
  unfold State.putFetch State.giveAnswer
  rw [State.setQueue_self]
  rcases h with ⟨pkt, ds, rfl⟩ | ⟨pkt, rfl⟩ <;> rfl

/-- What an answer leaves: its queue is `x`, its reply `y` waits, and the counters `counts` have risen; poison raises its error bit. -/
structure State.Answered (s : State) (q : BitVec 2) (x : Queue) (y : Reply) (counts : List Nat) (t : State) : Prop where
  queue : t.queue q = x
  ring : t.ring = { s.ring with waiting := [y] }
  cnt : t.cnt = s.cnt.raiseEach counts
  status : t.err.status = if counts.contains cPOISON then s.err.status ||| 4 else s.err.status
  run : t.run = s.run
  arch : t.arch = s.arch

/-- Whether the queue `x` is disabled or passes its head, and whether the tag of `y` is accepted (12 R276, R296, R299). -/
def Queue.answered (x : Queue) (y : Reply) (accept disable : Bool) : Queue :=
  let x := if disable then { x with enable := false, fetch := .idle } else x.advance
  if accept then x.accept y.w1 else x

theorem State.answerHeld_false {s : State} {q : BitVec 2} {y : Reply}
    (h : y.enters = false ∨ (s.run = none ∧ (s.queue q).waitFence = none ∧ (s.queue q).susp = none)) : s.answerHeld q y = false := by
  rcases h with h | ⟨hr, hf, hs⟩
  · simp [State.answerHeld, h]
  · simp [State.answerHeld, hr, hf, hs]

theorem State.giveAnswer_gives {s : State} {q : BitVec 2} {y : Reply} {accept disable : Bool} {counts : List Nat}
    (hf : (s.queue q).fetch = .answer y accept counts disable) (hw : s.ring.waiting = []) (hp : s.pow.state = .run)
    (hh : s.answerHeld q y = false) : ∃ u, u = counts.foldl (fun s k => s.count k) (s.setQueue q ((s.queue q).answered y accept disable)) ∧
      s.giveAnswer q = ((if counts.contains cPOISON then u.poisonedInput q y.w1.toNat else u).tell y).push y := by
  refine ⟨_, rfl, ?_⟩
  simp only [State.giveAnswer, hf]
  rw [if_neg (by simp [hw, hp, hh])]
  rfl

theorem State.poisonedInput_status (s : State) (q : BitVec 2) (n : Nat) : (s.poisonedInput q n).err.status = s.err.status ||| 4 :=
  State.recordErr_status _ _ _

/-- Poisoned input raises its error bit and fills the error record, and touches nothing else (15 R360, R364). -/
theorem State.poisonedInput_frame {γ : Type} (p : State → γ) (he : ∀ (s : State) k, p (s.raiseErr k) = p s)
    (hr : ∀ (s : State) q e, p (s.recordErr q e) = p s) (s : State) (q : BitVec 2) (n : Nat) : p (s.poisonedInput q n) = p s :=
  (hr _ _ _).trans (he _ _)

/-- An answer is given when no reply waits and nothing of its queue is to end before it (12 R278, R287). -/
theorem State.putFetch_answers {s : State} {q : BitVec 2} {y : Reply} (hw : s.ring.waiting = []) (hp : s.pow.state = .run)
    (he : y.enters = false ∨ (s.run = none ∧ (s.queue q).waitFence = none ∧ (s.queue q).susp = none)) (accept : Bool) (counts : List Nat)
    (disable : Bool) : s.Answered q ((s.queue q).answered y accept disable) y counts (s.putFetch q (.answer y accept counts disable)) := by
  have hfetch : ((s.setQueue q { s.queue q with fetch := .answer y accept counts disable }).queue q).fetch =
      .answer y accept counts disable := by rw [State.setQueue_self]
  obtain ⟨u, hu, hgive⟩ := State.giveAnswer_gives hfetch hw hp (State.answerHeld_false (by rwa [State.setQueue_self]))
  have frame {γ : Type} (p : State → γ) (hc : ∀ (s : State) k, p (s.count k) = p s) (hq : ∀ (s : State) v, p (s.setQueue q v) = p s) :
      p u = p s := by
    rw [hu, foldl_frame p _ hc, hq, hq]
  have hqueue : u.queue q = (s.queue q).answered y accept disable := by
    rw [hu, State.queue_of_queues (foldl_frame (·.queues) State.count State.count_queues _ _), State.setQueue_self, State.setQueue_self]
    cases disable <;> rfl
  have hcnt : u.cnt = s.cnt.raiseEach counts := by rw [hu, counts_cnt]; rfl
  obtain ⟨v, hv⟩ : ∃ v, (if counts.contains cPOISON then u.poisonedInput q y.w1.toNat else u) = v := ⟨_, rfl⟩
  have keep {γ : Type} (p : State → γ) (he : ∀ (s : State) k, p (s.raiseErr k) = p s) (hr : ∀ (s : State) q e, p (s.recordErr q e) = p s) :
      p v = p u := by
    rw [← hv]
    split
    · exact State.poisonedInput_frame p he hr _ _ _
    · rfl
  rw [State.putFetch, hgive, hv]
  exact {
    queue := by
      rw [State.queue_of_queues (State.push_queues _ _), State.queue_of_queues (State.tell_queues _ _),
        State.queue_of_queues (keep (·.queues) State.raiseErr_queues State.recordErr_queues), hqueue]
    ring := by
      rw [State.push_ring, State.tell_ring, keep (·.ring) State.raiseErr_ring State.recordErr_ring,
        frame (·.ring) State.count_ring fun s v => State.setQueue_ring s q v, hw]
      rfl
    cnt := by rw [State.push_cnt, State.tell_cnt, keep (·.cnt) State.raiseErr_cnt State.recordErr_cnt, hcnt]
    status := by
      rw [State.push_err, State.tell_err, ← hv, ← frame (·.err) State.count_err fun s v => State.setQueue_err s q v]
      split
      · exact State.poisonedInput_status _ _ _
      · rfl
    run := by
      rw [State.push_run, State.tell_run, keep (·.run) State.raiseErr_run State.recordErr_run,
        frame (·.run) State.count_run fun s v => State.setQueue_run s q v]
    arch := by
      rw [State.push_arch, State.tell_arch, keep (·.arch) State.raiseErr_arch State.recordErr_arch,
        frame (·.arch) State.count_arch fun s v => State.setQueue_arch s q v] }

/-! ### The checks of a packet -/

/-- A tag whose final reply is in the window has that reply written again (12 R299 b). -/
theorem State.packetChecks_duplicate {s : State} {q : BitVec 2} {ws : List Nat} {e : WinEntry} (hu : s.unfinished q (w32 (pTag ws)) = false)
    (he : (s.queue q).retained (w32 (pTag ws)) = some e) : s.packetChecks q ws = .answer (resend e) false [cDUPLICATE] false := by
  simp [State.packetChecks, hu, he]

/-- An undefined opcode under a new tag is accepted and refused (12 R295 row 2). -/
theorem State.packetChecks_undefined {s : State} {q : BitVec 2} {ws : List Nat} (hu : s.unfinished q (w32 (pTag ws)) = false)
    (hr : (s.queue q).retained (w32 (pTag ws)) = none) (hn : ∀ m, (s.queue q).newest = some m → tagAfter (w32 (pTag ws)) m = true)
    (ho : pOp ws > oDAWN) : s.packetChecks q ws = refuse q ws 0x03 0 0 := by
  have hany : (s.queue q).newest.any (fun m => !tagAfter (w32 (pTag ws)) m) = false := by
    cases h : (s.queue q).newest with
    | none => rfl
    | some m => simp [hn m h]
  simp [State.packetChecks, hu, hr, hany, ho]

/-! ### The row -/

theorem exec_packetFetch_idle {s : State} {q : BitVec 2} (hs : s.Live) (h : s.mayFetch q = false) : exec (.packetFetch q) s = .next s :=
  (functional_live hs _).trans (congrArg _ (if_neg (by simp [h])))

theorem exec_packetFetch_fetches {s : State} {q : BitVec 2} (hs : s.Live) (h : s.mayFetch q = true) :
    exec (.packetFetch q) s = .next (s.fetchStep q) :=
  (functional_live hs _).trans (congrArg _ (if_pos h))

theorem fetchStep_ready {s : State} {q : BitVec 2} {pkt : List Word} {ds : List (List Word)} (h : (s.queue q).fetch = .ready pkt ds) :
    s.fetchStep q = s := by
  simp only [State.fetchStep, h]

section Fetch

variable {s : State} {q : BitVec 2} (hi : (s.queue q).fetch = .idle)

include hi

theorem fetchStep_waits {t : State} (h : s.ask (ownFetch q) 3 0 [((s.queue q).packetAddr / 128, 0xFF)] = .wait t) : s.fetchStep q = t := by
  simp only [State.fetchStep, hi, h]

variable {u : State} {l : RdLine}
  (h : s.ask (ownFetch q) 3 0 [((s.queue q).packetAddr / 128, 0xFF)] = .ready u [((s.queue q).packetAddr / 128, l)])

include h

/-- A poisoned line disables the queue (12 R296). -/
theorem fetchStep_poisoned (hl : l.poison = true) :
    s.fetchStep q = u.putFetch q (fetchFailed q (s.queue q).head.toNat { status := 0x31 } cPOISON) := by
  simp only [State.fetchStep, hi, h]
  simp [sget, hl, State.putFetch]

theorem fetchStep_checks (hl : l.poison = false) :
    s.fetchStep q = u.putFetch q (u.packetChecks q (lineWords l ((s.queue q).packetAddr % 128) 16)) := by
  simp only [State.fetchStep, hi, h]
  simp [sget, hl, State.putFetch]

end Fetch

/-- Settles O49: the row asks for the one line of the head packet, and puts what its checks come to. -/
theorem packetFetches : Obligations.PacketFetches := by
  intro q s hs
  refine ⟨fun h => exec_packetFetch_idle hs h, fun pkt ds h => ?ready, fun a p hm hi hf ha hp => ?fetches⟩
  case ready =>
    by_cases hm : s.mayFetch q = true
    · rw [exec_packetFetch_fetches hs hm, fetchStep_ready h]
    · exact exec_packetFetch_idle hs (by simpa using hm)
  case fetches =>
    subst hp ha
    have row := exec_packetFetch_fetches hs hm
    refine ⟨fun hl hr => ?onItsWay, fun hl hr => ?requests, fun l ws u hl hws hu => ?here⟩
    case onItsWay =>
      have hwait := State.ask_awaits (owner := ownFetch q) hf hl 3 0 0xFF
      exact row.trans (congrArg _ ((fetchStep_waits hi hwait).trans
        (State.requestLine_onItsWay (s := s.awaiting (ownFetch q)) (owner := ownFetch q) hl hr 3 0 0 0xFF)))
    case requests =>
      have hwait := State.ask_awaits (owner := ownFetch q) hf hl 3 0 0xFF
      rw [row, fetchStep_waits hi hwait, ← Nat.div_div_eq_div_mul _ 128 32]
      refine ⟨fun i ht hx hid => congrArg _ ?translate, fun ht hmay => congrArg _ ?later, fun ph i ht hmay hw hn hid => congrArg _ ?read⟩
      case translate =>
        exact (State.requestLine_untranslated (s := s.awaiting (ownFetch q)) (owner := ownFetch q) hl hr ht 3 0 0 0xFF).trans
          (State.requestXlat_requests (s := (s.awaiting (ownFetch q)).wanting (ownFetch q) 0 _) (owner := ownFetch q) hx hid _ _)
      case later => exact State.requestLine_later (s := s.awaiting (ownFetch q)) (owner := ownFetch q) hl hr ht hmay 3 0 0xFF
      case read =>
        have hg := Port.readTag_free (p := s.port.unwant (ownFetch q)) (cls := 0) ht hw hn hid
        exact State.requestLine_drives (s := s.awaiting (ownFetch q)) (owner := ownFetch q) hl hr (ht.trans_ne nofun) hmay hg 3 0 0xFF
    case here =>
      have hready := State.ask_here (owner := ownFetch q) hf hl 3 0 0xFF
      have poisoned := fetchStep_poisoned hi hready
      have checked := fetchStep_checks hi hready
      subst hu
      rw [← hws] at checked
      refine ⟨fun f hpo hc hkind => ?holds, fun hw hrun => ?answers⟩
      case holds =>
        exact row.trans (congrArg _ ((checked hpo).trans ((congrArg _ hc).trans (State.putFetch_holds hkind))))
      case answers =>
        refine ⟨fun hpo => ?poisoned, fun hpo hun => ⟨fun e he => ?duplicate, fun hret hnew hop hnone hfence hsusp => ?undefinedOp⟩⟩
        case poisoned =>
          obtain ⟨hq, hring, hcnt, hstatus, hr, har⟩ := State.putFetch_answers (s := s.received (ownFetch q)) (q := q)
            (y := replyOf q 0 0 false { status := 0x31, info := (s.queue q).head.toNat, index := 0xFF, enters := false })
            hw hrun (.inl rfl) false [cPOISON] true
          exact ⟨_, row.trans (congrArg _ (poisoned hpo)), hq, hring, hcnt, hstatus, hr, har⟩
        case duplicate =>
          have hc := State.packetChecks_duplicate (s := s.received (ownFetch q)) hun he
          obtain ⟨hq, hring, hcnt, -, hr, har⟩ := State.putFetch_answers (s := s.received (ownFetch q)) (q := q) (y := resend e)
            hw hrun (.inl rfl) false [cDUPLICATE] false
          exact ⟨_, row.trans (congrArg _ ((checked hpo).trans (congrArg _ hc))), hring, hq, hcnt, hr, har⟩
        case undefinedOp =>
          have hc := State.packetChecks_undefined (s := s.received (ownFetch q)) hun hret hnew hop
          obtain ⟨hq, hring, hcnt, -, hr, har⟩ := State.putFetch_answers (s := s.received (ownFetch q)) (q := q)
            (y := replyOf q (pOp ws) (pTag ws) (pIrq ws) { status := 0x03 }) hw hrun (.inr ⟨hnone, hfence, hsusp⟩) true [cREFUSED] false
          exact ⟨_, row.trans (congrArg _ ((checked hpo).trans (congrArg _ hc))), hring, hq, hcnt, hr, har⟩

end Sys2Proof.Machine

/-! What a message to the partner, and the end of a command, leave of the pair (01 R37, 13 R310, R319, 17 R407, R409). -/

namespace Sys2Proof.Machine

open Sys2Proof

/-- The pair beside the data channel, the array token and the writes announced: what a message and the end of a command leave. -/
def Pair.steady (p : Pair) : Pair :=
  { p with credits := 16, tx := [], token := false, request := false, grant := false, release := false, grantUsed := false
           lastSelf := false, went := 0 }

theorem State.sendBeat_steady (s : State) (d : Line) (sb : BitVec 112) : (s.sendBeat d sb).pair.steady = s.pair.steady :=
  State.sendBeat_pair Pair.steady (fun _ _ _ => rfl) s d sb

theorem State.releaseToken_steady (s : State) : s.releaseToken.pair.steady = s.pair.steady := by
  unfold State.releaseToken
  dsimp only
  split <;> rfl

/-- Of the pair, leaving a command gives up the token and forgets what was announced. -/
theorem State.leave_pair (s : State) (r : Running) : (s.leave r).pair = { (s.abandonSegment r).releaseToken.pair with went := 0 } := rfl

theorem State.leave_steady (s : State) (r : Running) : (s.leave r).pair.steady = s.pair.steady := by
  rw [State.leave_pair]
  exact (State.releaseToken_steady _).trans (congrArg Pair.steady (State.abandonSegment_pair s r))

theorem State.leave_token (s : State) (r : Running) : (s.leave r).pair.token = false := (State.releaseToken_pair _).1

/-- The end of a command of this twin's own leaves the pair beside token and channel. -/
theorem State.endRun_steady (s : State) {r : Running} (h : r.stolen = none) (x : Say) (ks : List Nat) :
    (s.endRun r x ks).pair.steady = s.pair.steady := by
  have left (s : State) (r : Running) : (ks.foldl State.count (s.leave r)).pair.steady = s.pair.steady :=
    (foldl_frame (·.pair.steady) State.count (fun _ _ => rfl) _ _).trans (State.leave_steady s r)
  have recalled := State.recallBands_pair Pair.steady (fun _ _ _ => rfl) s r
  have ended := (left (s.recallBands r).1 (s.recallBands r).2).trans recalled
  unfold State.endRun
  rw [if_neg (by simp [h])]
  simp only [State.giveFinal_pair]
  split
  · exact ended
  · split
    · exact (State.tellEnd_pair Pair.steady (fun _ _ _ => rfl) _ _).trans ended
    · exact (State.tell_pair Pair.steady (fun _ _ _ => rfl) _ _).trans ended

/-- Of the state, a message changes the pair and what has been driven. -/
theorem State.sendBeat_eq (s : State) (d : Line) (sb : BitVec 112) :
    s.sendBeat d sb = { s with pair := (s.sendBeat d sb).pair, wires := (s.sendBeat d sb).wires } := by
  unfold State.sendBeat
  split <;> rfl

/-- A message is driven, or waits for a credit (17 R407). -/
theorem State.sendBeat_sent (s : State) (d : Line) (sb : BitVec 112) :
    (s.sendBeat d sb).wires.length + (s.sendBeat d sb).pair.tx.length = s.wires.length + s.pair.tx.length + 1 := by
  unfold State.sendBeat
  split
  · exact Nat.add_right_comm _ 1 _
  · simp [Nat.add_assoc]

/-- So are the beats of a fold that sends one at each of its steps. -/
theorem foldl_sendBeat_sent {β : Type} (d : State → β → Line) (sb : State → β → BitVec 112) (l : List β) (s : State) :
    (l.foldl (fun s k => s.sendBeat (d s k) (sb s k)) s).wires.length + (l.foldl (fun s k => s.sendBeat (d s k) (sb s k)) s).pair.tx.length =
      s.wires.length + s.pair.tx.length + l.length := by
  induction l generalizing s with
  | nil => rfl
  | cons k l ih =>
    rw [List.foldl_cons, ih, State.sendBeat_sent, List.length_cons]
    omega

theorem State.sendWords_sent (s : State) (k : Nat) (ws : List Nat) :
    (s.sendWords k ws).wires.length + (s.sendWords k ws).pair.tx.length = s.wires.length + s.pair.tx.length + cdiv ws.length 32 := by
  unfold State.sendWords
  exact (foldl_sendBeat_sent _ _ _ s).trans (by rw [List.length_range])

/-- A thief's band given up: nothing executes, the token is free, and beside the reads and writes of the band only the pair has
changed (13 R320). -/
structure State.BandGone (s t : State) : Prop where
  run : t.run = none
  token : t.pair.token = false
  steady : t.pair.steady = s.pair.steady
  fence : t.pow.fence = s.pow.fence
  arch : t.arch = s.arch
  queues : t.queues = s.queues
  ring : t.ring = s.ring
  cnt : t.cnt = s.cnt
  num : t.num = s.num

theorem State.abandonBand_gone (s : State) (r : Running) : s.BandGone (s.abandonBand r) where
  run := State.sendBeat_run _ _ _
  token := (State.sendBeat_pair (·.token) (fun _ _ _ => rfl) _ _ _).trans (State.leave_token s r)
  steady := (State.sendBeat_steady _ _ _).trans (State.leave_steady s r)
  fence := by simp [State.abandonBand, State.leave]
  arch := State.abandonBand_arch s r
  queues := State.abandonBand_queues s r
  ring := State.abandonBand_ring s r
  cnt := State.abandonBand_cnt s r
  num := State.abandonBand_num s r

end Sys2Proof.Machine

/-! The reads that clear (13 R333, 15 R363, 18 R415) and the FENCE pin (13 R315, R320, 16 R393). -/

namespace Sys2Proof.Machine

open Sys2Proof

theorem portRead_live {s : State} {a : BitVec 16} (h : s.Live) (ha : a.toNat % 4 = 0) (hs : stallAddr a.toNat = false) :
    portRead s a = (regReadEffect s a.toNat).drive (.reg (regRead s a.toNat) false) := by
  simp only [State.Live] at h
  simp [portRead, State.upToDate, ha, hs, h]

/-- Settles O17: each is a register-port read at its register's address. -/
theorem readsThatClear : Obligations.ReadsThatClear := by
  intro s hs
  exact ⟨congrArg _ (portRead_live (a := 0x0460) hs (by decide) (by decide)),
    congrArg _ (portRead_live (a := 0x2020) hs (by decide) (by decide))⟩

/-- The state whose FENCE level has risen, before what executes learns of it. -/
def State.fenced (s : State) : State := { s with pow := { s.pow with fence := true }, pair := { s.pair with claim := none } }

theorem fenceUp_idle {s : State} (h : s.run = none) : fenceUp s = s.fenced.releaseToken := by
  simp [fenceUp, State.fenced, h]

theorem fenceUp_own {s : State} {r : Running} (h : s.run = some r) (hs : r.stolen = none) : fenceUp s =
    { s.fenced with pow := { s.fenced.pow with fenceStop := suspends r.op && r.final.isNone && s.pow.state = .run } } := by
  simp [fenceUp, State.fenced, h, hs]

theorem fenceUp_stolen {s : State} {r : Running} {b : Nat} (h : s.run = some r) (hs : r.stolen = some b) :
    fenceUp s = s.fenced.abandonBand r := by
  simp [fenceUp, State.fenced, h, hs]

/-- Settles O29: a rise by what executes, nothing, a command of this twin's own, or a stolen band; a fall is one branch. -/
theorem fencePin : Obligations.FencePin := by
  intro s hs
  have rise : exec .fenceRise s = .next (fenceUp s) := functional_live hs _
  have fall : exec .fenceFall s = .next (fenceDown s) := functional_live hs _
  refine ⟨fun h => ?idle, fun r h hr => ?own, fun r b h hr => ?stolen, _, fall, rfl, ?falls⟩
  case idle =>
    have hp := State.releaseToken_steady s.fenced
    exact ⟨_, rise.trans (congrArg _ (fenceUp_idle h)), rfl, (State.releaseToken_pair _).1, rfl, (congrArg Pair.claim hp :),
      (congrArg Pair.mode hp :)⟩
  case own => exact rise.trans (congrArg _ (fenceUp_own h hr))
  case stolen =>
    have g := s.fenced.abandonBand_gone r
    exact ⟨_, rise.trans (congrArg _ (fenceUp_stolen h hr)), g.run, g.fence, g.token, (congrArg Pair.claim g.steady :), g.arch, g.queues,
      g.ring, g.cnt, g.num⟩
  case falls => simp [fenceDown, bne, beq_eq_decide]

end Sys2Proof.Machine

/-! The comparison of LOCKSTEP (13 R311-R313): a check that comes to its beat, one that differs or does not come, and the end of what the
beat belongs to. -/

namespace Sys2Proof.Machine

open Sys2Proof

theorem exec_pairCheck_live {s : State} (h : s.Live) (c : Word) : exec (.pairCheck c) s = .next (checkStep s c) := functional_live h _

theorem exec_lockstepCheckTimeout_live {s : State} (h : s.Live) : exec .lockstepCheckTimeout s = .next (checkTimeout s) :=
  functional_live h _

theorem State.leads_of_lockstep {s : State} (hm : s.pair.mode = .lockstep) (ha : s.straps.twinSide = false) : s.leads = true := by
  simp [State.leads, State.isA, hm, ha]

theorem State.leads_of_not_twinA {s : State} (h : s.pair.mode ≠ .lockstep ∨ s.straps.twinSide = true) : s.leads = false := by
  rcases h with h | h
  · exact State.leads_of_not_lockstep h
  · simp [State.leads, State.isA, h]

theorem State.nextReply_pair (s : State) : s.nextReply.pair = s.pair := by
  obtain ⟨_, _, _, e⟩ := s.nextReply_eq
  exact congrArg (·.pair) e

/-- Of the pair, a written reply lets the LOCKSTEP begin that a joint PAIR_MODE has agreed on (13 R309). -/
theorem State.replyWritten_pair {s : State} {y : Reply} {rest : List Reply} (h : s.ring.waiting = y :: rest) :
    s.replyWritten.pair = if s.pair.entering then { s.pair with entering := false, mode := .lockstep } else s.pair := by
  simp only [State.replyWritten, h, State.nextReply_pair]
  cases s.pair.entering <;> simp only [Bool.false_eq_true, ↓reduceIte] <;> split <;> split <;> rfl

theorem State.replyWritten_none {s : State} (h : s.ring.waiting = []) : s.replyWritten = s := by
  simp only [State.replyWritten, h]

theorem State.replyWritten_checks (s : State) : s.replyWritten.pair.checks = s.pair.checks := by
  cases h : s.ring.waiting with
  | nil => rw [State.replyWritten_none h]
  | cons y rest =>
    rw [State.replyWritten_pair h]
    split <;> rfl

/-- With no check to compare, no held beat is touched. -/
theorem State.compareHeld_unchecked {s : State} (h : s.pair.checks = []) (n : Nat) : s.compareHeld n = s := by
  cases n with
  | zero => rfl
  | succ n => simp [State.compareHeld, h]

theorem checkStep_ignored {s : State} (h : s.leads = false) (c : Word) : checkStep s c = s := by
  simp [checkStep, h]

theorem checkTimeout_ignored {s : State} (h : s.leads = false ∨ s.pair.held = []) : checkTimeout s = s := by
  rcases h with h | h <;> simp [checkTimeout, h]

/-- A check that comes before its beat is kept (log 10). -/
theorem checkStep_early {s : State} (hl : s.leads = true) (hh : s.pair.held = []) (c : Word) :
    checkStep s c = { s with pair := { s.pair with checks := s.pair.checks ++ [c] } } := by
  simp [checkStep, hl, hh, State.compareHeld]

section Held

variable {s : State} {b : WriteBeat} {tag : BitVec 6} {line : BitVec 45} {hs : List (WriteBeat × BitVec 6 × BitVec 45)}
  (hl : s.leads = true) (hh : s.pair.held = (b, tag, line) :: hs) (hc : s.pair.checks = [])

include hl hh hc

/-- The check equals that of the oldest held beat: the beat is written, and with it its reply. -/
theorem checkStep_equal {c : Word} (he : c = beatCheck b.data b.ben) : checkStep s c =
    if b.owner = 5 then ({ s with pair := { s.pair with held := hs } }.driveWrite b tag line).replyWritten
    else { s with pair := { s.pair with held := hs } }.driveWrite b tag line := by
  have hp : ({ s.pair with held := hs, checks := [] } : Pair) = { s.pair with held := hs } := by rw [← hc]
  simp only [checkStep, hl, if_true, hh, hc, List.nil_append, List.length_cons, State.compareHeld, if_pos he]
  rw [hp]
  refine State.compareHeld_unchecked ?_ hs.length
  split
  · exact (State.replyWritten_checks _).trans hc
  · exact hc

/-- The check differs: the oldest held beat diverges. -/
theorem checkStep_unequal {c : Word} (he : c ≠ beatCheck b.data b.ben) :
    checkStep s c = { s with pair := { s.pair with checks := [c] } }.diverge b line c false := by
  simp [checkStep, hl, hh, hc, State.compareHeld, he]

/-- No check has come for the oldest held beat: it diverges (13 R312). -/
theorem checkTimeout_late : checkTimeout s = s.diverge b line 0 true := by
  simp [checkTimeout, hl, hh, hc]

end Held

/-- Settles O42: a twin that does not lead ignores both rows; one that leads keeps an early check, or writes the beat that it equals. -/
theorem equalChecksWrite : Obligations.EqualChecksWrite := by
  intro c s hs
  have check := exec_pairCheck_live hs c
  have late := exec_lockstepCheckTimeout_live hs
  refine ⟨fun h => ?ignored, fun hm ha => ⟨fun hh => ?early, fun b tag line rest hh hc he => ?equal, fun hh => ?unheld⟩⟩
  case ignored =>
    have hl := State.leads_of_not_twinA h
    exact ⟨check.trans (congrArg _ (checkStep_ignored hl c)), late.trans (congrArg _ (checkTimeout_ignored (.inl hl)))⟩
  case early => exact check.trans (congrArg _ (checkStep_early (State.leads_of_lockstep hm ha) hh c))
  case equal =>
    have written := check.trans (congrArg _ (checkStep_equal (State.leads_of_lockstep hm ha) hh hc he))
    exact ⟨fun ho => by rw [written, if_neg ho], fun ho => by rw [written, if_pos ho]⟩
  case unheld => exact late.trans (congrArg _ (checkTimeout_ignored (.inr hh)))

end Sys2Proof.Machine

/-! Band stealing (13 R316-R319, 17 R410): claims and their answers, and the reports of bands done. -/

namespace Sys2Proof.Machine

open Sys2Proof

/-! ### Claims -/

theorem stealStep_claims {s : State} {o : StealOffer} (h : s.maySteal o = true) : stealStep s o =
    { s with pair := { s.pair with claim := some o } }.sendBeat 0 (sideband 4 (1 + o.band.toNat <<< 8) (rowCheck 0) false 0) :=
  if_pos h

theorem stealStep_without {s : State} {o : StealOffer} (h : s.maySteal o = false) : stealStep s o = s := if_neg (by simp [h])

/-- A twin steals only in SPLIT beside an attached partner, with its steal bit set and nothing executing (13 R316). -/
theorem State.maySteal_false {s : State} (h : s.pair.stealing = false ∨ s.run ≠ none ∨ s.pair.mode ≠ .split ∨ s.pair.partner ≠ .attached)
    (o : StealOffer) : s.maySteal o = false := by
  rcases h with h | h | h | h
  · simp [State.maySteal, h]
  · simp [State.maySteal, Option.isNone_eq_false_iff.mpr (Option.isSome_iff_ne_none.mpr h)]
  · simp [State.maySteal, h]
  · simp [State.maySteal, h]

theorem State.answerClaim_ignored {s : State} (h : s.pair.mode ≠ .split ∨ s.pow.failed = true) (b : Nat) : s.answerClaim b = s :=
  if_pos (by simpa using h)

section Answer

variable {s : State} (hm : s.pair.mode = .split) (hf : s.pow.failed = false)

include hm hf

/-- A claim is refused while nothing that may be stolen executes, while another stands, and for a band that has begun. -/
theorem State.answerClaim_refuses {b : Nat}
    (h : s.run = none ∨ ∃ r, s.run = some r ∧ (r.stealable = false ∨ r.claimed ≠ [] ∨ r.unbegun b = false)) :
    s.answerClaim b = s.sendBeat 0 (sideband 4 4 (rowCheck 0) false 0) := by
  unfold State.answerClaim
  rw [if_neg (by simp [hm, hf])]
  rcases h with h | ⟨r, h, hr⟩
  · simp only [h]
  · simp only [h]
    refine if_neg fun hc => ?_
    simp only [Bool.and_eq_true, List.isEmpty_iff, decide_eq_true_eq] at hc
    obtain ⟨⟨hsteal, hclaimed⟩, htop⟩ := hc
    rcases hr with hr | hr | hr
    · simp [hr] at hsteal
    · exact hr hclaimed
    · have hb := List.of_mem_filter (List.mem_of_getLast? htop)
      simp [hr] at hb

theorem State.answerClaim_grants {b : Nat} {r : Running} (h : s.run = some r) (hs : r.stealable = true) (hc : r.claimed = [])
    (ht : ((List.range (r.bandCount (geomOf s.straps.mxaGeom))).filter r.unbegun).getLast? = some b) :
    s.answerClaim b = { s with run := some { r with claimed := [b] } }.sendWords 5 (forwardWords s r 4 b) := by
  unfold State.answerClaim
  rw [if_neg (by simp [hm, hf])]
  simp [h, hs, hc, ht]

end Answer

/-- Settles O47: a claim is sent or not, and its answer is one branch of `answerClaim`; a granted command is forwarded beat by beat. -/
theorem bandClaims : Obligations.BandClaims := by
  intro s hs
  have steal (o : StealOffer) : exec (.bandSteal o) s = .next (stealStep s o) := functional_live hs _
  have answer (b : Word) : exec (.stealClaim b) s = .next (s.answerClaim b.toNat) := functional_live hs _
  refine ⟨fun o h => ?claims, fun o h => ?claimless, fun b h => ?ignored, fun b hm hf h => ?refused, fun b r hm hf h hst hc ht => ?granted⟩
  case claims => exact (steal o).trans (congrArg _ (stealStep_claims h))
  case claimless => exact (steal o).trans (congrArg _ (stealStep_without (State.maySteal_false h o)))
  case ignored => exact (answer b).trans (congrArg _ (State.answerClaim_ignored h _))
  case refused => exact (answer b).trans (congrArg _ (State.answerClaim_refuses hm hf h))
  case granted =>
    exact ⟨_, (answer b).trans (congrArg _ (State.answerClaim_grants hm hf h hst hc ht)), State.sendWords_run _ _ _, State.sendWords_arch _ _ _,
      State.sendWords_cnt _ _ _, State.sendWords_queues _ _ _, State.sendWords_sent _ _ _⟩

/-! ### Reports -/

/-- A band that was claimed is done. -/
def Running.bandDone (r : Running) (b : Nat) (y : StealReport) : Running :=
  { r with claimed := r.claimed.filter (· != b), reports := insertReport y r.reports }

section Done

variable {s : State} {r : Running} {x : StealReport} (h : s.run = some r) (hc : r.claimed.contains x.band.toNat = true)

include h hc

/-- With chunk records the values wait with the report (06 R168). -/
theorem stealDone_keeps (hk : r.op = 0x05 ∨ r.meridian = true) : stealDone s x =
    { s with cnt := s.cnt.raise 48 1, run := some (r.bandDone x.band.toNat x) } := by
  have hnow : (decide (r.op = oCHAIN) && !r.meridian) = false := by
    rcases hk with hk | hk <;> simp [hk, oCHAIN]
  simp only [stealDone, h, hc, hnow]
  rfl

/-- Without them they fold at once, and what the folds report waits with the report. -/
theorem stealDone_folds (ho : r.op = 0x03) (hm : r.meridian = false) : stealDone s x =
    { s with cnt := s.cnt.raise 48 1, arch := (foldStolen s.arch r r.walk x).1
             run := some (r.bandDone x.band.toNat (foldedReport r x (foldStolen s.arch r r.walk x).2)) } := by
  have hnow : (decide (r.op = oCHAIN) && !r.meridian) = true := by simp [ho, hm, oCHAIN]
  simp only [stealDone, h, hc, hnow]
  rfl

end Done

theorem stealDone_unclaimed {s : State} {x : StealReport} (h : ∀ r, s.run = some r → r.claimed.contains x.band.toNat = false) :
    stealDone s x = s := by
  unfold stealDone
  split
  case h_1 r hr => exact if_neg (by simp only [h r hr]; exact Bool.false_ne_true)
  case h_2 => rfl

/-- A report without values is kept as it came. -/
theorem foldedReport_valueless {x : StealReport} (h : x.sdata = []) (a : Arch) (r : Running) (w : Walk) :
    foldedReport r x (foldStolen a r w x).2 = x := by
  cases x
  simp only at h
  subst h
  simp [foldedReport, foldStolen]

/-- Settles O48: a report of a claimed band is kept or folded, by whether its command keeps chunk records. -/
theorem stolenBandsReported : Obligations.StolenBandsReported := by
  intro x s hs
  have row : exec (.stealBandDone x) s = .next (stealDone s x) := functional_live hs _
  refine ⟨fun r h hc hk => ?kept, fun r h hc ho hm => ?folded, fun r h hc => ?unclaimed, fun h => ?idle⟩
  case kept => exact row.trans (congrArg _ (stealDone_keeps h hc hk))
  case folded =>
    exact ⟨_, row.trans (congrArg _ (stealDone_folds h hc ho hm)), rfl, rfl, rfl, fun hx => foldedReport_valueless hx _ _ _, rfl⟩
  case unclaimed =>
    refine row.trans (congrArg _ (stealDone_unclaimed fun r' h' => ?_))
    obtain rfl : r = r' := Option.some.inj (h.symm.trans h')
    exact hc
  case idle => exact row.trans (congrArg _ (stealDone_unclaimed fun r' h' => absurd (h.symm.trans h') nofun))

end Sys2Proof.Machine

/-! Joint PAIR_MODE (13 R308, R309): the partner's match, the copy into LOCKSTEP and its arrival, and the time limit. -/

namespace Sys2Proof.Machine

open Sys2Proof

theorem State.waitsFor_waiting {s : State} {r : Running} {m : Nat} (hr : s.Runs r 0x0C) (hst : r.stage = .waiting)
    (hm : pf r.ws 6 0 2 = m) : s.waitsFor m = some r := by
  simp [State.waitsFor, hr.run, hr.op, oPAIR, hst, hm]

theorem State.waitsFor_idle {s : State} (h : s.run = none) (m : Nat) : s.waitsFor m = none := by
  simp only [State.waitsFor, h]

/-! ### The partner's match -/

theorem joinStep_without {s : State} {m : Nat} (h : s.waitsFor m = none) : joinStep s m [] = s := by
  simp only [joinStep, h]

theorem joinStep_split {s : State} {r : Running} (h : s.waitsFor 0 = some r) : joinStep s 0 [] =
    { s.endOk r with pair := (s.endOk r).pair.enter .split }.setSteal (bit (nth r.ws 6) 2) := by
  simp only [joinStep, h]
  rfl

/-- Entering a mode clears array_barred, and the steal bit leaves it. -/
theorem State.setSteal_arrayBarred (s : State) (b : Bool) : (s.setSteal b).pair.arrayBarred = s.pair.arrayBarred :=
  State.setSteal_frame (·.pair.arrayBarred) (fun _ _ => rfl) (fun _ _ _ => State.sendBeat_pair (·.arrayBarred) (fun _ _ _ => rfl) _ _ _) s b

section Lockstep

variable {s : State} {r : Running} (h : s.waitsFor 1 = some r) (hy : r.why = 0)

include h hy

/-- Twin B waits for the copy. -/
theorem joinStep_lockstep_twinB (hb : s.straps.twinSide = true) : joinStep s 1 [] = { s with run := some { r with why := 1 } } := by
  simp [joinStep, h, hy, State.isA, hb]

/-- Twin A sends it. -/
theorem joinStep_lockstep_twinA (ha : s.straps.twinSide = false) :
    joinStep s 1 [] = { s with run := some { r with why := 1 } }.sendCopy := by
  simp [joinStep, h, hy, State.isA, ha, State.eccList]

end Lockstep

/-- Sending the copy leaves what a message leaves. -/
theorem State.sendCopy_frame {γ : Type} (p : State → γ) (hp : ∀ (s : State) d sb, p (s.sendBeat d sb) = p s) (s : State) :
    p s.sendCopy = p s := by
  unfold State.sendCopy
  exact foldl_frame p _ (fun _ _ => hp _ _ _) _ s

theorem State.sendCopy_sent (s : State) :
    s.sendCopy.wires.length + s.sendCopy.pair.tx.length = s.wires.length + s.pair.tx.length + 7584 := by
  unfold State.sendCopy
  rw [foldl_sendBeat_sent, List.length_range]

/-! ### The time limit -/

theorem joinTimeout_idle {s : State} (h : s.run = none) : joinTimeout s = s := by
  simp only [joinTimeout, h]

theorem joinTimeout_refuses {s : State} {r : Running} (hr : s.Runs r 0x0C) (hst : r.stage = .waiting) (hy : r.why = 0) :
    joinTimeout s = s.refuseRun r 0x17 0 0 0 := by
  simp [joinTimeout, hr.run, hr.op, oPAIR, hst, hy]

/-! ### The copy's arrival -/

section Beat

variable {s : State} {sb : BitVec 112} (hm : s.pair.mode = .split) (hf : s.pow.failed = false)

include hm hf

theorem pairBeat_copy (hk : sb.extractLsb' 108 4 = 2) (d : Line) : pairBeat s d sb =
    (s.drive .pairCredit).copyBeat (sb.extractLsb' 44 64).toNat d (sb.extractLsb' 12 32) (sb.getLsbD 11) := by
  simp [pairBeat, hm, hf, hk]

theorem pairBeat_message (hk : sb.extractLsb' 108 4 = 4) (d : Line) : pairBeat s d sb =
    (s.drive .pairCredit).pairMessage (sb.extractLsb' 44 64).toNat := by
  simp [pairBeat, hm, hf, hk]

end Beat

/-- The last line completes twin B's copy, and twin A is told. -/
theorem State.copyBeat_last {s : State} {r : Running} {hdr : Nat} {d : Line} {check : Word} {poison : Bool} (h : s.waitsFor 1 = some r)
    (hb : s.straps.twinSide = true) (hk : hdr % 2 ^ 16 = 7583) (hc : copyBad hdr d check poison = false) :
    s.copyBeat hdr d check poison =
      ({ s with arch := s.arch.takeCopy hdr d check poison }.sendBeat 0 (sideband 4 10 (rowCheck 0) false 0)).enterLockstep r := by
  simp only [State.copyBeat, State.joining, h, State.isA, hb, hc, hk]
  rfl

/-- Twin A learns that the copy has arrived. -/
theorem State.pairMessage_copied {s : State} {r : Running} {hdr : Nat} (h : s.waitsFor 1 = some r) (hk : hdr % 256 = 10) :
    s.pairMessage hdr = s.enterLockstep r := by
  simp [State.pairMessage, State.joining, hk, h]

/-- The joint PAIR_MODE has ended: its reply waits, whose writing begins LOCKSTEP, and no queue holds a fetched packet (13 R309). -/
structure State.Entering (s : State) (r : Running) (t : State) : Prop where
  arch : t.arch = s.arch
  run : t.run = none
  reply : t.ring.waiting = [r.reply { status := 0 }]
  entering : t.pair.entering = true
  stealing : t.pair.stealing = false
  queue : ∀ q, t.queue q = { s.queue q with fetch := .idle }
  cnt : r.claimed = [] → t.cnt = s.cnt

theorem State.enterLockstep_entering {s : State} {r : Running} (hs : r.stolen = none) (hw : s.ring.waiting = []) :
    s.Entering r (s.enterLockstep r) := by
  have frame {γ : Type} (p : State → γ) (hp : ∀ s q, p (State.discardFetch s q) = p s) : p (allQ.foldl State.discardFetch s) = p s :=
    foldl_frame p _ hp _ _
  have h := (allQ.foldl State.discardFetch s).endOk_ended r hs
  have hring := frame (·.ring) State.discardFetch_ring
  obtain ⟨hrun, hreply⟩ := h.replies (by rw [hring, hw])
  exact {
    arch := h.arch.trans (frame (·.arch) State.discardFetch_arch)
    run := hrun
    reply := congrArg (·.waiting) hreply
    entering := rfl
    stealing := rfl
    queue := fun q => by
      have hq : q ∈ allQ := by rcases queue_cases q with rfl | rfl | rfl | rfl <;> decide
      exact (State.queue_of_queues h.queues q).trans ((discardFetch_foldl_queue allQ s q).trans (if_pos hq))
    cnt := fun hc => by
      have hcnt := h.cnt
      rw [hc] at hcnt
      exact hcnt.trans (frame (·.cnt) State.discardFetch_cnt) }

/-- The last line of the copy ends the command in twin B. -/
theorem State.copyBeat_entering {s : State} {r : Running} {hdr : Nat} {d : Line} {check : Word} {poison : Bool} (h : s.waitsFor 1 = some r)
    (hb : s.straps.twinSide = true) (hk : hdr % 2 ^ 16 = 7583) (hc : copyBad hdr d check poison = false) (hs : r.stolen = none)
    (hw : s.ring.waiting = []) :
    { s with arch := s.arch.takeCopy hdr d check poison }.Entering r (s.copyBeat hdr d check poison) := by
  have e := State.enterLockstep_entering (s := State.sendBeat { s with arch := s.arch.takeCopy hdr d check poison } 0
    (sideband 4 10 (rowCheck 0) false 0)) hs (by rw [State.sendBeat_ring]; exact hw)
  rw [State.copyBeat_last h hb hk hc]
  exact { e with
    arch := e.arch.trans (State.sendBeat_arch _ _ _)
    queue := fun q => by rw [e.queue q, State.queue_of_queues (State.sendBeat_queues _ _ _)]
    cnt := fun hc => (e.cnt hc).trans (State.sendBeat_cnt _ _ _) }

/-- Settles O46: the partner's match is one branch of `joinStep` by mode and twin; the copy's last line, and twin A's word of it, end the
command alike. -/
theorem jointModeChanges : Obligations.JointModeChanges := by
  intro s hs
  have join (m : BitVec 2) : exec (.pairModeJoin m []) s = .next (joinStep s m.toNat []) := functional_live hs _
  have late : exec .pairModeTimeout s = .next (joinTimeout s) := functional_live hs _
  refine ⟨fun r hr hst => ⟨fun _ hm hw => ?split, fun hy => ?refused, fun hy hm => ⟨fun hb => ?twinB, fun ha => ?twinA⟩,
    fun d sb x hm hsplit hf hw hx => ?arrives⟩, fun y rest he hw => ?entered, fun h m => ?idle⟩
  case split =>
    have h := enter_setSteal_entered hr.whole hw 0 (bit (nth r.ws 6) 2)
    exact ⟨_, (join 0).trans (congrArg _ (joinStep_split (State.waitsFor_waiting hr hst hm))), h.run, h.mode, h.stealing,
      State.setSteal_arrayBarred _ _, congrArg (·.waiting) h.ring, h.arch, h.queues⟩
  case refused => exact ⟨_, late.trans (congrArg _ (joinTimeout_refuses hr hst hy)), s.refuseRun_ended r 0x17 0 0 0 hr.whole⟩
  case twinB => exact (join 1).trans (congrArg _ (joinStep_lockstep_twinB (State.waitsFor_waiting hr hst hm) hy hb))
  case twinA =>
    exact ⟨_, (join 1).trans (congrArg _ (joinStep_lockstep_twinA (State.waitsFor_waiting hr hst hm) hy ha)),
      State.sendCopy_frame (·.run) State.sendBeat_run _, State.sendCopy_frame (·.arch) State.sendBeat_arch _,
      State.sendCopy_frame (·.queues) State.sendBeat_queues _, State.sendCopy_frame (·.ring) State.sendBeat_ring _,
      State.sendCopy_frame (·.cnt) State.sendBeat_cnt _, State.sendCopy_frame (·.pair.mode) State.sendBeat_mode _, State.sendCopy_sent _⟩
  case arrives =>
    have waits : (s.drive .pairCredit).waitsFor 1 = some r := State.waitsFor_waiting (s := s) hr hst hm
    have row : exec (.pairDataBeat d sb) s = .next (pairBeat s d sb) := functional_live hs _
    rcases hx with ⟨hb, hk, hlast, hgood, rfl⟩ | ⟨hk, hcode, rfl⟩
    · have h := State.copyBeat_entering waits hb hlast hgood hr.whole hw
      exact ⟨_, row.trans (congrArg _ (pairBeat_copy hsplit hf hk d)), h.arch, h.run, h.reply, h.entering, h.stealing, h.queue, h.cnt⟩
    · have he := (pairBeat_message hsplit hf hk d).trans (State.pairMessage_copied waits hcode)
      have h := State.enterLockstep_entering (s := s.drive .pairCredit) hr.whole hw
      exact ⟨_, row.trans (congrArg _ he), h.arch, h.run, h.reply, h.entering, h.stealing, h.queue, h.cnt⟩
  case entered => rw [State.replyWritten_pair hw, if_pos he]
  case idle =>
    exact ⟨(join m).trans (congrArg _ (joinStep_without (State.waitsFor_idle h _))), late.trans (congrArg _ (joinTimeout_idle h))⟩

end Sys2Proof.Machine

/-! Divergence (13 R311-R313): what an unequal or late check makes of the pair, and of the command or the reply that its beat belongs to. -/

namespace Sys2Proof.Machine

open Sys2Proof

/-! ### The pair divided -/

/-- The pair after a divergence: SPLIT without stealing, and nothing of LOCKSTEP left (13 R312). -/
def Pair.divided (p : Pair) : Pair :=
  { p with mode := .split, stealing := false, partnerStealing := false, diverged := true, held := [], checks := []
           rx := [], quarters := [], goes := 0, goesSave := 0, mirrored := [] }

theorem State.splitDiverged_eq (s : State) : s.splitDiverged = { s with
    pair := s.pair.divided
    ring := { s.ring with issued := false }
    err := { s.err with status := s.err.status ||| 0x40 }
    run := s.run.filter fun r => !r.mirror } := by
  unfold State.splitDiverged
  cases s.run with
  | none => simp [State.raiseErr, Pair.divided]
  | some r => cases hm : r.mirror <;> simp [State.raiseErr, Pair.divided, Option.filter, hm]

/-- The divergence record of a beat of the physical line `line`, unless the record is full. -/
def Rec5.diverge (old : Rec5) (line : BitVec 45) (own a b : Word) (late : Bool) : Rec5 :=
  if old.w0.getLsbD 31 then old else
    ⟨0x80000000 ||| (if late then 0x40000000 else 0) ||| BitVec.ofNat 32 (128 * line.toNat / 2 ^ 32), BitVec.ofNat 32 (128 * line.toNat),
      own, a, b⟩

theorem State.fillDiverge_eq (s : State) (line : BitVec 45) (own a b : Word) (late : Bool) :
    s.fillDiverge line own a b late = { s with pair := { s.pair with diverge := s.pair.diverge.diverge line own a b late } } := by
  unfold State.fillDiverge Rec5.diverge
  split
  · rfl
  · cases late <;> simp [flag, w32, Nat.shiftRight_eq_div_pow]

/-- The pair has left LOCKSTEP with the record `d`, and nothing has ended yet. -/
structure State.Divided (s : State) (d : Rec5) (v : State) : Prop where
  cnt : v.cnt = s.cnt
  err : v.err = { s.err with status := s.err.status ||| 0x40 }
  arch : v.arch = s.arch
  queues : v.queues = s.queues
  port : v.port = s.port
  ring : v.ring = { s.ring with issued := false }
  run : v.run = s.run.filter fun r => !r.mirror
  mode : v.pair.mode = .split
  stealing : v.pair.stealing = false
  diverged : v.pair.diverged = true
  held : v.pair.held = []
  diverge : v.pair.diverge = d

/-- The state in which a comparison has failed, its record filled, its partner told and the pair divided. -/
def State.divided (s : State) (line : BitVec 45) (own a b : Word) (late : Bool) : State :=
  ((s.fillDiverge line own a b late).sendBeat 0 (sideband 4 6 (rowCheck 0) false 0)).splitDiverged

theorem State.divided_divided (s : State) (line : BitVec 45) (own a b : Word) (late : Bool) :
    s.Divided (s.pair.diverge.diverge line own a b late) (s.divided line own a b late) := by
  rw [State.divided, State.fillDiverge_eq, State.splitDiverged_eq]
  exact {
    cnt := State.sendBeat_cnt _ _ _
    err := congrArg (fun e : ErrRegs => { e with status := e.status ||| 0x40 }) (State.sendBeat_err _ _ _)
    arch := State.sendBeat_arch _ _ _
    queues := State.sendBeat_queues _ _ _
    port := State.sendBeat_port _ _ _
    ring := congrArg (fun g : ReplyRing => { g with issued := false }) (State.sendBeat_ring _ _ _)
    run := congrArg (Option.filter fun r => !r.mirror) (State.sendBeat_run _ _ _)
    mode := rfl
    stealing := rfl
    diverged := rfl
    held := rfl
    diverge := State.sendBeat_pair (·.diverge) (fun _ _ _ => rfl) _ _ _ }

/-! ### What ends -/

theorem foldl_driveWrite_writes (l : List (WriteBeat × BitVec 6 × BitVec 45)) (s : State) :
    (l.foldl (fun s h => s.driveWrite h.1 h.2.1 h.2.2) s).port.writes = s.port.writes ++ l.map fun h => ⟨h.2.1, h.1.owner, h.2.2⟩ := by
  induction l generalizing s with
  | nil => exact (List.append_nil _).symm
  | cons h l ih =>
    rw [List.foldl_cons, ih, List.map_cons, ← List.singleton_append, ← List.append_assoc]
    rfl

/-- A reply that has diverged takes the status, and a command that it would have left suspended is over. -/
theorem State.replyDiverged_eq {s : State} {y : Reply} {rest : List Reply} (h : s.ring.waiting = y :: rest) : s.replyDiverged =
    { s with
      ring := { s.ring with waiting := divergedReply y :: rest }
      queues := if y.w0.getLsbD 23 then s.queues.set y.queue { s.queue y.queue with susp := none } else s.queues } := by
  simp only [State.replyDiverged, h]
  split <;> rfl

theorem State.replyDiverged_queue {s : State} {y : Reply} {rest : List Reply} (h : s.ring.waiting = y :: rest) (q : BitVec 2) :
    s.replyDiverged.queue q = if y.w0.getLsbD 23 ∧ q = y.queue then { s.queue q with susp := none } else s.queue q := by
  rw [State.replyDiverged_eq h]
  cases y.w0.getLsbD 23 with
  | false => simp [State.queue]
  | true =>
    by_cases hq : q = y.queue
    · subst hq
      simp [State.queue]
    · simp [State.queue, hq, Quad.get_set_other]

/-- The beat `b` is of the reply of tag `own` that waits first, of the executing command of that tag, a whole one of this twin's own whose
bands the partner has not claimed, or of neither. -/
def State.BeatOf (s : State) (b : WriteBeat) (own : Word) : Prop :=
  (∃ y rest, b.owner = 5 ∧ s.ring.waiting = y :: rest ∧ own = y.w1) ∨
  (∃ r, b.owner ≠ 5 ∧ s.run = some r ∧ r.final = none ∧ r.mirror = false ∧ r.stolen = none ∧ r.claimed = [] ∧
    own = BitVec.ofNat 32 (pTag r.ws)) ∨
  (b.owner ≠ 5 ∧ s.run = none ∧ own = 0)

theorem State.BeatOf.divergedTag {s : State} {b : WriteBeat} {own : Word} (h : s.BeatOf b own) : s.divergedTag b = own := by
  rcases h with ⟨y, rest, ho, hw, rfl⟩ | ⟨r, ho, hr, -, -, -, -, rfl⟩ | ⟨ho, hr, rfl⟩
  · simp [State.divergedTag, ownReply, ho, hw]
  · simp [State.divergedTag, ownReply, ho, hr, w32]
  · simp [State.divergedTag, ownReply, ho, hr]

section Diverge

variable {s v : State} {b : WriteBeat} {line : BitVec 45} {c : Word} {late : Bool}
  (hv : s.divided line (s.divergedTag b) (beatCheck b.data b.ben) c late = v)

include hv

/-- The beat of a reply: the beats behind it are written. -/
theorem State.diverge_reply (ho : b.owner = 5) : s.diverge b line c late =
    ((s.pair.held.drop 1).foldl (fun s h => s.driveWrite h.1 h.2.1 h.2.2) v.replyDiverged).count cLOCKDIV := by
  subst hv
  exact if_pos ho

/-- A beat of the executing command ends it. -/
theorem State.diverge_command {r : Running} (ho : b.owner ≠ 5) (hr : v.run = some r) (hf : r.final = none) :
    s.diverge b line c late = v.endRun r { status := 0x34 } [cLOCKDIV] := by
  subst hv
  refine (if_neg ho).trans ?_
  split
  case h_1 r' h' =>
    obtain rfl : r = r' := Option.some.inj (hr.symm.trans h')
    exact if_neg (by simp [hf])
  case h_2 h' => exact absurd (hr.symm.trans h') nofun

theorem State.diverge_idle (ho : b.owner ≠ 5) (hr : v.run = none) : s.diverge b line c late = v.count cLOCKDIV := by
  subst hv
  refine (if_neg ho).trans ?_
  split
  case h_1 r' h' => exact absurd (hr.symm.trans h') nofun
  case h_2 => rfl

end Diverge

/-- The comparison of the beat `b` of the line `line` has failed, with the beats `hs` held behind it and `own` the tag of the command
that it belongs to. -/
structure State.Diverged (s : State) (b : WriteBeat) (hs : List (WriteBeat × BitVec 6 × BitVec 45)) (d : Rec5) (t : State) : Prop where
  cnt : t.cnt = s.cnt.raise 50 1
  err : t.err = { s.err with status := s.err.status ||| 0x40 }
  arch : t.arch = s.arch
  mode : t.pair.mode = .split
  stealing : t.pair.stealing = false
  diverged : t.pair.diverged = true
  held : t.pair.held = []
  issued : t.ring.issued = false
  diverge : t.pair.diverge = d
  data : b.owner ≠ 5 → t.port.writes = s.port.writes ∧ t.queues = s.queues ∧
    (∀ r, s.run = some r → s.ring.waiting = [] → t.run = none ∧ t.ring.waiting = [r.reply { status := 0x34 }]) ∧
    (s.run = none → t.run = none ∧ t.ring.waiting = s.ring.waiting)
  reply : ∀ y rest, b.owner = 5 → s.ring.waiting = y :: rest → (∀ r, s.run = some r → r.mirror = false) → t.run = s.run ∧
    t.ring.waiting = divergedReply y :: rest ∧ t.port.writes = s.port.writes ++ hs.map (fun h => ⟨h.2.1, h.1.owner, h.2.2⟩) ∧
    ∀ q, t.queue q = if y.w0.getLsbD 23 ∧ q = y.queue then { s.queue q with susp := none } else s.queue q

section Ends

variable {s v : State} {b : WriteBeat} {hs : List (WriteBeat × BitVec 6 × BitVec 45)} {d : Rec5} (hv : s.Divided d v)

include hv

theorem State.Divided.run_own (h : ∀ r, s.run = some r → r.mirror = false) : v.run = s.run := by
  rw [hv.run]
  cases hr : s.run with
  | none => rfl
  | some r => simp [Option.filter, h r hr]

/-- No command executes: the divergence is counted, and nothing ends. -/
theorem State.Divided.count_diverged (ho : b.owner ≠ 5) (hr : s.run = none) : s.Diverged b hs d (v.count cLOCKDIV) where
  cnt := congrArg (·.raise 50 1) hv.cnt
  err := hv.err
  arch := hv.arch
  mode := hv.mode
  stealing := hv.stealing
  diverged := hv.diverged
  held := hv.held
  issued := congrArg (·.issued) hv.ring
  diverge := hv.diverge
  data _ := ⟨congrArg (·.writes) hv.port, hv.queues, fun r h => absurd (hr.symm.trans h) nofun,
    fun _ => ⟨(hv.run_own (by simp [hr])).trans hr, congrArg (·.waiting) hv.ring⟩⟩
  reply _ _ h := absurd h ho

/-- The executing command ends with ST_LOCKSTEP_DIVERGE. -/
theorem State.Divided.endRun_diverged {r : Running} (ho : b.owner ≠ 5) (hr : s.run = some r) (hs' : r.stolen = none) (hc : r.claimed = []) :
    s.Diverged b hs d (v.endRun r { status := 0x34 } [cLOCKDIV]) := by
  have h := v.endRun_ended r { status := 0x34 } [cLOCKDIV] hs'
  have hp := v.endRun_steady hs' { status := 0x34 } [cLOCKDIV]
  have hcnt := h.cnt
  rw [hc, hv.cnt] at hcnt
  exact {
    cnt := hcnt
    err := h.err.trans hv.err
    arch := h.arch.trans hv.arch
    mode := h.mode.trans hv.mode
    stealing := (congrArg Pair.stealing hp :).trans hv.stealing
    diverged := (congrArg Pair.diverged hp :).trans hv.diverged
    held := (congrArg Pair.held hp :).trans hv.held
    issued := by
      rw [h.ring, hv.ring]
      split <;> rfl
    diverge := (congrArg Pair.diverge hp :).trans hv.diverge
    data := fun _ => ⟨(v.endRun_writes hs' _ _).trans (congrArg (·.writes) hv.port), h.queues.trans hv.queues, fun r' h' hw => by
      obtain rfl : r = r' := Option.some.inj (hr.symm.trans h')
      obtain ⟨hrun, hring⟩ := h.replies ((congrArg (·.waiting) hv.ring).trans hw)
      exact ⟨hrun, congrArg (·.waiting) hring⟩, fun h' => absurd (hr.symm.trans h') nofun⟩
    reply := fun _ _ h => absurd h ho }

/-- The reply takes the status, and the beats behind its own are written. -/
theorem State.Divided.replyDiverged_diverged {y : Reply} {rest : List Reply} (ho : b.owner = 5) (hw : s.ring.waiting = y :: rest) :
    s.Diverged b hs d ((hs.foldl (fun s h => s.driveWrite h.1 h.2.1 h.2.2) v.replyDiverged).count cLOCKDIV) := by
  have hw' := (congrArg ReplyRing.waiting hv.ring).trans hw
  have hqueue := State.replyDiverged_queue hw'
  have hu := State.replyDiverged_eq hw'
  generalize v.replyDiverged = u at hu hqueue ⊢
  have frame {γ : Type} (p : State → γ) (hp : ∀ (s : State) b t l, p (s.driveWrite b t l) = p s) :
      p (hs.foldl (fun s h => s.driveWrite h.1 h.2.1 h.2.2) u) = p u := foldl_frame p _ (fun _ _ => hp _ _ _ _) _ _
  have hpair := (frame (·.pair) State.driveWrite_pair).trans (congrArg (·.pair) hu)
  have hring := (frame (·.ring) State.driveWrite_ring).trans (congrArg (·.ring) hu)
  have hwrites := foldl_driveWrite_writes hs u
  exact {
    cnt := congrArg (·.raise 50 1) ((frame (·.cnt) State.driveWrite_cnt).trans ((congrArg (·.cnt) hu).trans hv.cnt))
    err := (frame (·.err) State.driveWrite_err).trans ((congrArg (·.err) hu).trans hv.err)
    arch := (frame (·.arch) State.driveWrite_arch).trans ((congrArg (·.arch) hu).trans hv.arch)
    mode := (congrArg Pair.mode hpair).trans hv.mode
    stealing := (congrArg Pair.stealing hpair).trans hv.stealing
    diverged := (congrArg Pair.diverged hpair).trans hv.diverged
    held := (congrArg Pair.held hpair).trans hv.held
    issued := (congrArg ReplyRing.issued hring).trans (congrArg ReplyRing.issued hv.ring)
    diverge := (congrArg Pair.diverge hpair).trans hv.diverge
    data := fun h => absurd ho h
    reply := fun y' rest' _ hw' hm => by
      obtain ⟨rfl, rfl⟩ := List.cons.inj (hw.symm.trans hw')
      refine ⟨(frame (·.run) State.driveWrite_run).trans ((congrArg (·.run) hu).trans (hv.run_own hm)),
        congrArg ReplyRing.waiting hring, ?_, fun q => ?_⟩
      · rw [← hv.port, show v.port = u.port from congrArg (·.port) hu.symm]
        exact hwrites
      · rw [← State.queue_of_queues hv.queues q, ← hqueue q]
        exact State.queue_of_queues (frame (·.queues) State.driveWrite_queues) q }

end Ends

theorem State.diverge_diverged {s : State} {b : WriteBeat} {tag : BitVec 6} {line : BitVec 45}
    {hs : List (WriteBeat × BitVec 6 × BitVec 45)} (hh : s.pair.held = (b, tag, line) :: hs) {own : Word} (hb : s.BeatOf b own) (k : Word)
    (late : Bool) :
    s.Diverged b hs (s.pair.diverge.diverge line own (beatCheck b.data b.ben) k late) (s.diverge b line k late) := by
  have hv := s.divided_divided line (s.divergedTag b) (beatCheck b.data b.ben) k late
  rw [← hb.divergedTag]
  rcases hb with ⟨y, rest, ho, hw, -⟩ | ⟨r, ho, hr, hf, hm, hstolen, hc, -⟩ | ⟨ho, hr, -⟩
  case inl =>
    rw [State.diverge_reply rfl ho, hh]
    exact hv.replyDiverged_diverged ho hw
  case inr.inl =>
    have hrun := (hv.run_own fun r' h' => by rwa [← Option.some.inj (hr.symm.trans h')]).trans hr
    rw [State.diverge_command rfl ho hrun hf]
    exact hv.endRun_diverged ho hr hstolen hc
  case inr.inr =>
    have hrun := (hv.run_own fun r' h' => absurd (hr.symm.trans h') nofun).trans hr
    rw [State.diverge_idle rfl ho hrun]
    exact hv.count_diverged ho hr

/-- Settles O43: both rows come to the divergence of the oldest held beat, whose end is by what the beat belongs to. -/
theorem unequalChecksDiverge : Obligations.UnequalChecksDiverge := by
  intro c b tag line hs s hlive hm ha hh hc e k own late he hown
  have hl := State.leads_of_lockstep hm ha
  rcases he with ⟨rfl, hne, rfl, rfl⟩ | ⟨rfl, rfl, rfl⟩
  · have h := State.diverge_diverged (s := { s with pair := { s.pair with checks := [k] } }) hh hown k false
    exact ⟨_, (exec_pairCheck_live hlive k).trans (congrArg _ (checkStep_unequal hl hh hc hne)), h.cnt, h.err, h.arch, h.mode, h.stealing,
      h.diverged, h.held, h.issued, h.diverge, h.data, h.reply⟩
  · have h := State.diverge_diverged hh hown 0 true
    exact ⟨_, (exec_lockstepCheckTimeout_live hlive).trans (congrArg _ (checkTimeout_late hl hh hc)), h.cnt, h.err, h.arch, h.mode,
      h.stealing, h.diverged, h.held, h.issued, h.diverge, h.data, h.reply⟩

end Sys2Proof.Machine

/-! The partner's presence (13 R306, R307, R313, R314, R319, R320): one that attaches or goes to SOLO, and one that is gone. -/

namespace Sys2Proof.Machine

open Sys2Proof

/-! ### A partner that is there -/

/-- The state that has seen what the partner has become. -/
def State.sees (s : State) (p : PartnerState) : State :=
  { s with pair := { s.pair with partner := p, partnerFailed := decide (p = .failed) } }

/-- Setting the steal bit changes the pair and what has been driven. -/
theorem State.setSteal_eq (s : State) (b : Bool) : s.setSteal b = { s with pair := (s.setSteal b).pair, wires := (s.setSteal b).wires } := by
  unfold State.setSteal
  dsimp only
  split
  · rfl
  · rw [State.sendBeat_eq]

theorem State.setSteal_partner (s : State) (b : Bool) : (s.setSteal b).pair.partner = s.pair.partner :=
  State.setSteal_frame (·.pair.partner) (fun _ _ => rfl) (fun _ _ _ => State.sendBeat_pair (·.partner) (fun _ _ _ => rfl) _ _ _) s b

theorem aliveStep_solo (s : State) : aliveStep s .solo = { s with pair := { s.pair with
    partner := .solo, partnerFailed := false, arrayBarred := decide (s.pair.mode ≠ .solo) } } := by
  simp [aliveStep, bne, beq_eq_decide]

theorem aliveStep_attached (s : State) : aliveStep s .attached =
    if s.pair.mode = .split then
      { s with pair := { s.pair with partner := .attached, partnerFailed := false, arrayBarred := false } }.setSteal s.pair.stealing
    else { s with pair := { s.pair with partner := .attached, partnerFailed := false, arrayBarred := false } } := rfl

/-! ### Bands at the loss of the partner -/

/-- The state in which this twin asks for no band any more. -/
def State.unclaiming (s : State) : State := { s with pair := { s.pair with claim := none } }

theorem State.dropSteals_idle {s : State} (h : s.run = none) : s.dropSteals = s.unclaiming := by
  simp [State.dropSteals, State.unclaiming, h]

theorem State.dropSteals_thief {s : State} {r : Running} {b : Nat} (h : s.run = some r) (hs : r.stolen = some b) :
    s.dropSteals = s.unclaiming.leave r := by
  simp [State.dropSteals, State.unclaiming, h, hs]

theorem State.dropSteals_owner {s : State} {r : Running} (h : s.run = some r) (hs : r.stolen = none) :
    s.dropSteals = r.claimed.foldl State.bandAbandoned s.unclaiming := by
  simp [State.dropSteals, State.unclaiming, h, hs]

theorem State.bandAbandoned_eq (s : State) (b : Nat) :
    s.bandAbandoned b = { s with cnt := (s.bandAbandoned b).cnt, run := (s.bandAbandoned b).run } := by
  unfold State.bandAbandoned
  split
  · split <;> rfl
  · rfl

theorem State.bandAbandoned_mirror (s : State) (b : Nat) : (s.bandAbandoned b).run.map (·.mirror) = s.run.map (·.mirror) := by
  unfold State.bandAbandoned
  split
  case h_1 r h => split <;> simp [h]
  case h_2 h => rfl

/-- The one band that the partner had is counted, and its owner runs it (13 R319). -/
theorem State.bandAbandoned_claimed {s : State} {r : Running} {b : Nat} (h : s.run = some r) (hc : r.claimed = [b]) :
    s.bandAbandoned b = { s with
      cnt := s.cnt.raise 49 1
      run := some { r with claimed := [], skipped := if b < r.front then r.skipped ++ [b] else r.skipped } } := by
  simp [State.bandAbandoned, State.count, cSTEALAB, h, hc]

/-- Dropping the shared bands leaves what leaving a command leaves and what is neither the command nor a count. -/
theorem State.dropSteals_frame {γ : Type} (p : State → γ) (hl : ∀ (s : State) r, p (s.leave r) = p s)
    (hb : ∀ (s : State) c x, p { s with cnt := c, run := x } = p s) (s : State) : p s.dropSteals = p s.unclaiming := by
  cases h : s.run with
  | none => rw [State.dropSteals_idle h]
  | some r =>
    cases hs : r.stolen with
    | some b => rw [State.dropSteals_thief h hs, hl]
    | none =>
      rw [State.dropSteals_owner h hs]
      exact foldl_frame p _ (fun s b => by rw [State.bandAbandoned_eq, hb]) _ _

/-- What executes and what is counted once the shared bands are dropped. -/
structure State.BandsDropped (s t : State) : Prop where
  idle : s.run = none → t.run = none ∧ t.cnt = s.cnt
  thief : ∀ r b, s.run = some r → r.stolen = some b → t.run = none ∧ t.cnt = s.cnt
  unclaimed : ∀ r, s.run = some r → r.stolen = none → r.claimed = [] → t.run = some r ∧ t.cnt = s.cnt
  claimed : ∀ r b, s.run = some r → r.stolen = none → r.claimed = [b] → t.cnt = s.cnt.raise 49 1 ∧
    t.run = some { r with claimed := [], skipped := if b < r.front then r.skipped ++ [b] else r.skipped }
  mirror : ∀ r, s.run = some r → ∀ r', t.run = some r' → r'.mirror = r.mirror

theorem State.dropSteals_dropped (s : State) : s.BandsDropped s.dropSteals where
  idle h := by
    rw [State.dropSteals_idle h]
    exact ⟨h, rfl⟩
  thief r b h hs := by
    rw [State.dropSteals_thief h hs]
    exact ⟨rfl, State.leave_cnt _ _⟩
  unclaimed r h hs hc := by
    rw [State.dropSteals_owner h hs, hc]
    exact ⟨h, rfl⟩
  claimed r b h hs hc := by
    rw [State.dropSteals_owner h hs, hc, List.foldl_cons, State.bandAbandoned_claimed (s := s.unclaiming) h hc]
    exact ⟨rfl, rfl⟩
  mirror r h r' h' := by
    cases hs : r.stolen with
    | some b =>
      rw [State.dropSteals_thief h hs] at h'
      exact absurd (h' : none = some r') nofun
    | none =>
      rw [State.dropSteals_owner h hs] at h'
      have hm := foldl_frame (fun s : State => s.run.map (·.mirror)) State.bandAbandoned State.bandAbandoned_mirror r.claimed s.unclaiming
      rw [h', show s.unclaiming.run = some r from h] at hm
      exact Option.some.inj hm

/-! ### LOCKSTEP at the loss of the partner -/

/-- The state whose held beats are let go. -/
def State.unheld (s : State) : State := { s with pair := { s.pair with held := [], checks := [] } }

/-- With no reply among them, the held beats are written and nothing else is (13 R313). -/
theorem State.releaseHeld_eq {s : State} (h : ∀ x ∈ s.pair.held, x.1.owner ≠ 5) :
    s.releaseHeld = s.pair.held.foldl (fun s h => s.driveWrite h.1 h.2.1 h.2.2) s.unheld := by
  unfold State.releaseHeld
  exact List.foldl_ext _ _ _ fun t x hx => if_neg (h x hx)

theorem State.releaseHeld_frame {s : State} (h : ∀ x ∈ s.pair.held, x.1.owner ≠ 5) {γ : Type} (p : State → γ)
    (hp : ∀ (s : State) b t l, p (s.driveWrite b t l) = p s) : p s.releaseHeld = p s.unheld := by
  rw [State.releaseHeld_eq h]
  exact foldl_frame p _ (fun _ _ => hp _ _ _ _) _ _

theorem State.releaseHeld_writes {s : State} (h : ∀ x ∈ s.pair.held, x.1.owner ≠ 5) :
    s.releaseHeld.port.writes = s.port.writes ++ s.pair.held.map fun h => ⟨h.2.1, h.1.owner, h.2.2⟩ := by
  rw [State.releaseHeld_eq h]
  exact foldl_driveWrite_writes _ _

/-- The pair beside what LOCKSTEP holds and mirrors. -/
def Pair.unmirrored (p : Pair) : Pair := { p with held := [], checks := [], rx := [], quarters := [], mirrored := [] }

/-- The pair of a twin that has lost its partner in LOCKSTEP. -/
def Pair.alone (p : Pair) : Pair :=
  { p with mode := .solo, stealing := false, partnerStealing := false, autoSolo := true, entering := false }

/-- LOCKSTEP has become SOLO because the partner is gone (13 R313). -/
structure State.SoloAlone (s t : State) : Prop where
  pair : t.pair.unmirrored = s.pair.alone.unmirrored
  run : t.run = s.run.filter fun r => !(s.straps.twinSide && r.mirror)
  writes : t.port.writes =
    if s.straps.twinSide = false then s.port.writes ++ s.pair.held.map (fun h => ⟨h.2.1, h.1.owner, h.2.2⟩) else s.port.writes
  arch : t.arch = s.arch
  queues : t.queues = s.queues
  ring : t.ring = s.ring
  err : t.err = s.err
  cnt : t.cnt = s.cnt

theorem option_filter_true {α : Type} (x : Option α) : x.filter (fun _ => true) = x := by cases x <;> rfl

/-- Twin A as it goes on in SOLO, before it lets its held beats go. -/
def State.lonely (s : State) : State := { s with pair := { s.pair.alone with mirrored := [] } }

theorem State.autoSolo_twinA {s : State} (ha : s.straps.twinSide = false) : s.autoSolo = s.lonely.releaseHeld := by
  simp [State.autoSolo, State.lonely, Pair.alone, State.isA, ha]

theorem State.autoSolo_twinB {s : State} (hb : s.straps.twinSide = true) : s.autoSolo = { s with
    run := s.run.filter fun r => !r.mirror
    pair := { s.pair.alone with mirrored := [], rx := [], quarters := [], checks := [] } } := by
  unfold State.autoSolo
  cases s.run with
  | none => simp [Pair.alone, State.isA, hb]
  | some r => cases hm : r.mirror <;> simp [Pair.alone, State.isA, Option.filter, hb, hm]

theorem State.autoSolo_alone {s : State} (h : ∀ x ∈ s.pair.held, x.1.owner ≠ 5) : s.SoloAlone s.autoSolo := by
  cases hb : s.straps.twinSide with
  | true =>
    rw [State.autoSolo_twinB hb]
    exact { pair := rfl, run := by simp [hb], writes := by simp [hb], arch := rfl, queues := rfl, ring := rfl, err := rfl, cnt := rfl }
  | false =>
    have frame {γ : Type} (p : State → γ) (hp : ∀ (s : State) b t l, p (s.driveWrite b t l) = p s) :=
      State.releaseHeld_frame (s := s.lonely) h p hp
    rw [State.autoSolo_twinA hb]
    exact {
      pair := (congrArg Pair.unmirrored (frame (·.pair) State.driveWrite_pair) :)
      run := by
        rw [frame (·.run) State.driveWrite_run, hb]
        exact (option_filter_true s.run).symm
      writes := (State.releaseHeld_writes (s := s.lonely) h).trans (if_pos hb).symm
      arch := frame (·.arch) State.driveWrite_arch
      queues := frame (·.queues) State.driveWrite_queues
      ring := frame (·.ring) State.driveWrite_ring
      err := frame (·.err) State.driveWrite_err
      cnt := frame (·.cnt) State.driveWrite_cnt }

/-! ### A partner that is gone -/

/-- The bands shared with the partner are dropped, and what its signals and buffers held is forgotten. -/
def State.parted (s : State) (p : PartnerState) : State :=
  { (s.sees p).dropSteals with pair := (s.sees p).dropSteals.pair.forgetPartner }

/-- A twin whose partner is gone, in SOLO if it was in LOCKSTEP. -/
def State.bereft (s : State) (p : PartnerState) : State := if (s.parted p).pair.mode = .lockstep then (s.parted p).autoSolo else s.parted p

theorem aliveStep_detached (s : State) : aliveStep s .detached = s.bereft .detached := rfl

theorem aliveStep_failed (s : State) : aliveStep s .failed = { s.bereft .failed with
    pair := { (s.bereft .failed).pair with
      mode := .solo, stealing := false, partnerStealing := false, arrayBarred := false
      autoSolo := (s.bereft .failed).pair.autoSolo || (s.bereft .failed).pair.mode != .solo } } := rfl

/-- What the loss of the partner leaves in `t`; `d` has the command and the counts that dropping the shared bands leaves. -/
structure State.Bereft (s : State) (p : PartnerState) (t : State) : Prop where
  partner : t.pair.partner = p
  claim : t.pair.claim = none
  req : t.pair.partnerReq = false
  holds : t.pair.partnerHeld = false
  tx : t.pair.tx = []
  failed : t.pair.partnerFailed = decide (p = .failed)
  mode : t.pair.mode = if s.pair.mode = .lockstep then .solo else s.pair.mode
  autoSolo : t.pair.autoSolo = (s.pair.autoSolo || decide (s.pair.mode = .lockstep))
  stealing : s.pair.mode = .lockstep → t.pair.stealing = false
  barred : t.pair.arrayBarred = s.pair.arrayBarred
  arch : t.arch = s.arch
  queues : t.queues = s.queues
  ring : t.ring = s.ring
  err : t.err = s.err
  writes : t.port.writes = if s.pair.mode = .lockstep ∧ s.straps.twinSide = false then
    s.port.writes ++ s.pair.held.map (fun h => ⟨h.2.1, h.1.owner, h.2.2⟩) else s.port.writes
  cnt : t.cnt = (s.sees p).dropSteals.cnt
  run : t.run = (s.sees p).dropSteals.run.filter fun r => !(decide (s.pair.mode = .lockstep) && s.straps.twinSide && r.mirror)

theorem State.leave_writes (s : State) (r : Running) : (s.leave r).port.writes = s.port.writes := by
  show (s.abandonSegment r).releaseToken.port.writes = _
  simp

theorem State.bereft_bereft {s : State} (h : ∀ x ∈ s.pair.held, x.1.owner ≠ 5) (p : PartnerState) : s.Bereft p (s.bereft p) := by
  have frame {γ : Type} (f : State → γ) (hl : ∀ (s : State) r, f (s.leave r) = f s)
      (hb : ∀ (s : State) c x, f { s with cnt := c, run := x } = f s) : f (s.sees p).dropSteals = f (s.sees p).unclaiming :=
    State.dropSteals_frame f hl hb _
  have hp := frame (·.pair.steady) State.leave_steady (fun _ _ _ => rfl)
  have harch := frame (·.arch) State.leave_arch (fun _ _ _ => rfl)
  have hqueues := frame (·.queues) State.leave_queues (fun _ _ _ => rfl)
  have hring := frame (·.ring) State.leave_ring (fun _ _ _ => rfl)
  have herr := frame (·.err) State.leave_err (fun _ _ _ => rfl)
  have hstraps := congrArg StrapPins.twinSide (frame (·.straps) State.leave_straps (fun _ _ _ => rfl))
  have hwrites := frame (·.port.writes) State.leave_writes (fun _ _ _ => rfl)
  have hmode : (s.parted p).pair.mode = s.pair.mode := (congrArg Pair.mode hp :)
  have hheld : (s.parted p).pair.held = s.pair.held := (congrArg Pair.held hp :)
  have hauto : (s.parted p).pair.autoSolo = s.pair.autoSolo := (congrArg Pair.autoSolo hp :)
  unfold State.bereft
  by_cases hm : s.pair.mode = .lockstep
  · rw [if_pos (hmode.trans hm)]
    obtain ⟨apair, arun, awrites, aarch, aqueues, aring, aerr, acnt⟩ := State.autoSolo_alone (s := s.parted p) (by rwa [hheld])
    rw [show (s.parted p).straps.twinSide = s.straps.twinSide from hstraps] at arun awrites
    exact {
      partner := (congrArg Pair.partner apair :).trans (congrArg Pair.partner hp :)
      claim := (congrArg Pair.claim apair :).trans (congrArg Pair.claim hp :)
      req := (congrArg Pair.partnerReq apair :)
      holds := (congrArg Pair.partnerHeld apair :)
      tx := (congrArg Pair.tx apair :)
      failed := (congrArg Pair.partnerFailed apair :).trans (congrArg Pair.partnerFailed hp :)
      mode := (congrArg Pair.mode apair :).trans (if_pos hm).symm
      autoSolo := (congrArg Pair.autoSolo apair :).trans (by simp [Pair.unmirrored, Pair.alone, hm])
      stealing := fun _ => (congrArg Pair.stealing apair :)
      barred := (congrArg Pair.arrayBarred apair :).trans (congrArg Pair.arrayBarred hp :)
      arch := aarch.trans harch
      queues := aqueues.trans hqueues
      ring := aring.trans hring
      err := aerr.trans herr
      writes := by
        rw [awrites, hheld, show (s.parted p).port.writes = s.port.writes from hwrites]
        simp [hm]
      cnt := acnt
      run := by
        rw [arun]
        simp [hm, State.parted] }
  · rw [if_neg (by rwa [hmode])]
    exact {
      partner := (congrArg Pair.partner hp :)
      claim := (congrArg Pair.claim hp :)
      req := rfl
      holds := rfl
      tx := rfl
      failed := (congrArg Pair.partnerFailed hp :)
      mode := hmode.trans (if_neg hm).symm
      autoSolo := by simp [hauto, hm]
      stealing := fun e => absurd e hm
      barred := (congrArg Pair.arrayBarred hp :)
      arch := harch
      queues := hqueues
      ring := hring
      err := herr
      writes := by
        rw [if_neg fun e => hm e.1]
        exact hwrites
      cnt := rfl
      run := by
        rw [decide_eq_false hm]
        exact (option_filter_true _).symm }

/-- What executes and what is counted in a twin that has lost its partner (13 R313, R319, R320). -/
structure State.CommandLeft (s t : State) : Prop where
  idle : s.run = none → t.run = none ∧ t.cnt = s.cnt
  thief : ∀ r b, s.run = some r → r.stolen = some b → t.run = none ∧ t.cnt = s.cnt
  mirrored : ∀ r, s.run = some r → s.pair.mode = .lockstep → s.straps.twinSide = true → r.mirror = true → t.run = none
  unclaimed : ∀ r, s.run = some r → r.stolen = none → r.mirror = false → r.claimed = [] → t.run = some r ∧ t.cnt = s.cnt
  claimed : ∀ r b, s.run = some r → r.stolen = none → r.mirror = false → r.claimed = [b] → t.cnt = s.cnt.raise 49 1 ∧
    t.run = some { r with claimed := [], skipped := if b < r.front then r.skipped ++ [b] else r.skipped }

theorem State.Bereft.commandLeft {s t : State} {p : PartnerState} (h : s.Bereft p t) : s.CommandLeft t := by
  have g := (s.sees p).dropSteals_dropped
  constructor
  case idle =>
    intro hr
    obtain ⟨hrun, hcnt⟩ := g.idle hr
    exact ⟨by rw [h.run, hrun]; rfl, h.cnt.trans hcnt⟩
  case thief =>
    intro r b hr hs
    obtain ⟨hrun, hcnt⟩ := g.thief r b hr hs
    exact ⟨by rw [h.run, hrun]; rfl, h.cnt.trans hcnt⟩
  case mirrored =>
    intro r hr hm hb hmirror
    rw [h.run]
    cases hd : (s.sees p).dropSteals.run with
    | none => rfl
    | some r' => simp [Option.filter, hm, hb, (g.mirror r hr r' hd).trans hmirror]
  case unclaimed =>
    intro r hr hs hm hc
    obtain ⟨hrun, hcnt⟩ := g.unclaimed r hr hs hc
    exact ⟨by simp [h.run, hrun, Option.filter, hm], h.cnt.trans hcnt⟩
  case claimed =>
    intro r b hr hs hm hc
    obtain ⟨hcnt, hrun⟩ := g.claimed r b hr hs hc
    exact ⟨h.cnt.trans hcnt, by simp [h.run, hrun, Option.filter, hm]⟩

/-- Settles O44: a partner that is there is one branch; one that is gone leaves the twin bereft, and one that has FAILED leaves it in SOLO
from every mode. -/
theorem partnerPresence : Obligations.PartnerPresence := by
  intro s hs
  have row (p : PartnerState) : exec (.pairAliveChange p) s = .next (aliveStep s p) := functional_live hs _
  refine ⟨(row _).trans (congrArg _ (aliveStep_solo s)), fun h => ?attached, fun h => ?attachedSplit, fun p hp hheld => ?gone⟩
  case attached => exact (row _).trans (congrArg _ ((aliveStep_attached s).trans (if_neg h)))
  case attachedSplit =>
    exact ⟨_, (row _).trans (congrArg _ ((aliveStep_attached s).trans (if_pos h))), State.setSteal_partner _ _, State.setSteal_arrayBarred _ _,
      State.setSteal_stealing _ _, State.setSteal_eq _ _⟩
  case gone =>
    have b := State.bereft_bereft hheld p
    have c := b.commandLeft
    rcases hp with rfl | rfl
    case inl =>
      exact ⟨_, (row _).trans (congrArg _ (aliveStep_detached s)), b.partner, b.claim, b.req, b.holds, b.tx, b.arch, b.queues, b.ring, b.err,
        b.failed, by simp [b.mode], by simp [b.autoSolo], by simpa using b.stealing, by simp [b.barred], b.writes, c.idle, c.thief,
        c.mirrored, c.unclaimed, c.claimed⟩
    case inr =>
      have hauto : ((s.bereft .failed).pair.autoSolo || (s.bereft .failed).pair.mode != .solo) =
          (s.pair.autoSolo || decide (s.pair.mode = .lockstep) || (decide (PartnerState.failed = .failed) && decide (s.pair.mode ≠ .solo))) := by
        by_cases hm : s.pair.mode = .lockstep <;> simp [b.autoSolo, b.mode, hm, bne, beq_eq_decide]
      exact ⟨_, (row _).trans (congrArg _ (aliveStep_failed s)), b.partner, b.claim, b.req, b.holds, b.tx, b.arch, b.queues, b.ring, b.err,
        b.failed, by simp, hauto, fun _ => rfl, by simp, b.writes, c.idle, c.thief, c.mirrored, c.unclaimed, c.claimed⟩

end Sys2Proof.Machine

/-! The context commands (13 R328, R333, 15 R443): the writes of an image, and the pieces of a restore. -/

namespace Sys2Proof.Machine

open Sys2Proof

/-! ### Writes that wait for a translation -/

/-- The state `s` with the ports `p`, the transfers `w` driven. -/
def State.withPort (s : State) (p : Port) (w : List Wire) : State := { s with port := p, wires := w }

/-- `t` is `s` but for the ports and what has been driven. -/
def State.SameButPort (s t : State) : Prop := t.withPort s.port s.wires = s

theorem State.SameButPort.of_eq {s t : State} (h : t = { s with port := t.port, wires := t.wires }) : s.SameButPort t :=
  (congrArg (State.withPort · s.port s.wires) h :)

theorem State.SameButPort.trans {s t u : State} (h : s.SameButPort t) (h' : t.SameButPort u) : s.SameButPort u :=
  (congrArg (State.withPort · s.port s.wires) h').trans h

theorem foldl_sameButPort {β : Type} {f : State → β → State} (h : ∀ (s : State) x, s.SameButPort (f s x)) (l : List β) (s : State) :
    s.SameButPort (l.foldl f s) := by
  induction l generalizing s with
  | nil => rfl
  | cons x l ih => exact (h s x).trans (ih _)

theorem State.requestXlat_outbox (s : State) (owner page kind pos va : Nat) :
    (s.requestXlat owner page kind pos va).port.outbox = s.port.outbox := by
  unfold State.requestXlat
  split
  · rfl
  · split <;> rfl

/-- Twin A of LOCKSTEP asks for the translations of its first group and announces none of it (13 R311). -/
theorem State.pumpLed_untranslated {s : State} (hx : s.port.xlats = []) (hw : s.pair.went = 0) (ho : s.port.outbox ≠ [])
    (tell : State → List WriteBeat → State) :
    (s.pumpLed tell).port.outbox = s.port.outbox ∧ s.SameButPort (s.pumpLed tell) := by
  obtain ⟨b, bs, e⟩ := List.exists_cons_of_ne_nil ho
  have hn (p : Nat) : s.port.translate p true = none := by simp [Port.translate, hx]
  unfold State.pumpLed
  dsimp only
  rw [if_neg (by simp [hw]), if_neg (by simp [e]), if_neg (by simp [e, hn])]
  constructor
  · refine foldl_frame (·.port.outbox) _ (fun t b => ?_) _ s
    split
    · rfl
    · exact State.requestXlat_outbox _ _ _ _ _ _
  · refine foldl_sameButPort (fun t b => ?_) _ s
    split
    · rfl
    · exact .of_eq (State.requestXlat_eq _ _ _ _ _ _)

/-- Without a kept translation no write of the executing command is issued. -/
theorem State.pumpRun_untranslated {s : State} {r : Running} (hm : r.mirror = false) (hx : s.port.xlats = [])
    (hw : s.leads = true → s.pair.went = 0) (ho : s.port.outbox ≠ []) :
    (s.pumpRun r).port.outbox = s.port.outbox ∧ s.SameButPort (s.pumpRun r) := by
  unfold State.pumpRun
  rw [if_neg (by simp [hm])]
  split
  case isTrue hl => exact State.pumpLed_untranslated hx (hw hl) ho _
  case isFalse =>
    obtain ⟨hout, he⟩ := State.pump_untranslated hx ho
    exact ⟨hout, .of_eq he⟩

/-- An image that is put into an empty outbox waits there whole. -/
theorem State.pumpRun_image {s : State} {r : Running} (hm : r.mirror = false) (hx : s.port.xlats = []) (hw : s.leads = true → s.pair.went = 0)
    (ho : s.port.outbox = []) {ls : List RdLine} (hls : ls ≠ []) (base : Nat) :
    ((s.post (imageBeats base ls)).pumpRun r).port.outbox = imageBeats base ls ∧ s.SameButPort ((s.post (imageBeats base ls)).pumpRun r) := by
  have hp : (s.post (imageBeats base ls)).port.outbox = imageBeats base ls := by rw [State.post_port, ho, List.nil_append]
  obtain ⟨hout, hsame⟩ := State.pumpRun_untranslated (s := s.post (imageBeats base ls)) hm hx hw (by rw [hp]; simpa [imageBeats] using hls)
  exact ⟨hout.trans hp, (State.SameButPort.of_eq rfl).trans hsame⟩

/-! ### CTX_SAVE -/

theorem blockLines_ne_nil (ws : List Nat) : blockLines ws ≠ [] := by
  simp [blockLines]

theorem State.countMismatches_eq (s : State) (n : Nat) : ∃ c e, s.countMismatches n = { s with cnt := c, err := e } := by
  unfold State.countMismatches
  split <;> exact ⟨_, _, rfl⟩

section Save

variable {s : State} {r : Running} (hf : s.port.faultOf 0 = none)

include hf

theorem ctxSaveStep_forms (hst : r.stage = .load) : ctxSaveStep s r [] =
    { ((s.countMismatches s.arch.saveMismatches).post (imageBeats (pAddr r.ws) (s.countMismatches s.arch.saveMismatches).arch.explicitImage)).pumpRun
        { r with stage := .saving true } with run := some { r with stage := .saving true } } := by
  simp only [ctxSaveStep, ownCmd, hf, hst]
  rfl

theorem ctxSaveStep_replies {b : Bool} (hst : r.stage = .saving b) (hd : s.writesDone = true) : ctxSaveStep s r [] = s.endOk r := by
  simp only [ctxSaveStep, ownCmd, hf, hst]
  exact if_pos hd

end Save

/-- The explicit image is in the outbox, and the command waits for its writes. -/
theorem ctxSaveStep_saving {s : State} {r : Running} (hf : s.port.faultOf 0 = none) (hst : r.stage = .load) (hm : r.mirror = false)
    (hl : s.leads = false) (hx : s.port.xlats = []) (ho : s.port.outbox = []) :
    (ctxSaveStep s r []).run = some { r with stage := .saving true } ∧ (ctxSaveStep s r []).arch = s.arch ∧
    (ctxSaveStep s r []).queues = s.queues ∧ (ctxSaveStep s r []).ring = s.ring ∧
    (ctxSaveStep s r []).port.outbox = imageBeats (pAddr r.ws) s.arch.explicitImage := by
  obtain ⟨c, e, hu⟩ := s.countMismatches_eq s.arch.saveMismatches
  have himage : s.arch.explicitImage ≠ [] := List.append_ne_nil_of_left_ne_nil (blockLines_ne_nil _) _
  have hnot (h : s.leads = true) : s.pair.went = 0 := absurd (hl.symm.trans h) nofun
  rw [ctxSaveStep_forms hf hst, hu]
  obtain ⟨hout, hsame⟩ := State.pumpRun_image (s := { s with cnt := c, err := e }) (r := { r with stage := .saving true }) hm hx hnot ho
    himage (pAddr r.ws)
  exact ⟨rfl, (congrArg State.arch hsame :), (congrArg State.queues hsame :), (congrArg State.ring hsame :), hout⟩

/-! ### CTX_RESTORE -/

/-- A context command refused keeps its reason for CTX_LOG (13 R333). -/
theorem State.badContext_ended (u : State) {r : Running} (h : r.stolen = none) (why : Nat) :
    (u.badContext r why).pair.ctxReason = BitVec.ofNat 8 why ∧
    State.EndedWith { u with pair := { u.pair with ctxReason := BitVec.ofNat 8 why } } { r with tilesDone := 0 } (u.badContext r why)
      { status := 0x15 } [16] :=
  ⟨(congrArg Pair.ctxReason (State.endRun_steady _ (r := { r with tilesDone := 0 }) h _ _) :), State.refuseRun_ended _ r 0x15 0 0 0 h⟩

section Block

variable {s u : State} {r : Running} {buf : Sparse RdLine} {ws : List Nat} (hf : s.port.faultOf 0 = none) (hst : r.stage = .load)
  (ha : s.askImage r (pAddr r.ws) 0 32 = .ready u buf) (hb : bufWords buf (pAddr r.ws) 1024 = (ws, false))

include hf hst ha hb

/-- A state block without poison is refused for the first check that it fails. -/
theorem ctxRestoreStep_reads : ctxRestoreStep s r =
    if pf r.ws 9 0 16 * 1024 < nth ws 4 then u.badContext r 0x01
    else if nth ws 0 != 0x43580031 || bits (nth ws 1) 30 2 != 1 then u.badContext r 0x02
    else if nth ws 1023 != crcWords (ws.take 1023) then u.badContext r 0x03
    else { u with run := some { r with chunks := [(1000, 0, 0, ws)], stage := .staging 0 } } := by
  simp only [ctxRestoreStep, ownCmd, hf, hst, ha, hb]
  rfl

theorem ctxRestoreStep_tooLong (h : pf r.ws 9 0 16 * 1024 < nth ws 4) : ctxRestoreStep s r = u.badContext r 0x01 := by
  rw [ctxRestoreStep_reads hf hst ha hb, if_pos h]

variable (hn : ¬pf r.ws 9 0 16 * 1024 < nth ws 4)

include hn

theorem ctxRestoreStep_otherKind (h : nth ws 0 ≠ 0x43580031 ∨ bits (nth ws 1) 30 2 ≠ 1) : ctxRestoreStep s r = u.badContext r 0x02 := by
  rw [ctxRestoreStep_reads hf hst ha hb, if_neg hn, if_pos (by simpa using h)]

variable (hk : nth ws 0 = 0x43580031) (hx : bits (nth ws 1) 30 2 = 1)

include hk hx

theorem ctxRestoreStep_badCrc (h : nth ws 1023 ≠ crcWords (ws.take 1023)) : ctxRestoreStep s r = u.badContext r 0x03 := by
  rw [ctxRestoreStep_reads hf hst ha hb, if_neg hn, if_neg (by simp [hk, hx]), if_pos (by simpa using h)]

theorem ctxRestoreStep_takesBlock (h : nth ws 1023 = crcWords (ws.take 1023)) :
    ctxRestoreStep s r = { u with run := some { r with chunks := [(1000, 0, 0, ws)], stage := .staging 0 } } := by
  rw [ctxRestoreStep_reads hf hst ha hb, if_neg hn, if_neg (by simp [hk, hx]), if_neg (by simp [h])]

end Block

section Sections

variable {s u : State} {r : Running} {k : Nat} (hf : s.port.faultOf 0 = none)

include hf

theorem ctxRestoreStep_takesMap (hst : r.stage = .staging k) (hk : 128 ≤ k) (hc : s.restoreClobbers r r.blockWords = false) :
    ctxRestoreStep s r = { s with
      arch := { s.arch.restoreMap r.blockWords with progs := imageProgs r.blockWords }
      run := some { r with chunks := [(1000, 0, 0, r.blockWords)], stage := .restoring 32 } } := by
  simp only [ctxRestoreStep, ownCmd, hf, hst, ge_iff_le, hk, hc]
  rfl

theorem ctxRestoreStep_replies (hst : r.stage = .restoring k) (h : s.restoreLines r (pAddr r.ws) k true = .done u) :
    ctxRestoreStep s r = u.endOk r := by
  simp only [ctxRestoreStep, ownCmd, hf, hst, h]

end Sections

/-- Settles O56: each row is one piece of its command, by the stage it stands at and by the check that its state block fails. -/
theorem contextCommands : Obligations.ContextCommands := by
  intro r s hs hf
  refine ⟨fun hr hm => ?save, fun u buf ws hr hst ha hb => ?block, fun k hr hst hk hc => ?map, fun k u hr hst h => ?sections⟩
  case save =>
    have row : exec (.ctxSave []) s = .next (ctxSaveStep s r []) := functional_onRun hs hr fun s r => ctxSaveStep s r []
    exact ⟨fun hst hx ho => ⟨_, row, ctxSaveStep_saving hf hst hr.own (State.leads_of_not_lockstep hm) hx ho⟩,
      fun b hst hd => ⟨_, row.trans (congrArg _ (ctxSaveStep_replies hf hst hd)), s.endOk_ended r hr.whole⟩⟩
  case block =>
    have row : exec .ctxRestore s = .next (ctxRestoreStep s r) := functional_onRun hs hr ctxRestoreStep
    refine ⟨fun why h => ?refused, fun hn hk hx hcrc => row.trans (congrArg _ (ctxRestoreStep_takesBlock hf hst ha hb hn hk hx hcrc))⟩
    rcases h with ⟨hlen, rfl⟩ | ⟨hn, hkind, rfl⟩ | ⟨hn, hk, hx, hcrc, rfl⟩
    · exact ⟨_, row.trans (congrArg _ (ctxRestoreStep_tooLong hf hst ha hb hlen)), u.badContext_ended hr.whole 1⟩
    · exact ⟨_, row.trans (congrArg _ (ctxRestoreStep_otherKind hf hst ha hb hn hkind)), u.badContext_ended hr.whole 2⟩
    · exact ⟨_, row.trans (congrArg _ (ctxRestoreStep_badCrc hf hst ha hb hn hk hx hcrc)), u.badContext_ended hr.whole 3⟩
  case map => exact (functional_onRun hs hr ctxRestoreStep).trans (congrArg _ (ctxRestoreStep_takesMap hf hst hk hc))
  case sections =>
    exact ⟨_, (functional_onRun hs hr ctxRestoreStep).trans (congrArg _ (ctxRestoreStep_replies hf hst h)), u.endOk_ended r hr.whole⟩

end Sys2Proof.Machine

/-! Suspension and resumption (12 R294, R301, R302, 13 R320-R330, 16 R390): where a command stops, its save, and its way back. -/

namespace Sys2Proof.Machine

open Sys2Proof

/-! ### Bands recalled -/

theorem State.recallBands_claimless (s : State) {r : Running} (h : r.claimed = []) : s.recallBands r = (s, r) := by
  simp [State.recallBands, h]

theorem State.recallBands_claimed (s : State) (r : Running) : (s.recallBands r).2.claimed = [] := by
  unfold State.recallBands
  split
  · simpa using ‹r.claimed.isEmpty = true›
  · rfl

theorem State.recallBands_queue (s : State) (r : Running) : (s.recallBands r).2.queue = r.queue := by
  unfold State.recallBands
  split <;> rfl

theorem State.recallBands_stolen (s : State) (r : Running) : (s.recallBands r).2.stolen = r.stolen := by
  unfold State.recallBands
  split <;> rfl

/-- Recalling its bands leaves the save area of a command's queue. -/
theorem State.recallBands_ctxValid (s : State) (r : Running) :
    ((s.recallBands r).1.queue (s.recallBands r).2.queue).ctxValid = (s.queue r.queue).ctxValid := by
  rw [State.recallBands_queue, State.queue_of_queues (State.recallBands_queues s r)]

/-- A command whose bands have been recalled ends as it would have ended with them. -/
theorem State.endRun_recalled (s : State) {r : Running} (h : r.stolen = none) (x : Say) (ks : List Nat) :
    (s.recallBands r).1.endRun (s.recallBands r).2 x ks = s.endRun r x ks := by
  unfold State.endRun
  rw [if_neg (by simp [State.recallBands_stolen, h]), if_neg (by simp [h]), State.recallBands_claimless _ (State.recallBands_claimed s r)]

/-! ### The stop -/

/-- What a command lets go of as it stops (13 R321): its open segment, the token, its reads, writes and translations. -/
def State.letGo (s : State) (r : Running) : State := (((s.abandonSegment r).releaseToken).dropReads ownCmd).dropOutbox.dropXlats

/-- `t` is a state in which `s` has stopped its command: the command's writes and translations and the token are gone, and the storages,
queues and replies are those of `s`. -/
structure State.Stopped (s t : State) : Prop where
  arch : t.arch = s.arch
  queues : t.queues = s.queues
  ring : t.ring = s.ring
  token : t.pair.token = false
  went : t.pair.went = 0
  outbox : t.port.outbox = []
  xlats : t.port.xlats = []

theorem State.letGo_stopped (s : State) (r : Running) : s.Stopped (s.letGo r) where
  arch := by simp [State.letGo]
  queues := by simp [State.letGo]
  ring := by simp [State.letGo]
  token := (State.releaseToken_pair _).1
  went := rfl
  outbox := rfl
  xlats := rfl

theorem State.Stopped.recalled {s t : State} {r : Running} (h : (s.recallBands r).1.Stopped t) : s.Stopped t :=
  { h with
    arch := h.arch.trans (State.recallBands_arch s r)
    queues := h.queues.trans (State.recallBands_queues s r)
    ring := h.ring.trans (State.recallBands_ring s r) }

theorem State.Stopped.sendWords {s t : State} (h : s.Stopped t) (k : Nat) (ws : List Nat) : s.Stopped (t.sendWords k ws) where
  arch := (State.sendWords_arch t k ws).trans h.arch
  queues := (State.sendWords_queues t k ws).trans h.queues
  ring := (State.sendWords_ring t k ws).trans h.ring
  token := (State.sendWords_pair (·.token) (fun _ _ _ => rfl) t k ws).trans h.token
  went := (State.sendWords_pair (·.went) (fun _ _ _ => rfl) t k ws).trans h.went
  outbox := (congrArg Port.outbox (State.sendWords_port t k ws)).trans h.outbox
  xlats := (congrArg Port.xlats (State.sendWords_port t k ws)).trans h.xlats

theorem State.Stopped.announced {s t : State} (h : s.Stopped t) (k : Nat) (ws : List Nat) :
    s.Stopped (if t.leads then t.sendWords k ws else t) := by
  split
  · exact h.sendWords k ws
  · exact h

theorem State.Stopped.countMismatches {s t : State} (h : s.Stopped t) (n : Nat) : s.Stopped (t.countMismatches n) := by
  obtain ⟨c, e, hu⟩ := t.countMismatches_eq n
  rw [hu]
  exact { h with }

theorem State.Stopped.queue {s t : State} (h : s.Stopped t) (q : BitVec 2) : t.queue q = s.queue q := State.queue_of_queues h.queues q

/-- The image of a stopped command is put into the empty outbox and waits there whole. -/
theorem State.Stopped.image {s x : State} {r : Running} (h : s.Stopped x) (hm : r.mirror = false) :
    ((x.post (imageBeats (x.queue r.queue).ctxBase (r.imageLines x))).pumpRun r).port.outbox =
      imageBeats (s.queue r.queue).ctxBase (r.imageLines x) ∧
    x.SameButPort ((x.post (imageBeats (x.queue r.queue).ctxBase (r.imageLines x))).pumpRun r) := by
  have hls : r.imageLines x ≠ [] := List.append_ne_nil_of_left_ne_nil (List.append_ne_nil_of_left_ne_nil (blockLines_ne_nil _) _) _
  obtain ⟨hout, hsame⟩ := State.pumpRun_image (r := r) hm h.xlats (fun _ => h.went) h.outbox hls (x.queue r.queue).ctxBase
  exact ⟨hout.trans (by rw [h.queue]), hsame⟩

section Stop

variable {s : State} {r : Running} (hm : r.mirror = false) (st : Nat)

include hm

/-- Without a save area a stop is an end (13 R325). -/
theorem State.stopRun_ends (hs : r.stolen = none) (hc : (s.queue r.queue).ctxValid = false) :
    s.stopRun r st = s.endRun r (suspendSay st (s.port.faultOf ownCmd)) [suspendCounter st, cABORTED] := by
  have hend : (!(s.recallBands r).2.mirror && !((s.recallBands r).1.queue (s.recallBands r).2.queue).ctxValid) = true := by
    rw [State.recallBands_mirror, State.recallBands_ctxValid, hm, hc]
    rfl
  rw [← State.endRun_recalled s hs]
  exact if_pos hend

/-- With one it lets go, tells a mirroring twin, and forms its image (13 R321). -/
theorem State.stopRun_forms (hc : (s.queue r.queue).ctxValid = true) : ∃ x r2,
    s.Stopped x ∧ r2.stage = .saving true ∧ r2.why = st ∧ r2.fault = s.port.faultOf 0 ∧ r2.claimed = [] ∧ r2.mirror = false ∧
    r2.queue = r.queue ∧
    s.stopRun r st = { (x.post (imageBeats (x.queue r2.queue).ctxBase (r2.imageLines x))).pumpRun r2 with run := some r2 } := by
  have hgoes : ¬(!(s.recallBands r).2.mirror && !((s.recallBands r).1.queue (s.recallBands r).2.queue).ctxValid) = true := by
    rw [State.recallBands_mirror, State.recallBands_ctxValid, hm, hc]
    decide
  have hgo : s.Stopped ((s.recallBands r).1.letGo (s.recallBands r).2) := (State.letGo_stopped _ _).recalled
  exact ⟨_, { (s.recallBands r).2 with stage := .saving true, why := st, fault := s.port.faultOf ownCmd },
    (hgo.announced 5 _).countMismatches _, rfl, rfl, rfl, State.recallBands_claimed s r, (State.recallBands_mirror s r).trans hm,
    State.recallBands_queue s r, if_neg hgoes⟩

end Stop

/-- The stopped command's image waits in the outbox, and the command for its writes. -/
theorem State.stopRun_saving {s : State} {r : Running} (hm : r.mirror = false) (st : Nat) (hc : (s.queue r.queue).ctxValid = true) :
    ∃ x r2, (s.stopRun r st).run = some r2 ∧ r2.stage = .saving true ∧ r2.why = st ∧ r2.fault = s.port.faultOf 0 ∧ r2.claimed = [] ∧
      (s.stopRun r st).pair.token = false ∧ (s.stopRun r st).arch = s.arch ∧ (s.stopRun r st).queues = s.queues ∧
      (s.stopRun r st).ring = s.ring ∧ x.arch = s.arch ∧
      (s.stopRun r st).port.outbox = imageBeats (s.queue r.queue).ctxBase (r2.imageLines x) := by
  obtain ⟨x, r2, hx, hstage, hwhy, hfault, hclaimed, hm2, hq, he⟩ := State.stopRun_forms hm st hc
  obtain ⟨hout, hsame⟩ := hx.image hm2
  rw [he, ← hq]
  exact ⟨x, r2, rfl, hstage, hwhy, hfault, hclaimed, (congrArg (·.pair.token) hsame :).trans hx.token,
    (congrArg State.arch hsame :).trans hx.arch, (congrArg State.queues hsame :).trans hx.queues,
    (congrArg State.ring hsame :).trans hx.ring, hx.arch, hout⟩

/-! ### Rows of a suspension -/

section Suspend

variable {s : State} {r : Running}

theorem suspendRun_cannot (h : suspends r.op = false) (hs : r.stolen = none) : suspendRun s r [] = s := by
  unfold suspendRun
  split
  · exact if_neg (by simp [h])
  · rfl
  · rw [if_neg (by simp [hs]), if_pos (by simp [h])]

theorem suspendRun_save {b : Bool} (h : suspends r.op = true) (hst : r.stage = .saving b) (hr : s.run = some r) :
    suspendRun s r [] = s.saveStep r := by
  simp [suspendRun, hst, h, State.eccList, hr]

variable (hsave : ∀ b, r.stage ≠ .saving b) (hrest : ∀ k, r.stage ≠ .restoring k)

include hsave hrest

theorem suspendRun_stolen {b : Nat} (hs : r.stolen = some b) :
    suspendRun s r [] = if s.pow.fence || s.pow.state = .dusk then s.abandonBand r else s := by
  unfold suspendRun
  split
  · exact absurd ‹_› (hsave _)
  · exact absurd ‹_› (hrest _)
  · exact if_pos (by simp [hs])

theorem suspendRun_stops {r1 : Running} {st : Nat} (h : suspends r.op = true) (hs : r.stolen = none) (hm : r.mirror = false)
    (hw : s.suspendWhy r = some st) (hp : r.point (st = 0x20) = some r1) : suspendRun s r [] = s.stopRun r1 st := by
  unfold suspendRun
  split
  · exact absurd ‹_› (hsave _)
  · exact absurd ‹_› (hrest _)
  · simp [h, hs, hm, hw, hp, State.eccList]

end Suspend

/-! ### The save -/

/-- An error status set after the end is not a field of the end. -/
theorem State.EndedWith.withErr {s t : State} {r : Running} {x : Say} {ks : List Nat} (h : s.EndedWith r t x ks) (e : ErrRegs) :
    s.EndedWith r { { t with err := e } with err := s.err } x ks :=
  { h with err := rfl }

/-- A save that fails ends its command and sets ERR_STATUS bit 8 (13 R325). -/
theorem State.saveFailed_ends (s : State) {r : Running} (hs : r.stolen = none) (x : Say) (k : Nat) :
    (s.saveFailed r x k).err = { s.err with status := s.err.status ||| 0x100 } ∧
    s.EndedWith { r with prod := { r.prod with segOpen := false } } { s.saveFailed r x k with err := s.err } x
      [suspendCounter r.why, k, 19] := by
  have h := s.endRun_ended { r with prod := { r.prod with segOpen := false } } x [suspendCounter r.why, k, cABORTED] hs
  refine ⟨?_, h.withErr _⟩
  rw [State.saveFailed, State.raiseErr, h.err]
  rfl

section Save

variable {s : State} {r : Running}

theorem State.saveStep_faults {f : XlatFault} (hf : s.port.faultOf 0 = some f) :
    s.saveStep r = s.saveFailed r { status := 0x20, reason := 1, index := f.pos, value := f.va } cXLATFAULT := by
  simp only [State.saveStep, ownCmd, hf]

variable (hf : s.port.faultOf 0 = none)

include hf

theorem State.saveStep_poisoned (hp : r.savePoison = true) :
    s.saveStep r = (s.saveFailed r { status := 0x31, index := 0xFF } cPOISON).raiseErr 2 := by
  simp only [State.saveStep, ownCmd, hf, hp, if_true]

variable (hp : r.savePoison = false) (hd : s.writesDone = true)

include hp hd

theorem State.saveStep_waits (hm : r.mirror = false) (hw : s.ring.waiting ≠ []) : s.saveStep r = s := by
  simp [State.saveStep, ownCmd, hf, hp, hd, hm, hw]

theorem State.saveStep_saved (hw : s.ring.waiting = []) : s.saveStep r = s.saved r := by
  simp [State.saveStep, ownCmd, hf, hp, hd, hw]

end Save

/-- The record of the suspended command, and its interim reply. -/
def Running.record (r : Running) (dusk : Bool) : Suspended :=
  .mk { r with stage := r.after, prod := { r.prod with segOpen := false } } r.why (r.why = 0x20 || dusk) dusk

def Running.interim (r : Running) : Reply := r.reply { suspendSay r.why r.fault with interim := true }

/-- Nothing executes, and a pre-emption request that the save has served is spent: its queue is passed over once (13 R326). -/
def State.preempted (s : State) (r : Running) : State :=
  let t := { s.dropXlats with run := none, pow := { s.pow with fenceStop := false } }
  if t.pow.preempt && !t.pow.preemptKeep && (r.why = 0x21 || r.why = 0x20) then
    { t with pow := { t.pow with passedOver := some r.queue, preempt := r.why = 0x21 } }
  else t

theorem State.preempted_fields (s : State) (r : Running) : (s.preempted r).run = none ∧ (s.preempted r).arch = s.arch ∧
    (s.preempted r).queues = s.queues ∧ (s.preempted r).ring = s.ring ∧ (s.preempted r).cnt = s.cnt := by
  unfold State.preempted
  dsimp only
  split <;> exact ⟨rfl, rfl, rfl, rfl, rfl⟩

/-- A command of this twin's own that is saved leaves its record in its queue, the event counted, and its interim reply waiting. -/
theorem State.saved_own (s : State) {r : Running} (hm : r.mirror = false) : s.saved r =
    ((((s.preempted r).setQueue r.queue { (s.preempted r).queue r.queue with susp := some (r.record (s.pow.state = .dusk)) }).count
      (suspendCounter r.why)).tell r.interim).push r.interim :=
  if_neg (by simp [hm])

theorem State.saved_fields {s : State} {r : Running} (hm : r.mirror = false) (hw : s.ring.waiting = []) :
    (s.saved r).run = none ∧ (s.saved r).arch = s.arch ∧ (s.saved r).cnt = s.cnt.raise (suspendCounter r.why) 1 ∧
    (s.saved r).ring = { s.ring with waiting := [r.interim] } ∧
    (s.saved r).queue r.queue = { s.queue r.queue with susp := some (r.record (s.pow.state = .dusk)) } := by
  obtain ⟨hrun, harch, hqueues, hring, hcnt⟩ := s.preempted_fields r
  rw [s.saved_own hm, ← State.queue_of_queues hqueues]
  refine ⟨by simp [hrun], by simp [harch], by simp [hcnt], by simp [hring, hw], ?_⟩
  exact (State.queue_of_queues (by simp) r.queue).trans (State.setQueue_self (s.preempted r) r.queue _)

/-! ### Resumption -/

/-- Beginning to restore tells a mirroring twin, and leaves the command at the first piece of its restore (13 R330). -/
theorem State.startResume_fields (s : State) (q : BitVec 2) (p : Suspended) :
    (s.startResume q p).run = some { p.run with stage := .restoring 0, chunks := [] } ∧ (s.startResume q p).queues = s.queues ∧
    (s.startResume q p).arch = s.arch ∧ (s.startResume q p).cnt = { s.cnt with stalls := true } ∧ (s.startResume q p).ring = s.ring ∧
    (s.startResume q p).port.xlats = [] ∧ (s.startResume q p).pow.passedOver = none := by
  unfold State.startResume
  split <;> simp [State.execute, State.dropXlats]

theorem resumeNext_starts {s : State} {q : BitVec 2} {p : Suspended} (hr : s.run = none) (hb : s.atBoundary = true)
    (hn : s.nextQueue = some q) (hp : (s.queue q).susp = some p) (h : p.needsResume = false) : resumeNext s = s.startResume q p := by
  simp [resumeNext, hr, hb, hn, hp, h]

section Continue

variable {s u : State} {r : Running} {p : Suspended} {k : Nat} (hm : r.mirror = false) (hne : r.op ≠ oRESUME) (hne' : r.op ≠ oRESTORE)
  (hst : r.stage = .restoring k) (hp : (s.queue r.queue).susp = some p)

include hm hne hne' hst hp

theorem resumeRun_continues (h : s.resumeStep r p (s.queue r.queue).ctxBase = .done u) : resumeRun s r = u.continueRun r.queue p r := by
  simp [resumeRun, hst, hne, hne', hm, hp, h]

theorem resumeRun_fails (h : s.resumeStep r p (s.queue r.queue).ctxBase = .failed u) : resumeRun s r = u.resumeFailed r.queue p := by
  simp [resumeRun, hst, hne, hne', hm, hp, h]

end Continue

/-- A command that goes on executes from here, its record gone from its queue. -/
theorem State.continueRun_fields (s : State) (q : BitVec 2) (p : Suspended) (r : Running) :
    (s.continueRun q p r).run = some (p.restored r.blockWords r.imageDescs) ∧ (s.continueRun q p r).arch = s.arch ∧
    (s.continueRun q p r).ring = s.ring ∧ (s.continueRun q p r).queue q = { s.queue q with susp := none } := by
  unfold State.continueRun
  rw [State.starts_eq]
  exact ⟨rfl, rfl, rfl, State.setQueue_self s q _⟩

/-- Settles O51: a suspension by whether the command can suspend, whose it is, whether its queue has a save area and how its save goes; a
resumption by whether it begins and what its restore finds. -/
theorem suspendAndResume : Obligations.SuspendAndResume := by
  intro s hs
  have row {r : Running} (hr : s.run = some r) (hm : r.mirror = false) (hf : r.final = none) :
      exec (.commandSuspend []) s = .next (suspendRun s r []) :=
    (functional_live hs _).trans (congrArg _ (State.onAny_of hr hm hf fun s r => suspendRun s r []))
  refine ⟨fun h => ?idle, fun r hr h => ?cannot, fun r b hr hb hm hf hsave hrest => ?stolen,
    fun r st r1 hr h hsave hrest hw hp hb hm hq => ?stop, fun r b hr h hst => ?save, fun q p hr hb hn hp h => ?turn,
    fun r p u k hr hne hne' hst hp => ?back⟩
  case idle =>
    refine (functional_live hs _).trans (congrArg _ ?_)
    simp [State.onAny, h]
  case cannot => exact (row hr.run hr.own hr.works).trans (congrArg _ (suspendRun_cannot h hr.whole))
  case stolen =>
    have step := (row hr hm hf).trans (congrArg _ (suspendRun_stolen hsave hrest hb))
    refine ⟨fun hfd => ?_, fun hfence hdusk => step.trans (congrArg _ (if_neg (by simp [hfence, hdusk])))⟩
    have g := s.abandonBand_gone r
    exact ⟨_, step.trans (congrArg _ (if_pos (by simpa using hfd))), g.run, g.token, g.arch, g.queues, g.ring, g.cnt⟩
  case stop =>
    have step := (row hr.run hr.own hr.works).trans (congrArg _ (suspendRun_stops hsave hrest h hr.whole hr.own hw hp))
    rw [← hq]
    refine ⟨fun hc => ⟨_, step.trans (congrArg _ (State.stopRun_ends hm st hb hc)), s.endRun_ended r1 _ _ hb⟩, fun hc => ?_⟩
    obtain ⟨x, r2, hsaving⟩ := State.stopRun_saving hm st hc
    exact ⟨_, x, r2, step, hsaving⟩
  case save =>
    have step := (row hr.run hr.own hr.works).trans (congrArg _ (suspendRun_save h hst hr.run))
    refine ⟨fun f hf => ?fault, fun hf hp => ?poison,
      fun hf hp hd hw => step.trans (congrArg _ (State.saveStep_waits hf hp hd hr.own hw)), fun hf hp hd hw => ?saved⟩
    case fault => exact ⟨_, step.trans (congrArg _ (State.saveStep_faults hf)), s.saveFailed_ends hr.whole _ _⟩
    case poison =>
      obtain ⟨herr, hend⟩ := s.saveFailed_ends hr.whole { status := 0x31, index := 0xFF } cPOISON
      refine ⟨_, step.trans (congrArg _ (State.saveStep_poisoned hf hp)), ?_, hend⟩
      rw [State.raiseErr, herr, BitVec.or_assoc]
      rfl
    case saved => exact ⟨_, step.trans (congrArg _ (State.saveStep_saved hf hp hd hw)), State.saved_fields hr.own hw⟩
  case turn => exact ⟨_, (functional_live hs _).trans (congrArg _ (resumeNext_starts hr hb hn hp h)), s.startResume_fields q p⟩
  case back =>
    have step : exec .commandResume s = .next (resumeRun s r) := by
      refine (functional_live hs _).trans (congrArg _ ?_)
      rw [resumeNext, hr.run]
      exact State.onAny_of hr.run hr.own hr.works resumeRun
    refine ⟨fun h ho => ?continues, fun h hw => ?fails⟩
    case continues =>
      obtain ⟨hrun, harch, hring, hqueue⟩ := u.continueRun_fields r.queue p r
      exact ⟨_, step.trans (congrArg _ (resumeRun_continues hr.own hne hne' hst hp h)), hrun, harch, hring,
        fun ha => State.starts_request _ (by rwa [ho]), hqueue⟩
    case fails =>
      exact ⟨_, _, step.trans (congrArg _ (resumeRun_fails hr.own hne hne' hst hp h)), rfl, (State.resumeFailed_ends r.queue hw).1,
        (State.endRun_ended _ p.run _ _ hw).withErr _⟩

end Sys2Proof.Machine

/-! A scrub read of Nightwatch (15 R365-R367, 01 R34): what the word errors of one unit change, and the unit that comes next. -/

namespace Sys2Proof.Machine

open Sys2Proof

/-- A 16-bit count of Starlog stops at its maximum (15, Starlog record). -/
theorem count16_saturates (x : BitVec 16) : BitVec.ofNat 16 (Nat.min 0xFFFF (x.toNat + 1)) = if x = 0xFFFF then 0xFFFF else x + 1 := by
  split
  case isTrue h => rw [h]; rfl
  case isFalse h =>
    have hlt : x.toNat + 1 ≤ 0xFFFF := by bv_omega
    rw [show Nat.min 0xFFFF (x.toNat + 1) = x.toNat + 1 from Nat.min_eq_right hlt]
    bv_omega

/-! ### Nightwatch granted a bank, and its write-backs -/

theorem Nightwatch.granted_eq (n : Nightwatch) (u : Nat) : n.granted u = { n with starved := (n.granted u).starved } := by
  unfold Nightwatch.granted
  split <;> rfl

/-- Only the count of the bank that holds the unit's row returns to zero; the other storages have no banks. -/
theorem Nightwatch.granted_starved {n : Nightwatch} (h : sparseWf 0 n.starved = true) (u b : Nat) :
    sget 0 (n.granted u).starved b = if u < 3072 ∧ b = u % 32 then 0 else sget 0 n.starved b := by
  by_cases hu : u < 3072
  · simp only [Nightwatch.granted, bankOf, hu, if_true, true_and, sget_sset h]
  · simp [Nightwatch.granted, bankOf, hu]

theorem Nightwatch.wantWrite_toNat (n : Nightwatch) (u : BitVec 13) : n.wantWrite u.toNat =
    { n with writebacks := if u ∉ n.writebacks then n.writebacks ++ [u] else n.writebacks } := by
  by_cases h : u ∈ n.writebacks <;> simp [Nightwatch.wantWrite, h]

/-- A unit of which a read corrected a word waits for its write-back, once (15 R366). -/
def Nightwatch.owing (n : Nightwatch) (u : BitVec 13) (corrected : Bool) : Nightwatch :=
  if corrected then n.wantWrite u.toNat else n

theorem Nightwatch.owing_eq (n : Nightwatch) (u : BitVec 13) (c : Bool) : n.owing u c =
    { n with writebacks := if c ∧ u ∉ n.writebacks then n.writebacks ++ [u] else n.writebacks } := by
  cases c
  · simp [Nightwatch.owing]
  · simp [Nightwatch.owing, wantWrite_toNat]

theorem Nightwatch.owing_owing (n : Nightwatch) (u : BitVec 13) (c d : Bool) : (n.owing u c).owing u d = n.owing u (c || d) := by
  cases c
  · rfl
  cases d
  · rfl
  by_cases h : u ∈ n.writebacks <;> simp [owing_eq, h]

/-! ### The word errors of one unit -/

@[simp] theorem scrubHit_kind (u : Nat) (h : ScrubHit) : (scrubHit u h).kind = h.kind := by
  unfold scrubHit
  dsimp only
  split <;> rfl

/-- A word error of a scrub read is of a storage of codewords, and logged by a word of the unit that was read (R363, R365). -/
theorem scrubHit_place {u : Nat} (hu : u < 2 ^ 13) (h : ScrubHit) : (scrubHit u h).storage.toNat < 6 ∧
    scrubUnitOf (scrubHit u h).storage.toNat (scrubHit u h).word.toNat = some u := by
  have word {k : Nat} (hk : k < 4096) : (BitVec.ofNat 16 (16 * k + h.word.toNat)).toNat / 16 = k := by
    rw [BitVec.toNat_ofNat]
    omega
  have tag {k : Nat} (hk : k < 4096) : (BitVec.ofNat 16 k).toNat = k := by
    rw [BitVec.toNat_ofNat]
    omega
  by_cases h0 : u < 3072
  · cases ht : h.inTag
    · simp [scrubHit, scrubPlace, scrubUnitOf, h0, ht, word (k := u) (by omega), -BitVec.toNat_ofNat]
    · simp [scrubHit, scrubPlace, scrubUnitOf, h0, ht, tag (k := u) (by omega), -BitVec.toNat_ofNat]
  by_cases h2 : u < 3200
  · simp [scrubHit, scrubPlace, scrubUnitOf, h0, h2, word (k := u - 3072) (by omega), -BitVec.toNat_ofNat]
    omega
  by_cases h4 : u < 7296
  · simp [scrubHit, scrubPlace, scrubUnitOf, h0, h2, h4, word (k := u - 3200) (by omega), -BitVec.toNat_ofNat]
    omega
  · simp [scrubHit, scrubPlace, scrubUnitOf, h0, h2, h4, word (k := u - 7296) (by omega), -BitVec.toNat_ofNat]
    omega

/-- The state `s` with what the word errors of unit `u` may change as it is in `t`, `corrected` when one of them was corrected. -/
def State.met (s t : State) (u : BitVec 13) (corrected : Bool) : State :=
  { s with
    night := s.night.owing u corrected, cnt := t.cnt, err := t.err, star := { s.star with corrected := t.star.corrected }, arch := t.arch }

theorem State.met_trans {s t v : State} {u : BitVec 13} {c d : Bool} (h : t = s.met t u c) (h' : v = t.met v u d) :
    v = s.met v u (c || d) := by
  refine h'.trans ((congrArg (fun x => State.met x v u d) h).trans ?_)
  simp only [State.met, Nightwatch.owing_owing]

section Hit

variable (s : State) (u : BitVec 13) (h : ScrubHit)

/-- A correction is counted and logged, and its unit asks for a write-back. -/
theorem eccHit_corrected {p0 : BitVec 7} {p1 : Option (BitVec 7)} (hk : h.kind = .corrected p0 p1) :
    ∃ c e, e.status = s.err.status ||| 1 ∧ s.eccHit (scrubHit u.toNat h) = { s with
      night := s.night.wantWrite u.toNat, cnt := c, err := e
      star := { s.star with corrected := if s.star.corrected = 0xFFFF then 0xFFFF else s.star.corrected + 1 } } := by
  obtain ⟨-, hu⟩ := scrubHit_place u.isLt h
  simp only [State.eccHit, scrubHit_kind, hk, State.logCorrected, State.wantWrite, hu, ← count16_saturates]
  exact ⟨_, _, rfl, rfl⟩

/-- An uncorrectable word is counted and logged, and its granule is marked. -/
theorem eccHit_uncorrectable {v : BitVec 64} (hk : h.kind = .uncorrectable v) :
    ∃ c e, e.status = s.err.status ||| 2 ∧ s.eccHit (scrubHit u.toNat h) = { s with
      cnt := c, err := e
      arch := s.arch.poisonWord (scrubHit u.toNat h).storage.toNat (scrubHit u.toNat h).word.toNat v } := by
  obtain ⟨hst, -⟩ := scrubHit_place u.isLt h
  simp only [State.eccHit, scrubHit_kind, hk, if_neg (Nat.not_le.mpr hst), State.logUncorrectable]
  split <;> exact ⟨_, _, rfl, rfl⟩

theorem eccHit_met : s.eccHit (scrubHit u.toNat h) = s.met (s.eccHit (scrubHit u.toNat h)) u (ScrubHit.isCorrected h) := by
  cases hk : h.kind with
  | corrected p0 p1 =>
    obtain ⟨c, e, -, he⟩ := eccHit_corrected s u h hk
    rw [he]
    simp [State.met, Nightwatch.owing, ScrubHit.isCorrected, hk]
  | uncorrectable v =>
    obtain ⟨c, e, -, he⟩ := eccHit_uncorrectable s u h hk
    rw [he]
    simp [State.met, Nightwatch.owing, ScrubHit.isCorrected, hk]

end Hit

/-- What the scrub read of unit `u` met, taken in turn. -/
def State.scrubbed (s : State) (u : BitVec 13) (hits : List ScrubHit) : State :=
  hits.foldl (fun s h => s.eccHit (scrubHit u.toNat h)) s

theorem State.scrubbed_met (s : State) (u : BitVec 13) (hits : List ScrubHit) :
    s.scrubbed u hits = s.met (s.scrubbed u hits) u (hits.any ScrubHit.isCorrected) := by
  induction hits generalizing s with
  | nil => rfl
  | cons h hits ih => exact State.met_trans (eccHit_met s u h) (ih _)

/-! ### The read -/

theorem scrubStep_off {s : State} (h : s.night.enable = false ∨ s.clocked = false) (hits : List ScrubHit) : scrubStep s hits = s :=
  if_pos (by simpa using h)

/-- The position goes to the next of the 7,424 units; the last one ends the pass (R365, R367). -/
theorem scrubStep_on {s : State} (he : s.night.enable = true) (hc : s.clocked = true) (hits : List ScrubHit) :
    scrubStep s hits = { s.scrubbed s.night.pos hits with
      cnt := if s.night.pos.toNat + 1 ≥ 7424 then (s.scrubbed s.night.pos hits).cnt.raise 57 1 else (s.scrubbed s.night.pos hits).cnt
      night := { (s.scrubbed s.night.pos hits).night.granted s.night.pos.toNat with
        pos := if s.night.pos.toNat + 1 ≥ 7424 then 0 else s.night.pos + 1 } } := by
  have hnext : BitVec.ofNat 13 (s.night.pos.toNat + 1) = s.night.pos + 1 := by bv_omega
  by_cases hl : s.night.pos.toNat + 1 ≥ 7424 <;> simp only [scrubStep, he, hc, scrubUnits, hl, hnext] <;> rfl

/-- Settles O22: each word error changes what `State.met` names, and so do all of a unit; then the position goes on. -/
theorem scrubReadsOneUnit : Obligations.ScrubReadsOneUnit := by
  intro hits s hs
  have row : exec (.scrubUnit hits) s = .next (scrubStep s hits) := functional_live hs _
  have hmet := s.scrubbed_met s.night.pos hits
  refine ⟨fun h => row.trans (congrArg _ (scrubStep_off h hits)), fun he hc =>
    ⟨_, row.trans (congrArg _ (scrubStep_on he hc hits)), ?night, ?starved, ?frame, ?clean, ?corrected, ?uncorrectable⟩⟩
  case night =>
    rw [hmet]
    simp only [State.met]
    rw [Nightwatch.granted_eq, Nightwatch.owing_eq]
  case starved =>
    intro ho b
    rw [hmet]
    simp only [State.met]
    exact (Nightwatch.granted_starved (by rw [Nightwatch.owing_eq]; exact ho.starved) ..).trans (by rw [Nightwatch.owing_eq])
  case frame =>
    rw [hmet]
    rfl
  case clean =>
    rintro rfl
    rfl
  case corrected =>
    rintro h p0 p1 rfl hk
    obtain ⟨c, e, herr, hit⟩ := eccHit_corrected s s.night.pos h hk
    have hread : s.scrubbed s.night.pos [h] = _ := hit
    rw [hread]
    exact ⟨herr, rfl, rfl⟩
  case uncorrectable =>
    rintro h v rfl hk
    obtain ⟨c, e, herr, hit⟩ := eccHit_uncorrectable s s.night.pos h hk
    have hread : s.scrubbed s.night.pos [h] = _ := hit
    rw [hread]
    exact ⟨herr, rfl⟩

end Sys2Proof.Machine

/-! The rest of the background work: write-backs, forced grants, droop events (15 R366, R369, 01 R34), trims (R368), and the write of a
Starlog record (R371-R373, 01 R41). -/

namespace Sys2Proof.Machine

open Sys2Proof

/-! ### Starlog -/

theorem State.dropStarlog_eq (s : State) : s.dropStarlog = { s with
    star := { s.star with waiting := none, promoted := false, dropped := if s.star.dropped = 0xFFFF then 0xFFFF else s.star.dropped + 1 }
    cnt := s.cnt.raise 61 1
    err := { s.err with status := s.err.status ||| 0x800 } } := by
  rw [← count16_saturates]
  rfl

theorem State.mayIssue_two (s : State) : s.mayIssue 2 = (s.star.promoted || (!s.classWaits 1 && !s.classWaits 0)) := rfl

/-- Where a class 0 or a class 1 request waits, a record that is not promoted lets it go first. -/
theorem State.backgroundTurn_of_waits {s : State} (hp : s.star.promoted = false) (hw : s.classWaits 0 = true ∨ s.classWaits 1 = true) :
    s.backgroundTurn = false := by
  rw [State.backgroundTurn, State.mayIssue_two, hp]
  rcases hw with hw | hw <;> simp only [hw, Bool.not_true, Bool.and_false, Bool.false_and, Bool.or_false]

theorem State.mayIssue_background {s : State} (h : s.star.promoted = true ∨
    (s.classWaits 0 = false ∧ s.classWaits 1 = false ∧ s.replyReady = false)) : s.mayIssue 2 = true := by
  rw [State.mayIssue_two]
  rcases h with hp | ⟨h0, h1, -⟩
  · rw [hp, Bool.true_or]
  · rw [h0, h1]
    exact Bool.or_true _

theorem State.backgroundTurn_of_free {s : State} (h : s.star.promoted = true ∨
    (s.classWaits 0 = false ∧ s.classWaits 1 = false ∧ s.replyReady = false)) : s.backgroundTurn = true := by
  rw [State.backgroundTurn, State.mayIssue_background h]
  rcases h with hp | ⟨-, -, hr⟩
  · simp [hp]
  · simp [hr]

/-- A record's beat that may go is driven at once: Starlog's are never held for a comparison (R373). -/
theorem State.issueWrite_star {s : State} {ws : List Word} {ph tag : Nat} (hm : s.mayIssue 2 = true)
    (hx : s.port.translate (s.star.addr / 4096) true = some ph) (ht : lowestFree 64 s.writeTags = some tag) :
    s.issueWrite (s.star.beat ws) =
      (s.driveWrite (s.star.beat ws) (BitVec.ofNat 6 tag) (physLine ph (s.star.addr / 128)), true) := by
  have hline : (s.star.beat ws).vline / 32 = s.star.addr / 4096 := Nat.div_div_eq_div_mul ..
  have hcls : (s.star.beat ws).cls = 2 := rfl
  have howner : (s.star.beat ws).owner = ownStar := rfl
  simp only [State.issueWrite, State.writeTag, hline, hcls, howner, hm, hx, ht, bne_self_eq_false, Bool.and_false]
  rfl

theorem starWrite_none {s : State} (h : s.star.waiting = none) : starWrite s = s := by
  simp [starWrite, h]

theorem starWrite_twinB {s : State} (h : s.star.waiting ≠ none) (hm : s.pair.mode = .lockstep) (hb : s.straps.twinSide = true) :
    starWrite s = s.dropStarlog := by
  obtain ⟨ws, hw⟩ := Option.ne_none_iff_exists'.mp h
  simp [starWrite, hw, hm, State.isA, hb]

section Writer

variable {s : State} (hm : s.pair.mode ≠ .lockstep ∨ s.straps.twinSide = false)

include hm

theorem State.isTwinB_eq_false : (decide (s.pair.mode = .lockstep) && !s.isA) = false := by
  rcases hm with hm | ha
  · simp [hm]
  · simp [State.isA, ha]

theorem starWrite_kept (h : s.pow.fence = true ∨ s.clocked = false ∨ s.backgroundTurn = false) : starWrite s = s := by
  cases hw : s.star.waiting with
  | none => exact starWrite_none hw
  | some ws =>
    have hkeep : (s.pow.fence || !s.clocked || !s.backgroundTurn) = true := by simpa [or_assoc] using h
    simp [starWrite, hw, State.isTwinB_eq_false hm, hkeep]

theorem starWrite_written {ws : List Word} {ph tag : Nat} (hw : s.star.waiting = some ws) (hf : s.pow.fence = false)
    (hc : s.clocked = true) (hfree : s.star.promoted = true ∨
      (s.classWaits 0 = false ∧ s.classWaits 1 = false ∧ s.replyReady = false))
    (hx : s.port.translate (s.star.addr / 4096) true = some ph) (ht : lowestFree 64 s.writeTags = some tag) :
    starWrite s = { s with star := { s.star with
        waiting := none, promoted := false, dropped := 0
        head := BitVec.ofNat 16 ((s.star.head.toNat + 1) % s.star.base.entries) } }.driveWrite
      (s.star.beat ws) (BitVec.ofNat 6 tag) (physLine ph (s.star.addr / 128)) := by
  simp only [starWrite, hw, State.isTwinB_eq_false hm, hf, hc, State.backgroundTurn_of_free hfree,
    State.issueWrite_star (State.mayIssue_background hfree) hx ht]
  rfl

end Writer

/-- Settles O26: no record, twin B's drop, a record that is kept, and one that is written. -/
theorem starlogWrites : Obligations.StarlogWrites := by
  intro s hs
  have row : exec .starlogRecordWrite s = .next (starWrite s) := functional_live hs _
  refine ⟨fun h => row.trans (congrArg _ (starWrite_none h)),
    fun h hm hb => row.trans (congrArg _ ((starWrite_twinB h hm hb).trans s.dropStarlog_eq)), fun hm => ⟨fun h => ?fenced, fun hp hw => ?later,
    fun ws ph tag hw hf hc hfree hx ht => row.trans (congrArg _ (starWrite_written hm hw hf hc hfree hx ht))⟩⟩
  case fenced => exact row.trans (congrArg _ (starWrite_kept hm (h.imp_right Or.inl)))
  case later => exact row.trans (congrArg _ (starWrite_kept hm (.inr (.inr (State.backgroundTurn_of_waits hp hw)))))

/-! ### Write-backs and forced grants -/

theorem Nightwatch.wroteBack_eq (n : Nightwatch) (u : BitVec 13) : n.wroteBack u =
    { n with starved := (n.granted u.toNat).starved, writebacks := n.writebacks.filter (· != u) } := by
  rw [Nightwatch.wroteBack, Nightwatch.granted_eq]

theorem writebackStep_idle {s : State} (h : s.clocked = false ∨ s.night.writebacks = []) : writebackStep s = s := by
  rcases h with h | h
  · simp [writebackStep, h]
  · simp [writebackStep, h]

theorem writebackStep_oldest {s : State} {u : BitVec 13} {us : List (BitVec 13)} (hc : s.clocked = true) (hw : s.night.writebacks = u :: us) :
    writebackStep s = { s with night := s.night.wroteBack u } := by
  simp [writebackStep, hc, hw]

/-- A unit lies on the bank of its row; the units of the other storages lie on none (01 R32). -/
theorem onBank_eq (bank : BitVec 5) (u : Nat) : onBank bank u = (u < 3072 && u % 32 = bank.toNat : Bool) := by
  by_cases hu : u < 3072 <;> simp [onBank, bankOf, hu]

theorem starvationGrant_off {s : State} (h : s.night.enable = false ∨ s.clocked = false) (bank : BitVec 5) (wb : Bool) (hits : List ScrubHit) :
    starvationGrant s bank wb hits = s :=
  if_pos (by simpa using h)

theorem starvationGrant_writeback {s : State} {bank : BitVec 5} {u : BitVec 13} (he : s.night.enable = true) (hc : s.clocked = true)
    (hu : s.night.writebacks.find? (fun u => u.toNat < 3072 && u.toNat % 32 = bank.toNat) = some u) (hits : List ScrubHit) :
    starvationGrant s bank true hits = { s with night := s.night.wroteBack u } := by
  simp only [← onBank_eq] at hu
  simp [starvationGrant, he, hc, hu]

theorem starvationGrant_noWriteback {s : State} {bank : BitVec 5}
    (h : ∀ u ∈ s.night.writebacks, u.toNat < 3072 → u.toNat % 32 ≠ bank.toNat) (hits : List ScrubHit) :
    starvationGrant s bank true hits = s := by
  have hnone : s.night.writebacks.find? (fun u => onBank bank u.toNat) = none := by simpa [onBank_eq] using h
  simp [starvationGrant, hnone]

/-- A forced grant of a read port is the scrub read itself, when the unit that is next lies on the bank. -/
theorem starvationGrant_read (s : State) (bank : BitVec 5) (hits : List ScrubHit) : starvationGrant s bank false hits =
    if s.night.pos.toNat < 3072 ∧ s.night.pos.toNat % 32 = bank.toNat then scrubStep s hits else s := by
  by_cases h : s.night.enable = false ∨ s.clocked = false
  · rw [starvationGrant_off h, scrubStep_off h, ite_self]
  · have hon : (!s.night.enable || !s.clocked) = false := by simpa using h
    simp [starvationGrant, hon, onBank_eq]

/-! ### Droop events -/

theorem droopStep_off {s : State} (h : s.clocked = false) : droopStep s = s := by
  simp [droopStep, h]

theorem droopStep_on {s : State} (h : s.clocked = true) : droopStep s = { s with
    cnt := s.cnt.raise 59 1
    star := { s.star with droops := if s.star.droops = 0xFFFF then 0xFFFF else s.star.droops + 1 } } := by
  rw [← count16_saturates]
  simp only [droopStep, h]
  rfl

/-- Settles O23: each row by whether there is something to do; the write-backs and the grants clear their bank's count as a grant does. -/
theorem backgroundHousekeeping : Obligations.BackgroundHousekeeping := by
  intro s hs
  have back : exec .scrubWriteback s = .next (writebackStep s) := functional_live hs _
  have grant (bank wb hits) : exec (.scrubStarvationGrant bank wb hits) s = .next (starvationGrant s bank wb hits) := functional_live hs _
  have read (hits) : exec (.scrubUnit hits) s = .next (scrubStep s hits) := functional_live hs _
  have promote : exec .backgroundAgePromote s = functional s (promoteStep s) := rfl
  have droop : exec .droopEvent s = .next (droopStep s) := functional_live hs _
  refine ⟨fun h => back.trans (congrArg _ (writebackStep_idle h)), fun u us hc hw ho => ?oldest,
    fun bank wb hits h => (grant bank wb hits).trans (congrArg _ (starvationGrant_off h bank wb hits)),
    fun bank hits u he hc ho hu => ?starved,
    fun bank hits h => (grant bank true hits).trans (congrArg _ (starvationGrant_noWriteback h hits)), fun bank hits => ?granted,
    fun h => ?unpromoted, fun h => ?promoted,
    fun h => droop.trans (congrArg _ (droopStep_on h)), fun h => droop.trans (congrArg _ (droopStep_off h))⟩
  case oldest =>
    refine ⟨_, back.trans (congrArg _ (writebackStep_oldest hc hw)), ?_, fun b => ?_⟩
    · rw [Nightwatch.wroteBack_eq, hw]
      simp
    · rw [Nightwatch.wroteBack_eq]
      exact Nightwatch.granted_starved ho.starved u.toNat b
  case starved =>
    obtain ⟨hlt, hbank⟩ : u.toNat < 3072 ∧ u.toNat % 32 = bank.toNat := by simpa using List.find?_some hu
    refine ⟨_, (grant bank true hits).trans (congrArg _ (starvationGrant_writeback he hc hu hits)), ?_, fun k => ?_⟩
    · rw [Nightwatch.wroteBack_eq]
    · rw [Nightwatch.wroteBack_eq]
      simpa [hlt, hbank] using Nightwatch.granted_starved ho.starved u.toNat k
  case granted =>
    rw [grant, read, starvationGrant_read]
    split <;> rfl
  case unpromoted =>
    rw [promote, functional_live hs, promoteStep, h]
    rfl
  case promoted =>
    rw [promote, promoteStep, if_pos (Option.isSome_iff_ne_none.mpr h)]
    rfl

/-! ### Trims -/

theorem trimStep_off {s : State} (h : s.cal.enable = false ∨ s.pow.state ≠ .run) (ok : Bool) (ro : BitVec 16) (d x : BitVec 6) :
    trimStep s ok ro d x = s :=
  if_pos (by simpa using h)

section Trims

variable {s : State} (he : s.cal.enable = true) (hr : s.pow.state = .run) (ro : BitVec 16) (d x : BitVec 6)

include he hr

theorem trimStep_taken : trimStep s true ro d x = { s with
    cal := { s.cal with roCount := ro, lastFailed := false, droopTrim := d, roTrim := x } } := by
  simp [trimStep, he, hr]

theorem trimStep_failed : trimStep s false ro d x = { s with
    cal := { s.cal with roCount := ro, lastFailed := true }, cnt := s.cnt.raise 58 1
    err := { s.err with status := s.err.status ||| 0x400 } } := by
  simp only [trimStep, he, hr]
  rfl

end Trims

/-- Settles O24: a trim is taken, fails, or is not due. -/
theorem calibrationTrims : Obligations.CalibrationTrims := by
  intro ro d x s hs
  have row (ok) : exec (.calibrationTrim ok ro d x) s = .next (trimStep s ok ro d x) := functional_live hs _
  exact ⟨fun he hr => ⟨(row true).trans (congrArg _ (trimStep_taken he hr ro d x)),
    (row false).trans (congrArg _ (trimStep_failed he hr ro d x))⟩,
    fun ok h => (row ok).trans (congrArg _ (trimStep_off h ok ro d x))⟩

end Sys2Proof.Machine

/-! Clears of ERR_STATUS and PAIR_STATUS (13, 15 R362), and a rotation that a pinned column drops (15 R370, 16 R386). -/

namespace Sys2Proof.Machine

open Sys2Proof

/-- Settles O13: each row is a write at its register's address, which clears the bits written as 1. -/
theorem statusClears : Obligations.StatusClears := by
  intro v s hs
  refine ⟨⟨(clearErrStatus s v).drive (.reg 0 false), congrArg Host.Outcome.next ?err, rfl, fun k hk => ?bit⟩,
    congrArg Host.Outcome.next ?pair⟩
  case err => exact regPort_of_regWrite (a := 0x2000) hs rfl rfl rfl fun _ h => h
  case bit =>
    show (s.err.status &&& ~~~(v.extractLsb' 0 13)).getLsbD k = _
    simp [hk]
  case pair => exact regPort_of_regWrite (a := 0x0440) hs rfl rfl rfl fun _ h => h

/-- A pinned column drops a waiting rotation, at a command boundary or not. -/
theorem rotationStep_pinned {s : State} (hr : s.cal.rotPending = true) (hp : s.dawn.pinned ≠ 0x3F) :
    rotationStep s = { s with cal := { s.cal with rotPending := false } } :=
  if_pos (by rw [hr, bne_iff_ne.mpr hp]; rfl)

/-- A rotation waits for the executing command, and column 32 is pinned. -/
def pinnedMidCommand : State := { State.reset with
  cal := { State.reset.cal with rotPending := true }
  dawn := { State.reset.dawn with pinned := 32 }
  pow := { State.reset.pow with state := .run }
  run := some { queue := 2, home := 1, packet := [0x06000000, 7], descs := [], cfg := {}, almanac := 0 } }

theorem pinnedMidCommand_live : pinnedMidCommand.Live := rfl

/-- Refutes O19: with a command executing and a column pinned the row drops the request at once (the model's reading, log 37), where the
statement has it answer the state itself whenever a command executes. -/
theorem not_laneRotationAndForget : ¬ Obligations.LaneRotationAndForget := by
  intro h
  obtain ⟨-, -, -, hwaits, -⟩ := h pinnedMidCommand pinnedMidCommand_live
  have hkept : exec .laneRotation pinnedMidCommand = .next pinnedMidCommand := hwaits (.inr (by simp [pinnedMidCommand]))
  have hdropped : exec .laneRotation pinnedMidCommand =
      .next { pinnedMidCommand with cal := { pinnedMidCommand.cal with rotPending := false } } :=
    (functional_live pinnedMidCommand_live _).trans (congrArg _ (rotationStep_pinned (s := pinnedMidCommand) rfl (by decide)))
  have hstate := Host.Outcome.next.inj (hkept.symm.trans hdropped)
  exact absurd (congrArg (fun t => t.cal.rotPending) hstate) (by decide)

end Sys2Proof.Machine

/-! The EN, PREEMPT_REQ, SYNC_IN and THROTTLE pins and the resets (16 R377-R382, R388, R391, R392, 13 R326, R327, 18 R417): how Dusk begins
whatever executes, and what a reset leaves. -/

namespace Sys2Proof.Machine

open Sys2Proof

/-! ### The beginning of Dusk, whatever executes -/

/-- The packets fetched and not begun are discarded and a claim is given up (16 R388 step 1). -/
def State.unbegun (s : State) : State :=
  { allQueues.foldl State.discardFetch s with pair := { s.pair with claim := none } }

/-- The state of Dusk at its first step. -/
def State.dusked (s : State) : State :=
  { s with pow := { s.pow with state := .dusk, dawnDone := false, duskStep := 0, sleepLatched := false } }

theorem State.startDusk_eq (s : State) : s.startDusk = (match s.run with
    | some r => if r.stolen.isSome then s.unbegun.abandonBand r else s.unbegun
    | none => s.unbegun.releaseToken).dusked := rfl

theorem State.startDusk_idle {s : State} (h : s.run = none) : s.startDusk = s.unbegun.releaseToken.dusked := by
  rw [State.startDusk_eq, h]

theorem State.startDusk_own {s : State} {r : Running} (h : s.run = some r) (hs : r.stolen = none) : s.startDusk = s.unbegun.dusked := by
  rw [State.startDusk_eq, h]
  exact congrArg State.dusked (if_neg (by simp [hs]))

theorem State.startDusk_stolen {s : State} {r : Running} {b : Nat} (h : s.run = some r) (hs : r.stolen = some b) :
    s.startDusk = (s.unbegun.abandonBand r).dusked := by
  rw [State.startDusk_eq, h]
  exact congrArg State.dusked (if_pos (by simp [hs]))

/-- The beginning of Dusk leaves what its parts leave. -/
theorem State.startDusk_frame {γ : Type} (p : State → γ) (hd : ∀ s q, p (State.discardFetch s q) = p s)
    (ha : ∀ s r, p (State.abandonBand s r) = p s) (hr : ∀ s, p (State.releaseToken s) = p s)
    (hc : ∀ (s : State) x, p { s with pair := x } = p s) (hp : ∀ (s : State) x, p { s with pow := x } = p s) (s : State) :
    p s.startDusk = p s := by
  have hu : p s.unbegun = p s := (hc _ _).trans (foldl_frame p _ hd _ _)
  rw [State.startDusk_eq]
  refine (hp _ _).trans (Eq.trans ?_ hu)
  split
  · split
    · exact ha _ _
    · rfl
  · exact hr _

theorem State.unbegun_run (s : State) : s.unbegun.run = s.run := foldl_frame (·.run) _ State.discardFetch_run _ _

theorem State.unbegun_pow (s : State) : s.unbegun.pow = s.pow := foldl_frame (·.pow) _ State.discardFetch_pow _ _

theorem State.unbegun_queue (s : State) (q : BitVec 2) : s.unbegun.queue q = { s.queue q with fetch := .idle } := by
  have hq : q ∈ allQueues := by rcases queue_cases q with rfl | rfl | rfl | rfl <;> decide
  exact (discardFetch_foldl_queue allQueues s q).trans (if_pos hq)

theorem State.abandonBand_pow (s : State) (r : Running) : (s.abandonBand r).pow = s.pow.spent := by
  simp [State.abandonBand, State.leave, Power.spent]

/-- Of the power registers the beginning of Dusk changes its own, and where it gives a stolen band up the latches of that are spent. -/
theorem State.startDusk_pow (s : State) : s.startDusk.pow = s.dusked.pow ∨ s.startDusk.pow = s.dusked.pow.spent := by
  have dusk {t : State} {p : Power} (h : t.pow = p) : t.dusked.pow =
      { p with state := .dusk, dawnDone := false, duskStep := 0, sleepLatched := false } := h ▸ rfl
  rw [State.startDusk_eq]
  split
  · split
    · exact .inr (dusk ((State.abandonBand_pow _ _).trans (congrArg Power.spent s.unbegun_pow)))
    · exact .inl (dusk s.unbegun_pow)
  · exact .inl (dusk s.unbegun_pow)

/-- What the beginning of Dusk makes of a twin, whatever executes (16 R388 steps 1 and 2, 13 R320). -/
structure State.DuskEntered (s t : State) : Prop where
  state : t.pow.state = .dusk
  dawnDone : t.pow.dawnDone = false
  duskStep : t.pow.duskStep = 0
  sleepLatched : t.pow.sleepLatched = false
  en : t.pow.en = s.pow.en
  latchedDawn : t.pow.latchedDawn = s.pow.latchedDawn
  queue : ∀ q, t.queue q = { s.queue q with fetch := .idle }
  steady : t.pair.steady = { s.pair with claim := none }.steady
  token : s.run = none ∨ s.pair.token = false → t.pair.token = false
  request : s.run = none → t.pair.request = false
  own : ∀ r, s.run = some r → r.stolen = none → t.run = some r
  arch : t.arch = s.arch
  num : t.num = s.num
  cnt : t.cnt = s.cnt
  trap : t.trap = s.trap
  err : t.err = s.err
  ring : t.ring = s.ring
  star : t.star = s.star
  clk : t.clk = s.clk
  dawn : t.dawn = s.dawn

theorem State.startDusk_queue (s : State) (q : BitVec 2) : s.startDusk.queue q = { s.queue q with fetch := .idle } := by
  refine Eq.trans (State.queue_of_queues ?_ q) (s.unbegun_queue q)
  rw [State.startDusk_eq]
  split
  · split
    · exact State.abandonBand_queues _ _
    · rfl
  · rfl

theorem State.startDusk_steady (s : State) : s.startDusk.pair.steady = { s.pair with claim := none }.steady := by
  rw [State.startDusk_eq]
  split
  · split
    · exact (State.abandonBand_gone _ _).steady
    · rfl
  · exact s.unbegun.releaseToken_steady

theorem State.startDusk_token {s : State} (h : s.run = none ∨ s.pair.token = false) : s.startDusk.pair.token = false := by
  rw [State.startDusk_eq]
  split
  case h_1 e =>
    split
    · exact (State.abandonBand_gone _ _).token
    · exact h.resolve_left (by simp [e])
  case h_2 => exact s.unbegun.releaseToken_pair.1

theorem State.startDusk_entered (s : State) : s.DuskEntered s.startDusk where
  state := by rw [State.startDusk_eq]; rfl
  dawnDone := by rw [State.startDusk_eq]; rfl
  duskStep := by rw [State.startDusk_eq]; rfl
  sleepLatched := by rw [State.startDusk_eq]; rfl
  en := by rcases s.startDusk_pow with e | e <;> rw [e] <;> rfl
  latchedDawn := by rcases s.startDusk_pow with e | e <;> rw [e] <;> rfl
  queue := s.startDusk_queue
  steady := s.startDusk_steady
  token := State.startDusk_token
  request h := by rw [State.startDusk_idle h]; rfl
  own r h hs := by rw [State.startDusk_own h hs]; exact s.unbegun_run.trans h
  arch := State.startDusk_frame (·.arch) State.discardFetch_arch State.abandonBand_arch State.releaseToken_arch (fun _ _ => rfl) (fun _ _ => rfl) s
  num := State.startDusk_frame (·.num) State.discardFetch_num State.abandonBand_num State.releaseToken_num (fun _ _ => rfl) (fun _ _ => rfl) s
  cnt := State.startDusk_frame (·.cnt) State.discardFetch_cnt State.abandonBand_cnt State.releaseToken_cnt (fun _ _ => rfl) (fun _ _ => rfl) s
  trap := State.startDusk_frame (·.trap) State.discardFetch_trap State.abandonBand_trap State.releaseToken_trap (fun _ _ => rfl) (fun _ _ => rfl) s
  err := State.startDusk_frame (·.err) State.discardFetch_err State.abandonBand_err State.releaseToken_err (fun _ _ => rfl) (fun _ _ => rfl) s
  ring := State.startDusk_frame (·.ring) State.discardFetch_ring State.abandonBand_ring State.releaseToken_ring (fun _ _ => rfl) (fun _ _ => rfl) s
  star := State.startDusk_frame (·.star) State.discardFetch_star State.abandonBand_star State.releaseToken_star (fun _ _ => rfl) (fun _ _ => rfl) s
  clk := State.startDusk_frame (·.clk) State.discardFetch_clk State.abandonBand_clk State.releaseToken_clk (fun _ _ => rfl) (fun _ _ => rfl) s
  dawn := State.startDusk_frame (·.dawn) State.discardFetch_dawn State.abandonBand_dawn State.releaseToken_dawn (fun _ _ => rfl) (fun _ _ => rfl) s

/-! ### EN -/

/-- The EN level as it qualifies (16 R382). -/
def State.withEn (s : State) (b : Bool) : State := { s with pow := { s.pow with en := b } }

/-- A wake is latched (16 R382). -/
def State.latchWake (s : State) : State := { s with pow := { s.pow with wakeLatched := true } }

/-- A sleep is latched (16 R382). -/
def State.latchSleep (s : State) : State := { s with pow := { s.pow with sleepLatched := true } }

section En

variable (s : State)

theorem enRise_eq : enRise s = match s.pow.state with
    | .off => (s.withEn true).startDawn
    | .dusk => (s.withEn true).latchWake
    | _ => s.withEn true := rfl

theorem enFall_eq : enFall s = match s.pow.state with
    | .run => (s.withEn false).startDusk
    | .dawn => if s.pow.failed then s.withEn false else (s.withEn false).latchSleep
    | _ => s.withEn false := rfl

variable {s}

theorem enRise_awake (h : s.pow.state = .dawn ∨ s.pow.state = .run) : enRise s = s.withEn true := by
  rcases h with h | h <;> rw [enRise_eq, h]

theorem enFall_dawn (h : s.pow.state = .dawn) (hf : s.pow.failed = false) : enFall s = (s.withEn false).latchSleep := by
  rw [enFall_eq, h]
  exact if_neg (by simp [hf])

theorem enFall_asleep (h : s.pow.state = .off ∨ s.pow.state = .dusk ∨ (s.pow.state = .dawn ∧ s.pow.failed = true)) :
    enFall s = s.withEn false := by
  rcases h with h | h | ⟨h, hf⟩
  · rw [enFall_eq, h]
  · rw [enFall_eq, h]
  · rw [enFall_eq, h]
    exact if_pos hf

end En

/-- Settles O27: each level by the power state; a fall in RUN is the beginning of Dusk. -/
theorem enLevels : Obligations.EnLevels := by
  intro s hs
  have high : exec .enHigh s = .next (enRise s) := functional_live hs _
  have low : exec .enLow s = .next (enFall s) := functional_live hs _
  refine ⟨fun h => high.trans (congrArg _ ?off), fun h => high.trans (congrArg _ ?dusk),
    fun h => high.trans (congrArg _ (enRise_awake h)), fun h => ⟨(s.withEn false).startDusk, low.trans (congrArg _ ?fall), ?run⟩,
    fun h hf => low.trans (congrArg _ (enFall_dawn h hf)), fun h => low.trans (congrArg _ (enFall_asleep h))⟩
  case off => rw [enRise_eq, h]; rfl
  case dusk => rw [enRise_eq, h]; rfl
  case fall => rw [enFall_eq, h]
  case run =>
    have d := (s.withEn false).startDusk_entered
    exact ⟨d.state, d.dawnDone, d.en, d.arch, d.num, d.cnt, d.trap, d.err, d.ring, (congrArg Pair.claim d.steady :),
      fun hr => ⟨d.token (.inl hr), d.request hr⟩, d.own, d.queue⟩

/-! ### PREEMPT_REQ -/

/-- The pre-emption latch is set (16 R391). -/
def State.latchPreempt (s : State) : State := { s with pow := { s.pow with preempt := true } }

/-- The latch is set, for the command that executes next (13 R326). -/
def State.keepPreempt (s : State) : State := { s with pow := { s.pow with preempt := true, preemptKeep := true } }

theorem preemptEdge_eq (s : State) : preemptEdge s =
    if s.pow.preempt then s.count cPRECOAL
    else if s.pair.mode = .lockstep && !s.isA then s
    else match s.run with
      | none => s
      | some r => match r.stage with
        | .saving _ | .restoring _ => if suspends r.op || r.op = oRESUME then s.keepPreempt else s
        | .trailer _ | .done => s
        | _ => if suspends r.op && r.stolen.isNone then s.latchPreempt else s := rfl

theorem preemptEdge_coalesced {s : State} (hp : s.pow.preempt = true) : preemptEdge s = s.count cPRECOAL := if_pos hp

section Preempt

variable {s : State} (hp : s.pow.preempt = false)

include hp

theorem preemptEdge_twinB (hm : s.pair.mode = .lockstep) (hb : s.straps.twinSide = true) : preemptEdge s = s := by
  simp [preemptEdge_eq, hp, hm, State.isA, hb]

theorem preemptEdge_idle (hr : s.run = none) : preemptEdge s = s := by
  simp [preemptEdge_eq, hp, hr]

variable {r : Running} (ha : s.pair.mode = .lockstep → s.straps.twinSide = false) (hr : s.run = some r)

include ha hr

/-- Where the latch is clear and a command executes that is not twin B's of LOCKSTEP, its stage decides. -/
theorem preemptEdge_running : preemptEdge s = match r.stage with
    | .saving _ | .restoring _ => if suspends r.op || r.op = oRESUME then s.keepPreempt else s
    | .trailer _ | .done => s
    | _ => if suspends r.op && r.stolen.isNone then s.latchPreempt else s := by
  have hb := State.isTwinB_eq_false (Classical.or_iff_not_imp_left.mpr fun h => ha (not_not.mp h))
  rw [preemptEdge_eq, if_neg (by simp [hp]), if_neg (by simp [hb]), hr]

theorem preemptEdge_keeps (hst : (∃ b, r.stage = .saving b) ∨ ∃ k, r.stage = .restoring k) :
    preemptEdge s = if suspends r.op = true ∨ r.op = 0x0D then s.keepPreempt else s := by
  have acts : (suspends r.op || r.op = oRESUME) = true ↔ suspends r.op = true ∨ r.op = 0x0D := by
    rw [Bool.or_eq_true, decide_eq_true_iff]
    rfl
  rcases hst with ⟨b, hst⟩ | ⟨k, hst⟩
  · rw [preemptEdge_running hp ha hr, hst]
    exact if_congr acts rfl rfl
  · rw [preemptEdge_running hp ha hr, hst]
    exact if_congr acts rfl rfl

/-- After the last unit there is nothing left to suspend. -/
theorem preemptEdge_late (hst : (∃ b, r.stage = .trailer b) ∨ r.stage = .done) : preemptEdge s = s := by
  rcases hst with ⟨b, hst⟩ | hst <;> rw [preemptEdge_running hp ha hr, hst]

theorem preemptEdge_sets (hs : ∀ b, r.stage ≠ .saving b) (hk : ∀ k, r.stage ≠ .restoring k) (ht : ∀ b, r.stage ≠ .trailer b)
    (hd : r.stage ≠ .done) : preemptEdge s = if suspends r.op = true ∧ r.stolen = none then s.latchPreempt else s := by
  rw [preemptEdge_running hp ha hr]
  cases hst : r.stage
  case saving b => exact absurd hst (hs b)
  case restoring k => exact absurd hst (hk k)
  case trailer b => exact absurd hst (ht b)
  case done => exact absurd hst hd
  all_goals exact if_congr (by simp) rfl rfl

end Preempt

/-- Settles O28: an edge is coalesced, has no effect, is kept, or sets the latch, by what executes and its stage. -/
theorem preemptRequests : Obligations.PreemptRequests := by
  intro s hs
  have row : exec .preemptReq s = .next (preemptEdge s) := functional_live hs _
  exact ⟨fun hp => row.trans (congrArg _ (preemptEdge_coalesced hp)), fun hp hr => row.trans (congrArg _ (preemptEdge_idle hp hr)),
    fun hp hm hb => row.trans (congrArg _ (preemptEdge_twinB hp hm hb)), fun r hp ha hr =>
    ⟨fun hst => row.trans (congrArg _ (preemptEdge_keeps hp ha hr hst)), fun hst => row.trans (congrArg _ (preemptEdge_late hp ha hr hst)),
      fun h1 h2 h3 h4 => row.trans (congrArg _ (preemptEdge_sets hp ha hr h1 h2 h3 h4))⟩⟩

/-! ### SYNC_IN and THROTTLE -/

theorem syncPulse_awaited {s : State} (h : s.pow.syncWait = true) :
    syncPulse s = { s with pow := { s.pow with syncWait := false, syncPassed := true } } := if_pos h

theorem syncPulse_ignored {s : State} (h : s.pow.syncWait = false) : syncPulse s = { s with cnt := s.cnt.raise 62 1 } :=
  if_neg (by simp [h])

theorem syncLate_marks {s : State} (hd : s.pow.state = .dawn) (hk : s.pow.step = 4) (h : s.pow.syncWait = true ∨ s.pow.syncPassed = true) :
    syncLate s = { s with pow := { s.pow with syncWait := false, syncPassed := false, syncFailed := true } } :=
  if_pos (by simpa [hd, hk] using h)

theorem syncLate_elsewhere {s : State} (h : s.pow.state ≠ .dawn ∨ s.pow.step ≠ 4) : syncLate s = s := by
  refine if_neg fun e => ?_
  simp only [Bool.and_eq_true, decide_eq_true_eq] at e
  obtain ⟨⟨hd, hk⟩, -⟩ := e
  exact h.elim (· hd) (· hk)

/-- Settles O30: a pulse and a time limit, by whether D4 waits; the throttle level is shown. -/
theorem syncAndThrottle : Obligations.SyncAndThrottle := by
  intro s hs
  have pulse : exec .syncInPulse s = .next (syncPulse s) := functional_live hs _
  have late : exec .syncTimeout s = .next (syncLate s) := functional_live hs _
  exact ⟨fun h => pulse.trans (congrArg _ (syncPulse_awaited h)), fun _ h => pulse.trans (congrArg _ (syncPulse_ignored h)),
    fun _ h => pulse.trans (congrArg _ (syncPulse_ignored h)), fun hd hk h => late.trans (congrArg _ (syncLate_marks hd hk h)),
    fun h => late.trans (congrArg _ (syncLate_elsewhere h)), fun n => functional_live hs _⟩

/-! ### Resets -/

theorem State.released_low {s : State} (h : s.pow.en = false) : s.released = s := if_neg (by simp [h])

theorem State.released_high {s : State} (h : s.pow.en = true) : s.released = s.startDawn := if_pos h

/-- What a reset with EN low keeps of what is not the block's, beside the state `t` that it makes. -/
theorem State.keepOutside_low {s : State} (h : s.pow.en = false) (t : State) : s.keepOutside t = { t with
    pair := { t.pair with partner := s.pair.partner }, pow := { t.pow with en := false }
    wires := s.wires, freeIx := s.freeIx, pending := s.pending } := by
  rw [State.keepOutside, h]

/-- Settles O31: with EN low nothing follows the reset itself. -/
theorem resetsLeave : Obligations.ResetsLeave := by
  intro s p he
  refine ⟨congrArg Host.Outcome.next ?cold, fun hs => (functional_live hs _).trans (congrArg _ ?warm)⟩
  case cold =>
    rw [coldReset, State.keepOutside_low he]
    exact State.released_low rfl
  case warm =>
    rw [warmReset, State.keepOutside_low he]
    refine (State.released_low rfl).trans ?_
    by_cases hc : s.pow.state = .dawn ∧ s.pow.failed = false
    · simp [hc, State.reset]
    · have hcut : (decide (s.pow.state = .dawn) && !s.pow.failed) = false := by simpa using hc
      simp [hc, hcut, State.reset]

/-- Settles O32: EN high at the release starts Dawn from what the reset left. -/
theorem resetWithEnStartsDawn : Obligations.ResetWithEnStartsDawn := by
  intro s p he hs
  have cold : exec (.poreset p) s = .next (coldReset s p) := rfl
  have warm : exec .wreset s = .next (warmReset s) := functional_live hs _
  exact ⟨⟨_, cold.trans (congrArg _ (State.released_high he)), rfl, rfl, rfl, rfl⟩,
    ⟨_, warm.trans (congrArg _ (State.released_high he)), rfl, rfl, rfl, rfl, rfl, rfl⟩⟩

end Sys2Proof.Machine

/-! The steps of Dawn (16 R377, R384-R387, 01 R12, R25, 15 R368): what the end of a step leaves, and the branches of each step D0 to D8. -/

namespace Sys2Proof.Machine

open Sys2Proof

/-! ### The end of a step -/

section StepEnds

variable {s : State} (hw : sparseWf {} s.dawn.steps = true)

include hw

/-- The Dawn log shows the outcome of the step that has ended. -/
theorem State.stepDone_log (k result method attempts : Nat) (mark : Bool) :
    sget {} (s.stepDone k result method attempts mark).dawn.steps k =
      ⟨mark, BitVec.ofNat 2 result, BitVec.ofNat 2 method, BitVec.ofNat 8 attempts⟩ := sget_sset_self _ _ _ _ hw

theorem State.dawnFailed_log (k attempts : Nat) :
    sget {} (s.dawnFailed k attempts).dawn.steps k = ⟨s.marked k, 2, 0, BitVec.ofNat 8 attempts⟩ := sget_sset_self _ _ _ _ hw

/-- D3 goes on to a D4 that waits for its pulse unless it is marked (R377, R387). -/
theorem State.initStorages_syncWait : s.initStorages.pow.syncWait = !s.marked 4 :=
  congrArg (fun x : StepLog => !x.marked) (sget_sset_other _ _ _ _ _ hw (by decide))

end StepEnds

/-! ### The step that runs -/

section Steps

variable {s : State} (hd : s.pow.state = .dawn) (hf : s.pow.failed = false) (o : DawnOutcome)

theorem dawnStep_idle (h : s.pow.state ≠ .dawn ∨ s.pow.failed = true) : dawnStep s o = s :=
  if_pos (by simpa [bne_iff_ne] using h)

include hd hf

theorem dawnStep_running : dawnStep s o = match s.pow.step.toNat with
    | 0 => s.stepPassed 0
    | 1 => if o.memoryOk then s.stepPassed 1 else s.dawnFailed 1 1
    | 2 => s.stepPassed 2
    | 3 => s.initStorages
    | 4 => s.alignClocks
    | 5 => s.loadFirmware o
    | 6 => s.testLanes o
    | 7 => s.restoreLanes o
    | 8 => s.calibrate o
    | _ => s.dawnReady :=
  if_neg (by simp [hd, hf])

theorem dawnStep_zero (h : s.pow.step = 0) : dawnStep s o = s.stepPassed 0 := by
  rw [dawnStep_running hd hf, h]; rfl

theorem dawnStep_one (h : s.pow.step = 1) : dawnStep s o = if o.memoryOk then s.stepPassed 1 else s.dawnFailed 1 1 := by
  rw [dawnStep_running hd hf, h]; rfl

theorem dawnStep_two (h : s.pow.step = 2) : dawnStep s o = s.stepPassed 2 := by
  rw [dawnStep_running hd hf, h]; rfl

theorem dawnStep_three (h : s.pow.step = 3) : dawnStep s o = s.initStorages := by
  rw [dawnStep_running hd hf, h]; rfl

theorem dawnStep_four (h : s.pow.step = 4) : dawnStep s o = s.alignClocks := by
  rw [dawnStep_running hd hf, h]; rfl

theorem dawnStep_five (h : s.pow.step = 5) : dawnStep s o = s.loadFirmware o := by
  rw [dawnStep_running hd hf, h]; rfl

theorem dawnStep_six (h : s.pow.step = 6) : dawnStep s o = s.testLanes o := by
  rw [dawnStep_running hd hf, h]; rfl

theorem dawnStep_seven (h : s.pow.step = 7) : dawnStep s o = s.restoreLanes o := by
  rw [dawnStep_running hd hf, h]; rfl

theorem dawnStep_eight (h : s.pow.step = 8) : dawnStep s o = s.calibrate o := by
  rw [dawnStep_running hd hf, h]; rfl

theorem dawnStep_nine (h : s.pow.step = 9) : dawnStep s o = s.dawnReady := by
  rw [dawnStep_running hd hf, h]; rfl

end Steps

/-- D0 and D2, and a D1 whose memories are sound, pass. -/
theorem dawnStep_passes {s : State} {o : DawnOutcome} (hd : s.pow.state = .dawn) (hf : s.pow.failed = false)
    (h : s.pow.step = 0 ∨ s.pow.step = 2 ∨ (s.pow.step = 1 ∧ o.memoryOk = true)) : dawnStep s o = s.stepPassed s.pow.step.toNat := by
  rcases h with h | h | ⟨h, hm⟩
  · exact (dawnStep_zero hd hf o h).trans (by rw [h]; rfl)
  · exact (dawnStep_two hd hf o h).trans (by rw [h]; rfl)
  · exact (dawnStep_one hd hf o h).trans ((if_pos hm).trans (by rw [h]; rfl))

/-- A step that passes goes on to the next, of D0 to D2 to no D4. -/
theorem State.stepPassed_step {s : State} (h : s.pow.step.toNat < 3) :
    (s.stepPassed s.pow.step.toNat).pow = { s.pow with step := s.pow.step + 1, syncWait := false } := by
  have hnext : BitVec.ofNat 4 (s.pow.step.toNat + 1) = s.pow.step + 1 := by bv_omega
  have hwait : decide (s.pow.step.toNat + 1 = 4) = false := by simp; omega
  show ({ s.pow with step := _, syncWait := decide (s.pow.step.toNat + 1 = 4) && _ } : Power) = _
  rw [hnext, hwait, Bool.false_and]

/-! ### D4 -/

section Align

variable {s : State}

theorem alignClocks_waits (hp : s.pow.syncPassed = false) (hl : s.pow.syncFailed = false) (hs : s.pow.syncWait = true) :
    s.alignClocks = s := by
  simp [State.alignClocks, hp, hl, hs]

/-- A D4 that does not wait ends by its pulse, by its second method after a late pulse, or by that method because it began marked. -/
theorem alignClocks_ends (h : s.pow.syncPassed = true ∨ s.pow.syncFailed = true ∨ s.pow.syncWait = false) : s.alignClocks =
    if s.pow.syncPassed then s.stepDone 4 1 0 1 false else if s.pow.syncFailed then s.stepDone 4 1 1 2 true
    else s.stepDone 4 1 1 1 (s.marked 4) := by
  by_cases hp : s.pow.syncPassed = true
  · simp [State.alignClocks, hp]
  · by_cases hl : s.pow.syncFailed = true
    · simp [State.alignClocks, hp, hl]
    · simp [State.alignClocks, hp, hl, (h.resolve_left hp).resolve_left hl]

end Align

/-! ### D5 -/

/-- Lines that are here are taken from the buffer of their owner. -/
theorem State.ask_ready {s u : State} {owner kind : Nat} {cls : BitVec 2} {want : List (Nat × Nat)} {ls : Sparse RdLine}
    (h : s.ask owner kind cls want = .ready u ls) : u = s.received owner := by
  unfold State.ask at h
  split at h
  · cases h
  · dsimp only at h
    split at h
    · cases h
      rfl
    · cases h

theorem State.ask_fault {s : State} {owner : Nat} {f : XlatFault} (h : s.port.faultOf owner = some f) (kind : Nat) (cls : BitVec 2)
    (want : List (Nat × Nat)) : s.ask owner kind cls want = .fault f := by
  simp only [State.ask, h]

section Firmware

variable {s u : State} {o : DawnOutcome}

theorem loadFirmware_marked (hm : s.marked 5 = true) : s.loadFirmware o = (s.setFirmware true 0x0310).firmwareDone 1 1 true :=
  if_pos hm

variable (hm : s.marked 5 = false)

include hm

theorem loadFirmware_noAddress (hv : s.dawn.fwValid = false) : s.loadFirmware o = (s.setFirmware true 0x0310).firmwareDone 1 1 false := by
  simp [State.loadFirmware, hm, hv]

variable (hv : s.dawn.fwValid = true)

include hv

theorem loadFirmware_reads : s.loadFirmware o = match s.ask 7 0 0 (s.dawn.imageLines (o.imageLines.toNat + 1)) with
    | .wait s => s
    | .fault _ => (s.setFirmware true 0x0310).firmwareDone 1 2 true
    | .ready s ls =>
      match (if ls.any (·.2.poison) then none else o.firmware) with
      | some v => (s.setFirmware false v).firmwareDone 0 1 false
      | none => (s.setFirmware true 0x0310).firmwareDone 1 2 true :=
  (if_neg (by simp [hm])).trans (if_neg (by simp [hv]))

theorem loadFirmware_faults {f : XlatFault} (h : s.port.faultOf 7 = some f) :
    s.loadFirmware o = (s.setFirmware true 0x0310).firmwareDone 1 2 true := by
  rw [loadFirmware_reads hm hv, State.ask_fault h]

theorem loadFirmware_waits (h : s.ask 7 0 0 (s.dawn.imageLines (o.imageLines.toNat + 1)) = .wait u) : s.loadFirmware o = u := by
  rw [loadFirmware_reads hm hv, h]

variable {ls : Sparse RdLine} (h : s.ask 7 0 0 (s.dawn.imageLines (o.imageLines.toNat + 1)) = .ready u ls)

include h

theorem loadFirmware_runs {v : BitVec 16} (hl : ∀ l ∈ ls, l.2.poison = false) (hi : o.firmware = some v) :
    s.loadFirmware o = (u.setFirmware false v).firmwareDone 0 1 false := by
  have hp : ls.any (·.2.poison) = false := List.any_eq_false.mpr fun l hx => by simp [hl l hx]
  rw [loadFirmware_reads hm hv, h]
  dsimp only
  rw [hp, hi]
  rfl

theorem loadFirmware_refuses (hi : (∃ l ∈ ls, l.2.poison = true) ∨ o.firmware = none) :
    s.loadFirmware o = (u.setFirmware true 0x0310).firmwareDone 1 2 true := by
  have hn : (if ls.any (·.2.poison) = true then none else o.firmware) = none :=
    hi.elim (fun hp => if_pos (List.any_eq_true.mpr hp)) fun hi => by rw [hi, ite_self]
  rw [loadFirmware_reads hm hv, h]
  dsimp only
  rw [hn]

end Firmware

/-- What D5's reads left is dropped with its translations before the step ends. -/
theorem State.firmwareDone_eq (s : State) (method attempts : Nat) (mark : Bool) :
    ∃ p : Port, p.xlats = [] ∧ s.firmwareDone method attempts mark = { s with port := p }.stepDone 5 1 method attempts mark :=
  ⟨((s.dropReads ownFirmware).dropXlats).port, rfl, rfl⟩

/-- Of a state, the end of D5 changes the power registers, the Dawn log and the port. -/
theorem State.firmwareDone_leaves {s u : State} (hu : ∃ p, u = { s with port := p }) (hw : sparseWf {} s.dawn.steps = true) (rom : Bool)
    (v : BitVec 16) (method attempts : Nat) (mark : Bool) : ∃ t, (u.setFirmware rom v).firmwareDone method attempts mark = t ∧
      t = { s with pow := t.pow, dawn := t.dawn, port := t.port } ∧ t.port.xlats = [] ∧
      t.pow = { s.pow with fwRom := rom, fwVersion := v, step := 6, syncWait := false } ∧
      sget {} t.dawn.steps 5 = ⟨mark, 1, BitVec.ofNat 2 method, BitVec.ofNat 8 attempts⟩ := by
  obtain ⟨p, rfl⟩ := hu
  obtain ⟨q, hx, e⟩ := State.firmwareDone_eq ({ s with port := p }.setFirmware rom v) method attempts mark
  exact ⟨_, e, rfl, hx, rfl, State.stepDone_log (s := { s with port := q }) hw 5 1 method attempts mark⟩

/-- Settles O33: each step D0 to D5 by its branches; what a step leaves is what its end leaves. -/
theorem dawnEarlySteps : Obligations.DawnEarlySteps := by
  intro o s hs
  have row : exec (.dawnSequence o) s = .next (dawnStep s o) := functional_live hs _
  refine ⟨fun h => row.trans (congrArg _ (dawnStep_idle o h)), fun hd hf ok => ?_⟩
  have hw := ok.dawnSteps
  have at5 (h5 : s.pow.step = 5) {t : State} (e : s.loadFirmware o = t) : exec (.dawnSequence o) s = .next t :=
    row.trans (congrArg _ ((dawnStep_five hd hf o h5).trans e))
  have self : ∃ p, s = { s with port := p } := ⟨s.port, rfl⟩
  refine ⟨fun h1 hm => ?unrepaired, fun h => ?passes, fun h3 => ?storages, fun h4 => ⟨fun hp hl hq => ?waits, fun h => ?aligned⟩,
    fun h5 => ⟨fun u hm hv ha => at5 h5 (loadFirmware_waits hm hv ha), fun u ls v hm hv ha hl hi => ?image, fun x hx => ?golden⟩⟩
  case unrepaired =>
    exact ⟨_, row.trans (congrArg _ ((dawnStep_one hd hf o h1).trans (if_neg (by simp [hm])))), rfl, rfl, rfl, rfl, State.dawnFailed_log hw 1 1⟩
  case passes =>
    have hk : s.pow.step.toNat < 3 := by rcases h with h | h | ⟨h, -⟩ <;> rw [h] <;> decide
    have hp := State.stepPassed_step hk
    exact ⟨_, row.trans (congrArg _ (dawnStep_passes hd hf h)), rfl, (congrArg Power.step hp :), hd, hf, State.stepDone_log hw _ 1 0 1 _⟩
  case storages =>
    exact ⟨_, row.trans (congrArg _ (dawnStep_three hd hf o h3)), rfl, State.initStorages_syncWait hw, rfl⟩
  case waits => exact row.trans (congrArg _ ((dawnStep_four hd hf o h4).trans (alignClocks_waits hp hl hq)))
  case aligned =>
    refine ⟨_, row.trans (congrArg _ ((dawnStep_four hd hf o h4).trans (alignClocks_ends h))), ?_⟩
    split
    · exact ⟨rfl, rfl, State.stepDone_log hw 4 1 0 1 false⟩
    · split
      · exact ⟨rfl, rfl, State.stepDone_log hw 4 1 1 2 true⟩
      · exact ⟨rfl, rfl, State.stepDone_log hw 4 1 1 1 _⟩
  case image =>
    have hu : ∃ p, u = { s with port := p } := ⟨_, State.ask_ready ha⟩
    obtain ⟨t, e, same, hx, hpow, hlog⟩ := State.firmwareDone_leaves hu hw false v 0 1 false
    exact ⟨t, at5 h5 ((loadFirmware_runs hm hv ha hl hi).trans e), same, hx, hpow, hlog⟩
  case golden =>
    rcases hx with ⟨hm, rfl⟩ | ⟨hm, hv, rfl⟩ | ⟨hm, hv, rfl, ⟨f, hq⟩ | ⟨u, ls, ha, hi⟩⟩
    · obtain ⟨t, e, h⟩ := State.firmwareDone_leaves self hw true 0x0310 1 1 true
      exact ⟨t, at5 h5 ((loadFirmware_marked hm).trans e), h⟩
    · obtain ⟨t, e, h⟩ := State.firmwareDone_leaves self hw true 0x0310 1 1 false
      exact ⟨t, at5 h5 ((loadFirmware_noAddress hm hv).trans e), h⟩
    · obtain ⟨t, e, h⟩ := State.firmwareDone_leaves self hw true 0x0310 1 2 true
      exact ⟨t, at5 h5 ((loadFirmware_faults hm hv hq).trans e), h⟩
    · have hu : ∃ p, u = { s with port := p } := ⟨_, State.ask_ready ha⟩
      obtain ⟨t, e, h⟩ := State.firmwareDone_leaves hu hw true 0x0310 1 2 true
      exact ⟨t, at5 h5 ((loadFirmware_refuses hm hv ha hi).trans e), h⟩

/-! ### D6 -/

theorem State.isPinned_iff (s : State) : s.isPinned = true ↔ s.dawn.pinned ≠ 0x3F := bne_iff_ne

section Lanes

variable {s : State} {o : DawnOutcome}

theorem testLanes_sound (h : o.failedColumn = none) : s.testLanes o =
    (s.setSpare s.startSpare).stepDone 6 1 (if s.marked 6 then 1 else 0) 1 (s.marked 6) := by
  simp only [State.testLanes, h]
  rfl

/-- The column is pinned (R386). -/
def State.pin (s : State) (c : BitVec 6) : State := { s.setSpare c with dawn := { s.dawn with pinned := c } }

theorem testLanes_pins {c : BitVec 6} (h : o.failedColumn = some c) (hr : o.retryPasses = true) :
    s.testLanes o = (s.pin c).stepDone 6 1 1 2 true := by
  simp only [State.testLanes, h, hr]
  rfl

theorem testLanes_fails {c : BitVec 6} (h : o.failedColumn = some c) (hr : o.retryPasses = false) :
    s.testLanes o = (s.setSpare c).dawnFailed 6 2 := by
  simp only [State.testLanes, h, hr]
  rfl

/-! ### D7 -/

theorem restoreLanes_marked (hm : s.marked 7 = true) :
    s.restoreLanes o = (if s.isPinned then s else s.setSpare 0).stepDone 7 3 2 0 true := if_pos hm

/-- An unmarked D7 leaves its spare in the lane record: the pinned column, the default, or the record's own rotated. -/
theorem restoreLanes_records (hm : s.marked 7 = false) : s.restoreLanes o =
    if s.isPinned then (s.recordSpare s.dawn.pinned).stepDone 7 1 0 1 false
    else if !s.dawn.laneValid then (s.recordSpare 0).stepDone 7 1 2 1 false
    else if !o.laneParityOk then (s.recordSpare 0).stepDone 7 2 2 1 true
    else (s.recordSpare (nextSpare s.dawn.savedSpare)).stepDone 7 1 0 1 false := if_neg (by simp [hm])

/-- D7 goes on to D8 and leaves everything but the power registers, the Dawn log and the spare column. -/
theorem restoreLanes_frame : (s.restoreLanes o).pow.step = 8 ∧
    s.restoreLanes o = { s with pow := (s.restoreLanes o).pow, dawn := (s.restoreLanes o).dawn, cal := (s.restoreLanes o).cal } ∧
    (s.restoreLanes o).dawn.pinned = s.dawn.pinned := by
  cases hm : s.marked 7 with
  | true =>
    rw [restoreLanes_marked hm]
    split <;> exact ⟨rfl, rfl, rfl⟩
  | false =>
    rw [restoreLanes_records hm]
    split
    · exact ⟨rfl, rfl, rfl⟩
    · split
      · exact ⟨rfl, rfl, rfl⟩
      · split <;> exact ⟨rfl, rfl, rfl⟩

theorem restoreLanes_recorded (hm : s.marked 7 = false) :
    (s.restoreLanes o).dawn.savedSpare = (s.restoreLanes o).cal.spare ∧ (s.restoreLanes o).dawn.laneValid = true := by
  rw [restoreLanes_records hm]
  split
  · exact ⟨rfl, rfl⟩
  · split
    · exact ⟨rfl, rfl⟩
    · split <;> exact ⟨rfl, rfl⟩

/-! ### D8 -/

theorem calibrate_marked (hm : s.marked 8 = true) :
    s.calibrate o = { s with cal := { s.cal with droopTrim := 0x20, roTrim := 0x20 } }.stepDone 8 3 2 0 true := if_pos hm

theorem calibrate_measured (hm : s.marked 8 = false) (ht : o.trimOk = true) : s.calibrate o =
    { s with cal := { s.cal with roCount := o.roCount, lastFailed := false, droopTrim := o.droopTrim, roTrim := o.roTrim } }.stepDone
      8 1 0 1 false :=
  (if_neg (by simp [hm])).trans (if_pos ht)

theorem calibrate_outOfRange (hm : s.marked 8 = false) (ht : o.trimOk = false) : s.calibrate o =
    { s with cal := { s.cal with roCount := o.roCount, lastFailed := true, droopTrim := 0x20, roTrim := 0x20 } }.stepDone 8 2 2 1 true :=
  (if_neg (by simp [hm])).trans (if_neg (by simp [ht]))

theorem calibrate_frame : (s.calibrate o).pow.step = 9 ∧
    s.calibrate o = { s with pow := (s.calibrate o).pow, dawn := (s.calibrate o).dawn, cal := (s.calibrate o).cal } := by
  cases hm : s.marked 8 with
  | true => exact calibrate_marked (o := o) hm ▸ ⟨rfl, rfl⟩
  | false =>
    cases ht : o.trimOk with
    | true => exact calibrate_measured hm ht ▸ ⟨rfl, rfl⟩
    | false => exact calibrate_outOfRange hm ht ▸ ⟨rfl, rfl⟩

end Lanes

/-- Settles O34: D6 by the column that fails, D7 by the mark, the pin and the lane record, D8 by the mark and the trims. -/
theorem dawnLaneSteps : Obligations.DawnLaneSteps := by
  intro o s hs hd hf ok
  have row : exec (.dawnSequence o) s = .next (dawnStep s o) := functional_live hs _
  have hw := ok.dawnSteps
  refine ⟨fun h6 hc => ?sound, fun c h6 hc => ?column, fun h7 => ?lanes, fun h8 => ?trims⟩
  case sound =>
    refine ⟨_, row.trans (congrArg _ ((dawnStep_six hd hf o h6).trans (testLanes_sound hc))), rfl, hf, ?_, rfl, rfl, ?_⟩
    · exact congrArg (fun x => { s.cal with spare := x }) (if_congr s.isPinned_iff rfl rfl)
    · refine (State.stepDone_log hw 6 1 _ 1 _).trans ?_
      cases s.marked 6 <;> rfl
  case column =>
    have at6 := dawnStep_six hd hf o h6
    cases hr : o.retryPasses with
    | true =>
      exact ⟨_, row.trans (congrArg _ (at6.trans (testLanes_pins hc hr))), rfl,
        fun _ => ⟨rfl, rfl, hf, State.stepDone_log (s := s.pin c) hw 6 1 1 2 true⟩, nofun⟩
    | false =>
      exact ⟨_, row.trans (congrArg _ (at6.trans (testLanes_fails hc hr))), rfl, nofun, fun _ => ⟨rfl, rfl, rfl, rfl⟩⟩
  case lanes =>
    obtain ⟨hstep, hsame, hpin⟩ := restoreLanes_frame (s := s) (o := o)
    refine ⟨s.restoreLanes o, row.trans (congrArg _ (dawnStep_seven hd hf o h7)), hstep, hsame, hpin, fun hm => ?marked,
      fun hm => ⟨(restoreLanes_recorded hm).1, (restoreLanes_recorded hm).2, fun h => ?pinned, fun h hv => ?without, fun h hv hp => ?parity,
        fun h hv hp => ?rotated⟩⟩
    case marked =>
      rw [restoreLanes_marked hm]
      by_cases h : s.dawn.pinned ≠ 0x3F
      · rw [if_pos (s.isPinned_iff.mpr h), if_pos h]
        exact ⟨rfl, rfl, rfl, State.stepDone_log hw 7 3 2 0 true⟩
      · rw [if_neg (mt s.isPinned_iff.mp h), if_neg h]
        exact ⟨rfl, rfl, rfl, State.stepDone_log (s := s.setSpare 0) hw 7 3 2 0 true⟩
    case pinned =>
      rw [restoreLanes_records hm, if_pos (s.isPinned_iff.mpr h)]
      exact ⟨rfl, State.stepDone_log (s := s.recordSpare s.dawn.pinned) hw 7 1 0 1 false⟩
    all_goals have hn : ¬s.isPinned = true := mt s.isPinned_iff.mp (not_not.mpr h)
    case without =>
      rw [restoreLanes_records hm, if_neg hn, if_pos (by simp [hv])]
      exact ⟨rfl, State.stepDone_log (s := s.recordSpare 0) hw 7 1 2 1 false⟩
    case parity =>
      rw [restoreLanes_records hm, if_neg hn, if_neg (by simp [hv]), if_pos (by simp [hp])]
      exact ⟨rfl, State.stepDone_log (s := s.recordSpare 0) hw 7 2 2 1 true⟩
    case rotated =>
      rw [restoreLanes_records hm, if_neg hn, if_neg (by simp [hv]), if_neg (by simp [hp])]
      exact ⟨rfl, State.stepDone_log (s := s.recordSpare _) hw 7 1 0 1 false⟩
  case trims =>
    obtain ⟨hstep, hsame⟩ := calibrate_frame (s := s) (o := o)
    refine ⟨s.calibrate o, row.trans (congrArg _ (dawnStep_eight hd hf o h8)), hstep, hsame, fun hm => ?marked, fun hm ht => ?measured,
      fun hm ht => ?outOfRange⟩
    case marked =>
      rw [calibrate_marked hm]
      exact ⟨rfl, State.stepDone_log (s := { s with cal := _ }) hw 8 3 2 0 true⟩
    case measured =>
      rw [calibrate_measured hm ht]
      exact ⟨rfl, State.stepDone_log (s := { s with cal := _ }) hw 8 1 0 1 false⟩
    case outOfRange =>
      rw [calibrate_outOfRange hm ht]
      exact ⟨rfl, State.stepDone_log (s := { s with cal := _ }) hw 8 2 2 1 true⟩

end Sys2Proof.Machine

/-! The end of Dawn (16 R382, R383, R387, 13 R306, 12 R291, R297): what D9 sets, the replies of the DAWN packets latched in Dusk, and a
sleep that begins Dusk at once. -/

namespace Sys2Proof.Machine

open Sys2Proof

/-! ### The replies of latched DAWN packets -/

/-- The reply of a latched DAWN (12 R291). -/
def dawnReply (x : BitVec 2 × List Word) : Reply := packetReply x.1 (nats x.2) { status := 0, deferred := true }

/-- A latched DAWN is accepted and owed its reply. -/
def State.oweDawn (s : State) (x : BitVec 2 × List Word) : State :=
  { s.setQueue x.1 ((s.queue x.1).accept (x.2.getD 1 0)) with ring := { s.ring with owed := s.ring.owed ++ [dawnReply x] } }

/-- No DAWN is latched any more. -/
def State.unlatched (s : State) : State := { s with pow := { s.pow with latchedDawn := [] } }

theorem State.answerDawn_eq (s : State) : s.answerDawn = (s.pow.latchedDawn.foldl State.oweDawn s).unlatched.nextReply := rfl

/-- Accepting the latched DAWN packets changes the queues and what is owed. -/
theorem foldl_oweDawn (l : List (BitVec 2 × List Word)) (s : State) :
    ∃ q w, l.foldl State.oweDawn s = { s with queues := q, ring := { s.ring with owed := w } } := by
  induction l generalizing s with
  | nil => exact ⟨_, _, rfl⟩
  | cons x l ih =>
    obtain ⟨q, w, e⟩ := ih (s.oweDawn x)
    exact ⟨q, w, e⟩

/-- Of a state, answering them changes the queues, the replies that wait or are owed, what executes, and the latch. -/
theorem State.answerDawn_changes (s : State) : ∃ q w o x, s.answerDawn =
    { s with queues := q, ring := { s.ring with waiting := w, owed := o }, run := x, pow := { s.pow with latchedDawn := [] } } := by
  obtain ⟨q, v, e⟩ := foldl_oweDawn s.pow.latchedDawn s
  obtain ⟨w, o, x, h⟩ := (s.pow.latchedDawn.foldl State.oweDawn s).unlatched.nextReply_eq
  refine ⟨q, w, o, x, (s.answerDawn_eq.trans h).trans ?_⟩
  rw [e]
  rfl

theorem State.answerDawn_none {s : State} (h : s.pow.latchedDawn = []) : s.answerDawn = s.unlatched.nextReply := by
  rw [State.answerDawn_eq, h]
  rfl

theorem State.nextReply_queue (s : State) (q : BitVec 2) : s.nextReply.queue q = s.queue q := by
  obtain ⟨w, o, x, e⟩ := s.nextReply_eq
  rw [e]
  rfl

/-- The reply of a lone latched DAWN waits at once when no other reply does. -/
theorem State.answerDawn_one {s : State} {x : BitVec 2 × List Word} (h : s.pow.latchedDawn = [x]) (ho : s.ring.owed = [])
    (hw : s.ring.waiting = []) :
    s.answerDawn = { (s.oweDawn x).unlatched with ring := { s.ring with waiting := [dawnReply x], owed := [] } } := by
  have howed : (s.oweDawn x).unlatched.ring.owed = [dawnReply x] := congrArg (· ++ [dawnReply x]) ho
  rw [State.answerDawn_eq, h]
  exact State.nextReply_owed hw howed

/-! ### D9 -/

/-- The state at DAWN_DONE, before the latched DAWN packets are answered (R383). -/
def State.atDawnDone (s : State) : State :=
  { s.logStep 9 ⟨s.marked 9, 1, 0, 1⟩ with
    queues := s.queues.map fun x => { x with window := [], newest := none, fenceTag := none }
    ring := { s.ring with head := 0, tail := 0, serial := 0, phase := true, issued := false }
    star := { s.star with head := 0, tail := 0 }
    pair := s.pair.dawned
    pow := { s.pow with state := .run, dawnDone := true }
    dawn := { (s.logStep 9 ⟨s.marked 9, 1, 0, 1⟩).dawn with failed := false, lastExit := 1 } }

theorem State.atDawnDone_queue (s : State) (q : BitVec 2) :
    s.atDawnDone.queue q = { s.queue q with window := [], newest := none, fenceTag := none } := Quad.get_map _ _ _

theorem dawnReady_eq (s : State) : s.dawnReady =
    if s.atDawnDone.answerDawn.pow.sleepLatched || !s.atDawnDone.answerDawn.pow.en then s.atDawnDone.answerDawn.startDusk
    else s.atDawnDone.answerDawn := rfl

theorem State.answerDawn_pow (s : State) : s.answerDawn.pow = { s.pow with latchedDawn := [] } := by
  obtain ⟨q, w, o, x, e⟩ := s.answerDawn_changes
  rw [e]

theorem dawnReady_runs {s : State} (he : s.pow.en = true) (hl : s.pow.sleepLatched = false) : s.dawnReady = s.atDawnDone.answerDawn := by
  rw [dawnReady_eq, State.answerDawn_pow]
  exact if_neg (by simp [State.atDawnDone, he, hl])

theorem dawnReady_sleeps {s : State} (h : s.pow.en = false ∨ s.pow.sleepLatched = true) :
    s.dawnReady = s.atDawnDone.answerDawn.startDusk := by
  rw [dawnReady_eq, State.answerDawn_pow]
  exact if_pos (by rcases h with h | h <;> simp [State.atDawnDone, h])

/-- What holds once Dawn has completed, also when Dusk begins at once. -/
structure State.DawnDone (s t : State) : Prop where
  mode : t.pair.mode = if s.pair.partner = .failed then .solo else .split
  stealing : t.pair.stealing = false
  token : t.pair.token = false
  partnerFailed : t.pair.partnerFailed = decide (s.pair.partner = .failed)
  star : t.star = { s.star with head := 0, tail := 0 }
  head : t.ring.head = 0
  tail : t.ring.tail = 0
  serial : t.ring.serial = 0
  phase : t.ring.phase = true
  issued : t.ring.issued = false
  latchedDawn : t.pow.latchedDawn = []
  arch : t.arch = s.arch
  num : t.num = s.num
  cnt : t.cnt = s.cnt
  trap : t.trap = s.trap
  err : t.err = s.err
  clk : t.clk = s.clk
  failed : t.dawn.failed = false
  lastExit : t.dawn.lastExit = 1

theorem State.atDawnDone_done (s : State) : s.DawnDone s.atDawnDone.answerDawn := by
  obtain ⟨q, w, o, x, e⟩ := s.atDawnDone.answerDawn_changes
  rw [e]
  constructor <;> rfl

theorem State.DawnDone.dusk {s t u : State} (h : s.DawnDone t) (d : t.DuskEntered u) : s.DawnDone u where
  mode := (congrArg Pair.mode d.steady :).trans h.mode
  stealing := (congrArg Pair.stealing d.steady :).trans h.stealing
  token := d.token (.inr h.token)
  partnerFailed := (congrArg Pair.partnerFailed d.steady :).trans h.partnerFailed
  star := d.star.trans h.star
  head := (congrArg ReplyRing.head d.ring).trans h.head
  tail := (congrArg ReplyRing.tail d.ring).trans h.tail
  serial := (congrArg ReplyRing.serial d.ring).trans h.serial
  phase := (congrArg ReplyRing.phase d.ring).trans h.phase
  issued := (congrArg ReplyRing.issued d.ring).trans h.issued
  latchedDawn := d.latchedDawn.trans h.latchedDawn
  arch := d.arch.trans h.arch
  num := d.num.trans h.num
  cnt := d.cnt.trans h.cnt
  trap := d.trap.trans h.trap
  err := d.err.trans h.err
  clk := d.clk.trans h.clk
  failed := (congrArg DawnLog.failed d.dawn).trans h.failed
  lastExit := (congrArg DawnLog.lastExit d.dawn).trans h.lastExit

theorem dawnReady_done (s : State) : s.DawnDone s.dawnReady := by
  rw [dawnReady_eq]
  split
  · exact s.atDawnDone_done.dusk (State.startDusk_entered _)
  · exact s.atDawnDone_done

/-- Settles O35: D9 is DAWN_DONE, the answers to the latched DAWN packets, and then a Dusk that a sleep has asked for. -/
theorem dawnCompletes : Obligations.DawnCompletes := by
  intro o s hs hd hf h9
  have row : exec (.dawnSequence o) s = .next s.dawnReady := (functional_live hs _).trans (congrArg _ (dawnStep_nine hd hf o h9))
  have h := dawnReady_done s
  refine ⟨_, row, h.mode, h.stealing, h.token, h.partnerFailed, h.star, h.head, h.tail, h.serial, h.phase, h.issued, h.latchedDawn, h.arch,
    h.num, h.cnt, h.trap, h.err, h.clk, h.failed, h.lastExit, fun he hl => ?runs, fun hn => ?sleeps⟩
  case runs =>
    rw [dawnReady_runs he hl]
    refine ⟨State.answerDawn_pow _, fun hn q => ?queue, fun hn ho hr => ?noReply, fun q ws hq ho hw => ?oneReply⟩
    case queue =>
      rw [State.answerDawn_none (s := s.atDawnDone) hn]
      exact (State.nextReply_queue _ q).trans (s.atDawnDone_queue q)
    case noReply =>
      rw [State.answerDawn_none (s := s.atDawnDone) hn, State.nextReply_none (s := s.atDawnDone.unlatched) ho hr]
      exact ⟨rfl, rfl⟩
    case oneReply =>
      rw [State.answerDawn_one (s := s.atDawnDone) hq ho hw]
      refine ⟨rfl, rfl, rfl, (State.setQueue_self s.atDawnDone q _).trans ?_⟩
      rw [State.atDawnDone_queue]
      rfl
  case sleeps =>
    rw [dawnReady_sleeps hn]
    have d := s.atDawnDone.answerDawn.startDusk_entered
    exact ⟨d.state, d.dawnDone, d.sleepLatched, d.duskStep⟩

end Sys2Proof.Machine

/-! The steps of Dusk (16 R388, 12 R291): what each waits for, the Starlog record, the DUSK command's reply, and OFF or the next Dawn. -/

namespace Sys2Proof.Machine

open Sys2Proof

/-- Dusk goes on to a step. -/
def State.atDuskStep (s : State) (k : BitVec 3) : State := { s with pow := { s.pow with duskStep := k } }

/-- The DUSK command's reply is given, and Dusk goes on to its last step. -/
def State.duskReplied (s : State) : State := { s with pow := { s.pow with duskCommand := none, duskStep := 3 } }

theorem duskStep_idle {s : State} (h : s.pow.state ≠ .dusk) : duskStep s = s := if_pos (bne_iff_ne.mpr h)

section Steps

variable {s : State} (hd : s.pow.state = .dusk)

include hd

theorem duskStep_zero (h : s.pow.duskStep = 0) :
    duskStep s = if s.run.any (·.final.isNone) || s.headsUnread then s else s.releaseToken.atDuskStep 1 := by
  refine (if_neg (by simp [hd])).trans ?_
  rw [h]
  rfl

theorem duskStep_one (h : s.pow.duskStep = 1) :
    duskStep s = if s.duskStarlog.star.waiting.isSome then s.duskStarlog else s.duskStarlog.atDuskStep 2 := by
  refine (if_neg (by simp [hd])).trans ?_
  rw [h]
  rfl

theorem duskStep_two (h : s.pow.duskStep = 2) : duskStep s = if !s.quiet then s else match s.pow.duskCommand with
    | some (q, ws) => (s.duskReplied.tell (packetReply q (nats ws) { status := 0 })).push (packetReply q (nats ws) { status := 0 })
    | none => s.atDuskStep 3 := by
  refine (if_neg (by simp [hd])).trans ?_
  rw [h]
  rfl

theorem duskStep_three (h : s.pow.duskStep = 3) : duskStep s = if s.quiet then s.turnOff else s := by
  refine (if_neg (by simp [hd])).trans ?_
  rw [h]
  rfl

end Steps

/-! ### Starlog in Dusk -/

theorem State.duskStarlog_none {s : State} (h : s.star.waiting = none) : s.duskStarlog = s := if_pos (by simp [h])

theorem State.duskStarlog_drops {s : State} (h : s.star.waiting ≠ none) (hf : s.pow.fence = true ∨ s.star.full = true) :
    s.duskStarlog = s.dropStarlog :=
  (if_neg (by simpa using h)).trans (if_pos (by simpa using hf))

/-! ### OFF -/

/-- The clocks stop: what was fetched is discarded (R388). -/
def State.off (s : State) : State :=
  { allQ.foldl State.discardFetch s with pow := { s.pow with state := .off, duskStep := 0 } }

theorem State.off_frame {γ : Type} (p : State → γ) (hd : ∀ s q, p (State.discardFetch s q) = p s)
    (hp : ∀ (s : State) x, p { s with pow := x } = p s) (s : State) : p s.off = p s := (hp _ _).trans (foldl_frame p _ hd _ _)

theorem State.turnOff_eq (s : State) : s.turnOff = if s.pow.wakeLatched then s.off.startDawn else s.off := rfl

/-- Settles O36: each step of Dusk waits or goes on by its own condition. -/
theorem duskSteps : Obligations.DuskSteps := by
  intro s hs
  have row : exec .duskSequence s = .next (duskStep s) := functional_live hs _
  refine ⟨fun h => row.trans (congrArg _ (duskStep_idle h)), fun hd => ?_⟩
  have at0 (h : s.pow.duskStep = 0) := row.trans (congrArg _ (duskStep_zero hd h))
  have at1 (h : s.pow.duskStep = 1) := row.trans (congrArg _ (duskStep_one hd h))
  have at2 (h : s.pow.duskStep = 2) := row.trans (congrArg _ (duskStep_two hd h))
  have at3 (h : s.pow.duskStep = 3) := row.trans (congrArg _ (duskStep_three hd h))
  refine ⟨fun r h hr hf => (at0 h).trans (congrArg _ (if_pos (by simp [hr, hf]))),
    fun h hu => (at0 h).trans (congrArg _ (if_pos (by simp [hu]))),
    fun h hr hu => ⟨_, (at0 h).trans (congrArg _ (if_neg (by simp [hr, hu]))), rfl, s.releaseToken_pair.1, rfl, rfl⟩,
    fun h hw => (at1 h).trans (congrArg _ ?noRecord), fun h hw hf => (at1 h).trans (congrArg _ ?drops),
    fun h hq => (at2 h).trans (congrArg _ (if_pos (by simp [hq]))), fun h hq hc => (at2 h).trans (congrArg _ ?noCommand),
    fun q ws h hq hc hm => (at2 h).trans (congrArg _ ?reply), fun h hq hw => ?off, fun h hq hw => ?wakes⟩
  case noRecord =>
    rw [State.duskStarlog_none hw]
    exact if_neg (by simp [hw])
  case drops =>
    rw [State.duskStarlog_drops hw hf, State.dropStarlog_eq]
    rfl
  case noCommand =>
    refine (if_neg (by simp [hq])).trans ?_
    rw [hc]
    rfl
  case reply =>
    refine (if_neg (by simp [hq])).trans ?_
    rw [hc]
    exact congrArg (State.push · _) (if_neg (by simp [State.leads_of_not_lockstep (s := s.duskReplied) hm]))
  all_goals
    have harch := State.off_frame (·.arch) State.discardFetch_arch (fun _ _ => rfl) s
    have hnum := State.off_frame (·.num) State.discardFetch_num (fun _ _ => rfl) s
    have hcnt := State.off_frame (·.cnt) State.discardFetch_cnt (fun _ _ => rfl) s
  case off =>
    refine ⟨s.off, (at3 h).trans (congrArg _ ?_), rfl, harch, hnum, hcnt, State.off_frame (·.dawn) State.discardFetch_dawn (fun _ _ => rfl) s⟩
    exact (if_pos hq).trans (s.turnOff_eq.trans (if_neg (by simp [hw])))
  case wakes =>
    refine ⟨s.off.startDawn, (at3 h).trans (congrArg _ ?_), rfl, rfl, rfl, harch, hnum, hcnt⟩
    exact (if_pos hq).trans (s.turnOff_eq.trans (if_pos hw))

end Sys2Proof.Machine

/-! The straps and the wrapper (17 R412, R413): which rows write them, and which rows answer once functional behaviour is undefined. -/

namespace Sys2Proof.Machine

open Sys2Proof

/-! ### What the rows leave -/

theorem coldReset_straps (s : State) (p : StrapPins) : (coldReset s p).straps = p := (kept_released _).straps

theorem coldReset_wrap (s : State) (p : StrapPins) : (coldReset s p).wrap = { wir := s.wrap.wir } := (kept_released _).wrap

/-- A row of the wrapper changes nothing beside it, and every row but the cold reset keeps the straps. -/
theorem exec_straps {c : Instr} {s t : State} (hc : c.isCold = false) (e : exec c s = .next t) : t.straps = s.straps := by
  cases hw : c.isWrapper with
  | true =>
    obtain ⟨w, rfl⟩ := exec_wrapper hw e
    rfl
  | false => exact (exec_keepsNext c s hw hc t e).straps

theorem Instr.isCold_eq_false {c : Instr} (h : ∀ p, c ≠ .poreset p) : c.isCold = false := by
  cases c with
  | poreset p => exact absurd rfl (h p)
  | _ => rfl

/-- Settles O6: an idle step changes nothing, and a step runs its front command, which is no cold reset. -/
theorem strapsChangeOnlyAtColdReset : Obligations.StrapsChangeOnlyAtColdReset := by
  refine ⟨fun s p => ⟨_, rfl, coldReset_straps s p⟩, fun s t hp e => ?_⟩
  cases h : s.pending with
  | nil =>
    rw [step_nil h] at e
    cases e
    rfl
  | cons c rest =>
    rw [step_cons h] at e
    have hc : c.isCold = false := Instr.isCold_eq_false fun p hcp => hp p rest (hcp ▸ h)
    exact exec_straps (s := { s with pending := rest }) hc e

/-- Settles O5: what every functional row keeps holds the wrapper. -/
theorem functionalRowsLeaveWrapper : Obligations.FunctionalRowsLeaveWrapper :=
  fun c s t hw hc e => (exec_keepsNext c s hw hc t e).wrap

/-! ### The wrapper's rows -/

theorem State.updateWir_bypass (s : State) : s.updateWir 0x00 = { s with wrap := { s.wrap with wir := 0x00 } } := by
  simp [State.updateWir]

/-- An instruction other than WS_BYPASS leaves functional behaviour undefined. -/
theorem State.updateWir_of_ne {code : BitVec 8} (h : (code != 0) = true) (s : State) :
    s.updateWir code = { s with wrap := { s.wrap with wir := code, undefinedUntilCold := true } } := by
  simp only [State.updateWir, h, Bool.or_true]

theorem mbistWord_eq (fail : Bool) (memory : BitVec 6) (addr : BitVec 56) : mbistWord fail memory addr =
    BitVec.ofNat 64 (2 ^ 63 + (if fail then 2 ^ 62 else 0) + memory.toNat * 2 ^ 56 + addr.toNat) := by
  simp only [mbistWord, Nat.shiftLeft_eq, one_mul]

theorem coldReset_live (s : State) (p : StrapPins) : (coldReset s p).Live := congrArg Wrapper.undefinedUntilCold (coldReset_wrap s p)

/-- Settles O4: each row puts its own instruction into the register; a march test that runs ends with its result, and a cold reset makes the
block live. -/
theorem wrapperRows : Obligations.WrapperRows := by
  have selects {code : BitVec 8} (h : (code != 0) = true) (s : State) :=
    congrArg (Host.Outcome.next (φ := Fault) (ρ := Refusal)) (s.updateWir_of_ne h)
  refine ⟨fun s => congrArg _ s.updateWir_bypass, fun s => congrArg _ s.updateWir_bypass, selects (by decide), selects (by decide),
    fun s => ?runs, selects (by decide), fun s fail memory addr h => ?done, fun s fail memory addr h => ?idle,
    fun s p => ⟨_, rfl, coldReset_live s p⟩⟩
  case runs =>
    show execMbistRun s = _
    rw [execMbistRun, State.updateWir_of_ne (by decide)]
  case done =>
    rw [← mbistWord_eq]
    exact congrArg _ (if_pos h)
  case idle => exact congrArg _ (if_neg (by simp [h]))

/-! ### Rows that answer -/

/-- A row that is neither the wrapper's, the cold reset nor the register port's has a meaning in the functional state only. -/
theorem exec_functional {c : Instr} (hw : c.isWrapper = false) (hc : c.isCold = false) (hp : c.isRegPort = false) (s : State) :
    ∃ t, exec c s = functional s t := by
  cases c with
  | wrapperReset | wsBypass | wsExtest | wsIntest | mbistRun | mbistResult | mbistDone => cases hw
  | poreset => cases hc
  | doorbell | replyTailWrite | queueEnableWrite | numCfgWrite | trapRecordClear | errStatusClear | eccLogClear | eccCeLogRead
  | errRecordClear | pairDivergeClear | pairStatusClear | ctxLogRead | counterRead | counterClear | clearAll | dbgSelWrite | rotate
  | forget | registerWrite => cases hp
  | _ => exact ⟨_, rfl⟩

/-- The others answer in every state. -/
theorem exec_answers {c : Instr} (h : c.isWrapper = true ∨ c.isCold = true ∨ c.isRegPort = true) (s : State) : ∃ t, exec c s = .next t := by
  cases c with
  | wrapperReset | wsBypass | wsExtest | wsIntest | mbistRun | mbistResult | mbistDone | poreset
  | doorbell | replyTailWrite | queueEnableWrite | numCfgWrite | trapRecordClear | errStatusClear | eccLogClear | eccCeLogRead
  | errRecordClear | pairDivergeClear | pairStatusClear | ctxLogRead | counterRead | counterClear | clearAll | dbgSelWrite | rotate
  | forget | registerWrite => exact ⟨_, rfl⟩
  | _ => rcases h with h | h | h <;> cases h

theorem functional_undefined {s : State} (h : ¬s.Live) (t : State) : functional s t = .fault .functionalUndefined :=
  if_pos (by simpa [State.Live] using h)

theorem portRead_undefined {s : State} {a : BitVec 16} (h : ¬s.Live) (ha : a.toNat % 4 = 0) :
    portRead s a = undefinedAccess s a.toNat true :=
  (if_neg (not_not.mpr ha)).trans (if_pos (by simpa [State.Live] using h))

theorem portWrite_undefined {s : State} {a : BitVec 16} (h : ¬s.Live) (ha : a.toNat % 4 = 0) (v : Word) :
    portWrite s a v = s.drive (.reg 0 false) :=
  (if_neg (not_not.mpr ha)).trans (if_pos (by simpa [State.Live] using h))

/-- A write that functional behaviour no longer takes stops no queue. -/
theorem regPort_undefined {s : State} {a : BitVec 16} (h : ¬s.Live) (ha : a.toNat % 4 = 0) (v : Word) :
    s.regPort a v = s.drive (.reg 0 false) := by
  rw [State.regPort, portWrite_undefined h ha]
  exact State.dropStopped_of_enable fun _ he => he

theorem undefinedAccess_read (s : State) (a : Nat) : undefinedAccess s a true =
    if 0x3000 ≤ a ∧ a ≤ 0x3034 then s.drive (.reg (regRead s a) false) else s.drawFree.drive (.reg (Config.freeRegister s.freeIx) false) := by
  simp [undefinedAccess, dawnLogAddr]

/-- Settles O3: a functional row answers or faults by the wrapper alone, and the port's two accesses are those of the undefined state. -/
theorem functionalRowsAnswerWhileLive : Obligations.FunctionalRowsAnswerWhileLive := by
  refine ⟨fun c s => ⟨fun h => ?answers, fun hs hw hc hp => ?faults⟩, fun s a v hs ha => ⟨?write, ?read⟩⟩
  case answers =>
    by_cases others : c.isWrapper = true ∨ c.isCold = true ∨ c.isRegPort = true
    · exact exec_answers others s
    · have hs : s.Live := h.resolve_right others
      simp only [not_or, Bool.not_eq_true] at others
      obtain ⟨hw, hc, hp⟩ := others
      obtain ⟨t, ht⟩ := exec_functional hw hc hp s
      exact ⟨t, ht.trans (functional_live hs t)⟩
  case faults =>
    obtain ⟨t, ht⟩ := exec_functional hw hc hp s
    exact ht.trans (functional_undefined hs t)
  case write => exact congrArg _ (regPort_undefined hs ha v)
  case read => exact congrArg _ ((portRead_undefined hs ha).trans (undefinedAccess_read s _))

end Sys2Proof.Machine

/-! What comes back on the memory and translation ports (17 R395, R402, R403, 12 R444): strays, translations kept, and faults. -/

namespace Sys2Proof.Machine

open Sys2Proof

theorem exec_atpResponse_live {s : State} (h : s.Live) (id : BitVec 6) (pa : BitVec 40) (sz : BitVec 2) (f : Bool) :
    exec (.atpResponse id pa sz f) s = .next (atpAnswer s id pa sz f) :=
  functional_live h _

/-! ### Strays -/

theorem readBeat_stray {s : State} {tag : BitVec 7} (h : ∀ r ∈ s.port.reads, r.tag ≠ tag) (idx : BitVec 16) (l : RdLine) :
    readBeat s tag idx l = s.stray := by
  have none : s.port.reads.find? (fun r => r.tag = tag) = none := by simpa using h
  simp only [readBeat, none]

theorem writeAnswer_stray {s : State} {tag : BitVec 6} (h : ∀ w ∈ s.port.writes, w.tag ≠ tag) : writeAnswer s tag = s.stray :=
  if_neg (by simpa using h)

theorem atpAnswer_stray {s : State} {id : BitVec 6} (h : ∀ a ∈ s.port.atps, a.id ≠ id) (pa : BitVec 40) (sz : BitVec 2) (f : Bool) :
    atpAnswer s id pa sz f = s.stray := by
  have none : s.port.atps.find? (fun a => a.id = id) = none := by simpa using h
  simp only [atpAnswer, none]

/-- Settles O37: with no transfer of the tag or identifier outstanding, each row counts a stray. -/
theorem strayTransfers : Obligations.StrayTransfers :=
  fun _ hs => ⟨fun _ _ _ _ _ _ h => (functional_live hs _).trans (congrArg _ (readBeat_stray h _ _)),
    fun _ h => (functional_live hs _).trans (congrArg _ (writeAnswer_stray h)),
    fun _ _ _ _ h => (functional_live hs _).trans (congrArg _ (atpAnswer_stray h _ _ _))⟩

/-! ### Translations -/

/-- The request of identifier `id` is answered, and outstanding no more. -/
def State.atpTaken (s : State) (id : BitVec 6) : State :=
  { s with port := { s.port with atps := s.port.atps.filter (fun x => x.id != id) } }

/-- The pages of a region, by the size that a response says (17 R402). -/
theorem pagesOf_eq (sz : BitVec 2) : pagesOf sz = if sz = 0 then 1 else if sz = 1 then 16 else if sz = 2 then 512 else 262144 := by
  revert sz
  decide

/-- At 64 the oldest leaves (17 R403). -/
theorem Port.keepXlat_eq (p : Port) (page pa size : Nat) (w : Bool) {n : Nat} {x : Xlat} (hn : n = pagesOf (BitVec.ofNat 2 size))
    (hx : x = ⟨page / n * n, n, pa / n * n, w⟩) : p.keepXlat page pa size w =
    { p with xlats := if p.xlats.length < 64 then p.xlats ++ [x] else p.xlats.drop 1 ++ [x] } := by
  subst hx hn
  simp only [Port.keepXlat, List.length_append, List.length_singleton]
  split
  case isTrue h => rw [if_neg (by omega), List.drop_append_of_le_length (by omega)]
  case isFalse h => rw [if_pos (by omega)]

section Answered

variable {s : State} {id : BitVec 6} {a : AtpReq} (h : s.port.atps.find? (fun a => a.id = id) = some a) (pa : BitVec 40) (sz : BitVec 2)

include h

theorem atpAnswer_keeps (ho : a.owner ≠ 15) : atpAnswer s id pa sz false =
    { s.atpTaken id with port := (s.atpTaken id).port.keepXlat a.page pa.toNat sz.toNat (a.kind = 1) } := by
  simp only [atpAnswer, h]
  exact if_neg ho

theorem atpAnswer_faults : atpAnswer s id pa sz true = (s.atpTaken id).xlatFaulted a := by
  simp only [atpAnswer, h]
  rfl

theorem atpAnswer_dropped (ho : a.owner = 15) (f : Bool) : atpAnswer s id pa sz f = s.atpTaken id := by
  cases f with
  | true => exact (atpAnswer_faults h pa sz).trans (if_pos ho)
  | false =>
    simp only [atpAnswer, h]
    exact if_pos ho

end Answered

/-- A translation fault waits for the command or the fetch that it belongs to. -/
theorem State.xlatFaulted_waits (s : State) {a : AtpReq} (h : a.owner < 5 ∨ a.owner = 7) : s.xlatFaulted a =
    { s with port := { s.port with faults := s.port.faults ++ [⟨a.owner, a.va, a.kind, a.pos⟩] } } := by
  have hd : a.owner ≠ 15 := by omega
  have hr : a.owner ≠ 5 := by omega
  have hs : a.owner ≠ 6 := by omega
  exact (if_neg hd).trans ((if_neg hr).trans (if_neg hs))

theorem State.xlatFaulted_reply (s : State) {a : AtpReq} (h : a.owner = 5) : s.xlatFaulted a = s.replyFault :=
  (if_neg (by simp [h, ownDrop])).trans (if_pos h)

theorem State.xlatFaulted_star (s : State) {a : AtpReq} (h : a.owner = 6) : s.xlatFaulted a = s.dropStarlog :=
  (if_neg (by simp [h, ownDrop])).trans ((if_neg (by simp [h, ownReply])).trans (if_pos h))

/-- A reply's fault disables every queue and discards what it fetched (12 R444). -/
theorem State.replyFault_queue (s : State) (q : BitVec 2) : s.replyFault.queue q = { s.queue q with enable := false, fetch := .idle } := by
  have hq : q ∈ allQ := by rcases queue_cases q with rfl | rfl | rfl | rfl <;> decide
  have fetched := (discardFetch_foldl_queue allQ s q).trans (if_pos hq)
  calc s.replyFault.queue q
      = { (allQ.foldl State.discardFetch s).queue q with enable := false } := Quad.get_map _ _ _
    _ = _ := by rw [fetched]

/-- Settles O39: a response without a fault is kept, unless nobody waits any more; a fault is by whose request it was. -/
theorem translationResponses : Obligations.TranslationResponses := by
  intro id pa sz a s hs ha
  have row (f : Bool) := exec_atpResponse_live hs id pa sz f
  have fault := (row true).trans (congrArg _ (atpAnswer_faults ha pa sz))
  refine ⟨fun n x ho hn hx => ?kept, fun ho => ?waits, fun f ho => ?dropped, fun ho => ?reply, fun ho => ?star⟩
  case kept =>
    refine (row false).trans (congrArg _ ((atpAnswer_keeps ha pa sz ho).trans ?_))
    rw [Port.keepXlat_eq _ _ _ _ _ (by simpa [pagesOf_eq] using hn) hx]
    rfl
  case waits => exact fault.trans (congrArg _ (State.xlatFaulted_waits _ ho))
  case dropped => exact (row f).trans (congrArg _ (atpAnswer_dropped ha pa sz ho f))
  case reply =>
    have frame {γ : Type} (p : State → γ) (h : ∀ s q, p (State.discardFetch s q) = p s) := foldl_frame p _ h allQ (s.atpTaken id)
    refine ⟨_, fault.trans (congrArg _ (State.xlatFaulted_reply _ ho)), ?_, ?_, ?_, State.replyFault_queue _,
      frame (·.run) State.discardFetch_run, frame (·.arch) State.discardFetch_arch⟩
    · exact congrArg (Counters.raise · 22 1) (frame (·.cnt) State.discardFetch_cnt)
    · exact congrArg (fun e : ErrRegs => { e with status := e.status ||| 0x1000 }) (frame (·.err) State.discardFetch_err)
    · exact congrArg (fun g : ReplyRing => { g with faulted := true }) (frame (·.ring) State.discardFetch_ring)
  case star => exact fault.trans (congrArg _ ((State.xlatFaulted_star _ ho).trans (State.dropStarlog_eq _)))

end Sys2Proof.Machine

/-! Drained beats of a PRODUCT_RUN (08 R202-R205, 17 R405): who takes them, what a protocol error ends, and how a sub-tile is spilled. -/

namespace Sys2Proof.Machine

open Sys2Proof

/-! ### A command that ends with a segment open -/

theorem State.recallBands_prod (s : State) (r : Running) : (s.recallBands r).2.prod = r.prod := by
  unfold State.recallBands
  split <;> rfl

theorem State.leave_abandons (s : State) {r : Running} (hm : r.mirror = false) (ho : r.prod.segOpen = true) :
    (s.leave r).wires = .ctl (ctlWord 4 0 false false false false 0 0 r.prod.kseg 0) :: s.wires := by
  have left : (s.leave r).wires = (s.abandonSegment r).wires := by
    unfold State.leave
    simp only [State.dropXlats_wires, State.dropOutbox_wires, State.dropReads_wires, State.releaseToken_wires]
  rw [left, State.abandonSegment, if_pos (by simp [hm, ho]), State.drive_wires]

/-- Outside LOCKSTEP the last thing that such a command drives is ABANDON: its partner is told nothing of its reply. -/
theorem State.endRun_abandons {s : State} {r : Running} (hm : r.mirror = false) (hs : r.stolen = none) (ho : r.prod.segOpen = true)
    (hl : s.pair.mode ≠ .lockstep) (x : Say) (ks : List Nat) :
    ∃ ws, (s.endRun r x ks).wires = .ctl (ctlWord 4 0 false false false false 0 0 r.prod.kseg 0) :: ws := by
  let u := ks.foldl (fun s k => s.count k) ((s.recallBands r).1.leave (s.recallBands r).2)
  have hmode : u.pair.mode = s.pair.mode := (foldl_frame (·.pair.mode) State.count (fun _ _ => rfl) _ _).trans
    ((State.leave_mode _ _).trans (State.recallBands_mode s r))
  have hlead : u.leads = false := State.leads_of_not_lockstep (hmode ▸ hl)
  have hwires : u.wires = .ctl (ctlWord 4 0 false false false false 0 0 r.prod.kseg 0) :: (s.recallBands r).1.wires := by
    refine (foldl_frame (·.wires) State.count State.count_wires _ _).trans ?_
    rw [State.leave_abandons _ ((State.recallBands_mirror s r).trans hm) (by rwa [State.recallBands_prod]), State.recallBands_prod]
  refine ⟨_, Eq.trans ?_ hwires⟩
  have quiet (y : Reply) : (if (s.recallBands r).2.mirror then u else if mirrorsOp (s.recallBands r).2.op then u.tellEnd y else u.tell y) = u := by
    simp [State.tellEnd, State.tell, hlead]
  unfold State.endRun
  rw [if_neg (by simp [hs])]
  exact (State.giveFinal_wires _ _ _).trans (congrArg State.wires (quiet _))

/-- A protocol error ends the command, with ABANDON whether a segment is open or not (R203). -/
theorem State.protocolError_ends {s : State} {r : Running} (hr : s.Runs r 0x04) (hl : s.pair.mode ≠ .lockstep) :
    ∃ ws, (s.protocolError r).err = { s.err with status := s.err.status ||| 0x80 } ∧
      (s.protocolError r).wires = .ctl (ctlWord 4 0 false false false false 0 0 r.prod.kseg 0) :: ws ∧
      s.EndedWith { r with prod := { r.prod with segOpen := true } } { s.protocolError r with err := s.err } { status := 0x33 } [43] := by
  let opened : Running := { r with prod := { r.prod with segOpen := true } }
  have ended := State.endRun_ended s opened { status := 0x33 } [cMXAPROT] hr.whole
  obtain ⟨ws, hw⟩ := State.endRun_abandons (r := opened) hr.own hr.whole rfl hl { status := 0x33 } [cMXAPROT]
  have e : s.protocolError r = (s.endRun opened { status := 0x33 } [cMXAPROT]).raiseErr 7 := if_neg (by simp [hr.whole])
  have clear : { s.protocolError r with err := s.err } = s.endRun opened { status := 0x33 } [cMXAPROT] := by
    rw [e, ← ended.err]
    rfl
  refine ⟨ws, ?_, (congrArg State.wires e).trans hw, clear ▸ ended⟩
  rw [e, ← ended.err]
  rfl

/-! ### Who takes a beat -/

theorem drainStep_unheld {s : State} (h : s.run = none ∨ s.pair.token = false) (hdr : BitVec 64) (data : BitVec 4096) (m : Mishap) :
    drainStep s hdr data m = s := by
  cases hr : s.run with
  | none => simp [drainStep, hr]
  | some r =>
    have ht : s.pair.token = false := h.resolve_left (by simp [hr])
    simp [drainStep, hr, ht]

section Holder

variable {s : State} {r : Running} (hr : s.Runs r 0x04) (ht : s.pair.token = true) (hl : s.pair.mode ≠ .lockstep)

include hr ht hl

/-- A PRODUCT_RUN of the token's holder takes the beat, by whether it awaits a drain. -/
theorem drainStep_product (hdr : BitVec 64) (data : BitVec 4096) : drainStep s hdr data .none =
    if r.stage = .draining then productDrain s r (drnHdr hdr) data .none else s.protocolError r := by
  have hop : r.op = oPRODUCT := hr.op
  have hlead := State.leads_of_not_lockstep hl
  simp only [drainStep, hr.run, ht, hr.own, hop, State.forwardDrain, hlead, drainBeat]
  rfl

/-- What is not of the drain awaited is a protocol error. -/
theorem drainStep_refuses {hdr : BitVec 64}
    (h : r.stage ≠ .draining ∨ ((r.prodSeg (geomOf s.straps.mxaGeom)).drain r).accept r.prod.seen (drnHdr hdr) = none) (data : BitVec 4096) :
    drainStep s hdr data .none = s.protocolError r := by
  rw [drainStep_product hr ht hl]
  split
  case isFalse => rfl
  case isTrue hst =>
    have ha := h.resolve_left (not_not.mpr hst)
    simp only [productDrain, ha]

end Holder

/-! ### Landing and spilling -/

/-- The command `r` after a commit of what was pending (03 R438). -/
def Running.settled (r : Running) : Running := { r with nanSeen := r.nanSeen || r.pend.nan.isSome, pend := {} }

theorem State.settle_commits (s : State) {r : Running} (ho : r.op ≠ oLINK) (hs : r.stolen = none) :
    s.settle r = (s.commitPend r r.pend, r.settled) :=
  (if_neg (by simp [ho])).trans (if_neg (by simp [hs]))

/-- The command `r` as sub-tile `t` leaves the landing registers (08 R205). -/
def Running.spilling (r : Running) (t : Nat) : Running :=
  { r with prod := { r.prod.clearTile t with landings := r.prod.landings + 1 } }

/-- The storages with the sub-tile `bs` of `r` in its landing register. -/
def Seg.landed (g : Seg) (a : Arch) (r : Running) (bs : List DrnBeat) : Arch :=
  landTile a (g.landing r + r.prod.landings % 2) r.producer (if r.isIntClass then 15 else 0) bs

/-- A sub-tile without an overflow is spilled in its block's first segment, whatever its wide tile holds. -/
theorem Seg.spill_spills {g : Seg} {bs : List DrnBeat} (hk : g.kseg = 0) (hb : ∀ b ∈ bs, b.ovf = false) (s : State) (r : Running) (t wide : Nat) :
    g.spill s r t wide bs .none =
      let z := State.spillTo { s with arch := g.landed s.arch r bs } (r.spilling t) .none t fun r a => spillTile g r a t wide bs
      (z.1, some z.2) := by
  have hany : bs.any (·.ovf) = false := by simpa using hb
  have hfatal : fatal (ofUnits .none 1) = false := rfl
  have hseg : (g.kseg != 0) = false := by simp [hk]
  simp only [Seg.spill, hany, hseg, hfatal, Bool.and_false, Bool.false_and, Bool.false_eq_true, if_false]
  rfl

/-- The command that a spill leaves: the sub-tile is resolved, and its own events are committed. -/
def Running.spilled (r : Running) (t : Nat) (p : Pend) (nans : Sparse Nat) : Running :=
  Running.settled { r.settled with pend := p, prod := { r.prod with drainNan := nans, resolved := r.prod.resolved ||| 1 <<< t } }

/-- A spill commits what the staging counted, and then the events of the sub-tile itself. -/
theorem State.spillTo_commits (s : State) {r : Running} (ho : r.op ≠ oLINK) (hs : r.stolen = none) (t : Nat)
    (f : Running → Arch → Arch × Pend × Sparse Nat) :
    ∃ trap, s.spillTo r .none t f = ({ s with
      arch := (f r.settled s.arch).1, cnt := (s.cnt.raiseAll r.pend.counts).raiseAll (f r.settled s.arch).2.1.counts, trap := trap },
      r.spilled t (f r.settled s.arch).2.1 (f r.settled s.arch).2.2) := by
  have staged := (State.settle_commits s ho hs).trans (congrArg (·, r.settled) (State.commitPend_eq s r r.pend))
  simp only [State.spillTo, staged]
  exact ⟨_, (State.settle_commits _ (by exact ho) (by exact hs)).trans (congrArg (·, _) (State.commitPend_eq _ _ _))⟩

/-- What a spilled sub-tile leaves: its rows in the wide tile, the counts of its staging, and its own. -/
theorem Seg.spill_resolves {g : Seg} {bs : List DrnBeat} (hk : g.kseg = 0) (hb : ∀ b ∈ bs, b.ovf = false) (s : State) {r : Running}
    (ho : r.op ≠ oLINK) (hs : r.stolen = none) (t wide : Nat) :
    ∃ trap, ∀ x, x = spillTile g (r.spilling t).settled (g.landed s.arch r bs) t wide bs → g.spill s r t wide bs .none =
      ({ s with arch := x.1, cnt := (s.cnt.raiseAll r.pend.counts).raiseAll x.2.1.counts, trap := trap },
        some ((r.spilling t).spilled t x.2.1 x.2.2)) := by
  obtain ⟨trap, e⟩ := State.spillTo_commits { s with arch := g.landed s.arch r bs } (r := r.spilling t) ho hs t
    fun r a => spillTile g r a t wide bs
  refine ⟨trap, ?_⟩
  rintro _ rfl
  rw [Seg.spill_spills hk hb]
  dsimp only
  rw [e]
  rfl

theorem bit_or_shiftLeft_self (n k : Nat) : bit (n ||| 1 <<< k) k = true := by
  simp [bit, Nat.testBit_or]

section Awaited

variable {s : State} {r : Running} {h : DrnHdr} {k : Nat}
  (ha : ((r.prodSeg (geomOf s.straps.mxaGeom)).drain r).accept r.prod.seen h = some k) (hr : bit r.prod.resolved k = false)

include ha hr

theorem productDrain_lands {data : BitVec 4096} (hw : (r.prod.land k h data).whole k = none) (m : Mishap) :
    productDrain s r h data m = { s with run := some { r with prod := r.prod.land k h data } } := by
  simp only [productDrain, ha]
  rw [if_neg (by simpa [ProdState.land] using hr)]
  simp only [hw]

/-- The beat that completes a sub-tile spills it; others of the drain are still awaited. -/
theorem productDrain_spills {data : BitVec 4096} {bs : List DrnBeat} {u : State} {r2 : Running}
    (hw : (r.prod.land k h data).whole k = some bs)
    (hs : (r.prodSeg (geomOf s.straps.mxaGeom)).spill s { r with prod := r.prod.land k h data } k k bs .none = (u, some r2))
    (hc : ((r.prodSeg (geomOf s.straps.mxaGeom)).drain r).complete r2.prod.seen = false) :
    productDrain s r h data .none = { u with run := some r2 } := by
  simp only [productDrain, ha]
  rw [if_neg (by simpa [ProdState.land] using hr)]
  simp only [hw, hs]
  exact if_neg (by simp [hc])

end Awaited

/-- Settles O40: a beat goes to the token's holder; one that is not awaited is a protocol error, and one that is lands or spills its sub-tile. -/
theorem drainBeats : Obligations.DrainBeats := by
  intro hdr data s hs
  have row : exec (.mxaDrainBeat hdr data .none) s = .next (drainStep s hdr data .none) := functional_live hs _
  refine ⟨fun h => row.trans (congrArg _ (drainStep_unheld h hdr data .none)), fun r g k hr hg ht hl =>
    ⟨fun h => ?refused, fun hst ha hn => ?awaited⟩⟩
  case refused =>
    subst hg
    obtain ⟨ws, herr, hwires, hended⟩ := State.protocolError_ends hr hl
    exact ⟨_, ws, row.trans (congrArg _ (drainStep_refuses hr ht hl h data)), herr, hwires, hended⟩
  case awaited =>
    subst hg
    have taken := row.trans (congrArg _ ((drainStep_product hr ht hl hdr data).trans (if_pos hst)))
    refine ⟨fun hw => taken.trans (congrArg _ (productDrain_lands ha hn hw .none)), fun bs a r1 hw hb hk hc hr1 hland => ?_⟩
    have ho : r.op ≠ oLINK := by rw [hr.op]; decide
    obtain ⟨trap, spilled⟩ := Seg.spill_resolves (g := r.prodSeg (geomOf s.straps.mxaGeom)) hk hb s
      (r := { r with prod := r.prod.land k (drnHdr hdr) data }) ho hr.whole k k
    have drained := productDrain_spills ha hn hw (spilled _ rfl) hc
    subst hr1 hland
    exact ⟨_, taken.trans (congrArg _ drained), rfl, rfl, rfl, rfl, _, rfl, hst,
      bit_or_shiftLeft_self _ _, rfl⟩

end Sys2Proof.Machine

/-! The pair channel (17 R406, R407, 13 R309, R314, R319, R320): a beat by its kind, a message by its code, and the credits. -/

namespace Sys2Proof.Machine

open Sys2Proof

/-! ### Beats by their kind -/

theorem State.waitsFor_other {s : State} {r : Running} (h : s.run = some r) (ho : r.op ≠ 0x0C) (m : Nat) : s.waitsFor m = none := by
  simp [State.waitsFor, h, oPAIR, ho]

theorem pairBeat_ignored {s : State} (h : s.pow.failed = true ∨ (s.pair.mode = .solo ∧ s.waitsFor 0 = none)) (d : Line) (sb : BitVec 112) :
    pairBeat s d sb = s :=
  if_pos (by rcases h with h | ⟨hm, hw⟩ <;> simp [*])

/-- A staged line as it comes: a thief whose line fails its check abandons its band (15 R350). -/
def State.takeStaged (s : State) (d : Line) (c : Word) (poison : Bool) : State :=
  match s.run with
  | some r => if r.stolen.isSome && !poison && c != rowCheck d then ((s.count cROWCHECK).raiseErr 3).abandonBand r else s
  | none => s

theorem State.takeStaged_passes {s : State} {d : Line} {c : Word} {poison : Bool} (h : poison = true ∨ c = rowCheck d ∨ s.run = none) :
    s.takeStaged d c poison = s := by
  unfold State.takeStaged
  split
  case h_1 r hr => exact if_neg (by rcases h with h | h | h <;> simp_all)
  case h_2 => rfl

theorem State.takeStaged_bad {s : State} {r : Running} {b : Nat} {d : Line} {c : Word} (hr : s.run = some r) (hs : r.stolen = some b)
    (hc : c ≠ rowCheck d) : s.takeStaged d c false = ((s.count cROWCHECK).raiseErr 3).abandonBand r := by
  simp only [State.takeStaged, hr]
  exact if_pos (by simp [hs, hc])

section Kinds

variable {s : State} {sb : BitVec 112} (hf : s.pow.failed = false) (hm : s.pair.mode ≠ .solo) (d : Line)

include hf hm

/-- A beat of a kind that nobody forms is freed. -/
theorem pairBeat_unknown (hk : 6 ≤ (sb.extractLsb' 108 4).toNat) : pairBeat s d sb = s.drive .pairCredit := by
  refine (if_neg (by simp [hf, hm])).trans ?_
  iterate 5 refine (if_neg (by omega)).trans ?_
  exact if_neg (by omega)

/-- Only twin B of LOCKSTEP takes what twin A forwards. -/
theorem pairBeat_unmirrored (hb : s.pair.mode ≠ .lockstep ∨ s.straps.twinSide = false) (hk : (sb.extractLsb' 108 4).toNat < 2) :
    pairBeat s d sb = s.drive .pairCredit := by
  have twin : ¬(decide (s.pair.mode = .lockstep) && !s.isA) = true := by rcases hb with hb | hb <;> simp [State.isA, hb]
  refine (if_neg (by simp [hf, hm])).trans ?_
  by_cases h0 : (sb.extractLsb' 108 4).toNat = 0
  · exact (if_pos h0).trans (if_neg fun h => twin (Bool.and_eq_true_iff.mp h).1)
  · exact (if_neg h0).trans ((if_pos (by omega)).trans (if_neg twin))

theorem pairBeat_line (hl : s.pair.mode = .lockstep) (hb : s.straps.twinSide = true) (hk : (sb.extractLsb' 108 4).toNat = 0) :
    pairBeat s d sb = if (sb.extractLsb' 44 64).toNat < 2 ^ 43 then
      { s.drive .pairCredit with pair := { s.pair with rx := s.pair.rx ++ [(d, sb)] } } else s.drive .pairCredit := by
  have own : (sb.extractLsb' 44 64).toNat >>> 43 = ownCmd ↔ (sb.extractLsb' 44 64).toNat < 2 ^ 43 := by
    rw [Nat.shiftRight_eq_div_pow, ownCmd, Nat.div_eq_zero_iff]
    omega
  have twin : (decide (s.pair.mode = .lockstep) && !s.isA) = true := by simp [State.isA, hl, hb]
  refine (if_neg (by simp [hf, hm])).trans ((if_pos hk).trans (if_congr ?_ rfl rfl))
  exact Bool.and_eq_true_iff.trans ((and_iff_right twin).trans (decide_eq_true_iff.trans own))

theorem pairBeat_quarter (hl : s.pair.mode = .lockstep) (hb : s.straps.twinSide = true) (hk : (sb.extractLsb' 108 4).toNat = 1) :
    pairBeat s d sb = { s.drive .pairCredit with
      pair := { s.pair with quarters := s.pair.quarters ++ [(sb.extractLsb' 44 64, sb.extractLsb' 9 2, d)] } } := by
  refine (if_neg (by simp [hf, hm])).trans ((if_neg (by omega)).trans ((if_pos hk).trans (if_pos ?_)))
  simp [State.isA, hl, hb]

theorem pairBeat_copyLine (hk : (sb.extractLsb' 108 4).toNat = 2) : pairBeat s d sb =
    (s.drive .pairCredit).copyBeat (sb.extractLsb' 44 64).toNat d (sb.extractLsb' 12 32) (sb.getLsbD 11) := by
  refine (if_neg (by simp [hf, hm])).trans ?_
  iterate 2 refine (if_neg (by omega)).trans ?_
  exact if_pos hk

theorem pairBeat_staged (hk : (sb.extractLsb' 108 4).toNat = 3) :
    pairBeat s d sb = (s.drive .pairCredit).takeStaged d (sb.extractLsb' 12 32) (sb.getLsbD 11) := by
  refine (if_neg (by simp [hf, hm])).trans ?_
  iterate 3 refine (if_neg (by omega)).trans ?_
  exact if_pos hk

theorem pairBeat_says (hk : (sb.extractLsb' 108 4).toNat = 4) :
    pairBeat s d sb = (s.drive .pairCredit).pairMessage (sb.extractLsb' 44 64).toNat := by
  refine (if_neg (by simp [hf, hm])).trans ?_
  iterate 4 refine (if_neg (by omega)).trans ?_
  exact if_pos hk

theorem pairBeat_forwards (hk : (sb.extractLsb' 108 4).toNat = 5) :
    pairBeat s d sb = (s.drive .pairCredit).forwardBeat (sb.extractLsb' 44 64).toNat d := by
  refine (if_neg (by simp [hf, hm])).trans ?_
  iterate 5 refine (if_neg (by omega)).trans ?_
  exact if_pos hk

end Kinds

/-! ### The copy -/

theorem State.copyBeat_unawaited {s : State} (h : s.straps.twinSide = false ∨ s.joining = none) (hdr : Nat) (d : Line) (c : Word) (p : Bool) :
    s.copyBeat hdr d c p = s := by
  unfold State.copyBeat
  split
  · rfl
  · exact if_pos (by rcases h with h | h <;> simp_all [State.isA])

section Copy

variable {s : State} {r : Running} (hj : s.joining = some r) (hb : s.straps.twinSide = true) {hdr : Nat} {d : Line} {c : Word} {p : Bool}

include hj hb

/-- A copy line whose check fails ends the change, and twin A is told (15 R350). -/
theorem State.copyBeat_bad (hc : copyBad hdr d c p = true) : s.copyBeat hdr d c p =
    ((s.endRun r { status := 0x34 } [cROWCHECK]).raiseErr 3).sendBeat 0 (sideband 4 11 (rowCheck 0) false 0) := by
  simp only [State.copyBeat, hj, State.isA, hb, hc]
  rfl

theorem State.copyBeat_takes (hc : copyBad hdr d c p = false) (hl : hdr % 2 ^ 16 ≠ 7583) :
    s.copyBeat hdr d c p = { s with arch := s.arch.takeCopy hdr d c p } := by
  simp only [State.copyBeat, hj, State.isA, hb, hc]
  exact if_neg hl

end Copy

/-! ### Messages -/

theorem State.bandAbandoned_of_claimed {s : State} {r : Running} {b : Nat} (h : s.run = some r) (hc : r.claimed.contains b = true) :
    s.bandAbandoned b = { s with
      cnt := s.cnt.raise 49 1
      run := some { r with claimed := r.claimed.filter (· != b), skipped := if b < r.front then r.skipped ++ [b] else r.skipped } } := by
  simp only [State.bandAbandoned, h, hc]
  rfl

section Messages

variable (s : State) {hdr : Nat}

theorem State.pairMessage_abandons (h : hdr % 256 = 3) : s.pairMessage hdr = s.bandAbandoned (hdr >>> 8) := by
  simp [State.pairMessage, h]

theorem State.pairMessage_withdraws (h : hdr % 256 = 4) : s.pairMessage hdr = { s with pair := { s.pair with claim := none } } := by
  simp [State.pairMessage, h]

theorem State.pairMessage_parts (h : hdr % 256 = 6) : s.pairMessage hdr = s.splitDiverged := by
  simp [State.pairMessage, h]

theorem State.pairMessage_steals (h : hdr % 256 = 9) :
    s.pairMessage hdr = { s with pair := { s.pair with partnerStealing := decide (hdr >>> 8 = 1) } } := by
  simp [State.pairMessage, h]

/-- A forwarded command waits for its last beat. -/
theorem State.forwardBeat_keeps (h : bits hdr 16 16 + 1 < hdr % 2 ^ 16) (d : Line) :
    s.forwardBeat hdr d = { s with pair := { s.pair with fwd := sput s.pair.fwd (bits hdr 16 16) d } } :=
  if_pos h

end Messages

/-- The code and the argument of a message (log 10). -/
theorem message_fields {k : Nat} (hk : k < 256) (b : Nat) : (k + 256 * b) % 256 = k ∧ (k + 256 * b) >>> 8 = b := by
  rw [Nat.shiftRight_eq_div_pow]
  omega

/-! ### Credits -/

theorem creditStep_failed {s : State} (h : s.pow.failed = true) : creditStep s = s := if_pos h

section Credits

variable {s : State} (hf : s.pow.failed = false)

include hf

theorem creditStep_held (ht : s.pair.tx = []) : creditStep s =
    { s with pair := { s.pair with credits := if s.pair.credits.toNat < 16 then s.pair.credits + 1 else 16 } } := by
  simp only [creditStep, hf, State.sendWaiting, ht]
  rfl

/-- The credit that comes back goes with the oldest beat that waits. -/
theorem creditStep_sends {d : Line} {sb : BitVec 112} {rest : List (Line × BitVec 112)} (ht : s.pair.tx = (d, sb) :: rest)
    (hc : s.pair.credits = 0) : creditStep s = { s with pair := { s.pair with tx := rest }, wires := .pairData d sb :: s.wires } := by
  have hp : ({ s.pair with credits := 0, tx := rest } : Pair) = { s.pair with tx := rest } := by rw [← hc]
  rw [← hp]
  simp only [creditStep, hf, State.sendWaiting, ht, hc]
  rfl

end Credits

/-- Settles O41: a twin that listens frees the beat and does what its kind, or its message's code, says; a credit is held or goes with a beat. -/
theorem pairChannel : Obligations.PairChannel := by
  rintro s _ d sb _ _ _ hs rfl rfl rfl rfl
  have row : exec (.pairDataBeat d sb) s = .next (pairBeat s d sb) := functional_live hs _
  have credit : exec .pairCredit s = .next (creditStep s) := functional_live hs _
  refine ⟨fun h => row.trans (congrArg _ (pairBeat_ignored ?ignores d sb)), fun h => credit.trans (congrArg _ (creditStep_failed h)),
    fun hf hm => ⟨fun hk => row.trans (congrArg _ (pairBeat_unknown hf hm d hk)),
      fun hb hk => row.trans (congrArg _ (pairBeat_unmirrored hf hm d hb hk)),
      fun hl hb => ⟨fun hk => row.trans (congrArg _ (pairBeat_line hf hm d hl hb hk)),
        fun hk => row.trans (congrArg _ (pairBeat_quarter hf hm d hl hb hk))⟩,
      fun hk => ?copy, fun hk => ?staged, fun hk => ?message, fun hk hl => ?forward⟩,
    fun hf => ⟨fun ht => credit.trans (congrArg _ (creditStep_held hf ht)),
      fun _ _ _ ht hc => credit.trans (congrArg _ (creditStep_sends hf ht hc))⟩⟩
  case ignores =>
    rcases h with h | ⟨hm, hr⟩ | ⟨r, hm, hr, ho⟩
    · exact .inl h
    · exact .inr ⟨hm, State.waitsFor_idle hr 0⟩
    · exact .inr ⟨hm, State.waitsFor_other hr ho 0⟩
  case copy =>
    have beat := row.trans (congrArg _ (pairBeat_copyLine hf hm d hk))
    refine ⟨fun h => beat.trans (congrArg _ (State.copyBeat_unawaited (s := s.drive .pairCredit) h _ _ _ _)), fun r hb hj hr =>
      ⟨fun hc => ?_, fun hc hl => ?_⟩⟩
    · exact ⟨_, State.endRun_ended _ r _ _ hr, beat.trans (congrArg _ (State.copyBeat_bad (s := s.drive .pairCredit) hj hb hc))⟩
    · exact beat.trans (congrArg _ (State.copyBeat_takes (s := s.drive .pairCredit) hj hb hc hl))
  case staged =>
    have line := row.trans (congrArg _ (pairBeat_staged hf hm d hk))
    refine ⟨fun h => line.trans (congrArg _ (State.takeStaged_passes h)), fun r b hr hst hp hc => ?_⟩
    rw [hp, State.takeStaged_bad (s := s.drive .pairCredit) hr hst hc] at line
    have gone := (((s.drive .pairCredit).count cROWCHECK).raiseErr 3).abandonBand_gone r
    exact ⟨_, line, gone.run, gone.cnt, State.abandonBand_err _ r, gone.arch, gone.queues⟩
  case message =>
    have told := row.trans (congrArg _ (pairBeat_says hf hm d hk))
    refine ⟨fun b r hb hr hc => ?_, fun h => told.trans (congrArg _ (State.pairMessage_withdraws _ h)), fun h hr => ?_, fun b hlt hb => ?_⟩
    · obtain ⟨code, band⟩ := message_fields (k := 3) (by decide) b
      rw [hb, State.pairMessage_abandons _ code, band] at told
      exact told.trans (congrArg _ (State.bandAbandoned_of_claimed hr hc))
    · rw [State.pairMessage_parts _ h, State.splitDiverged_eq] at told
      exact ⟨_, told, rfl, rfl, rfl, rfl, rfl, rfl, rfl, rfl, congrArg (Option.filter _) hr⟩
    · obtain ⟨code, arg⟩ := message_fields (k := 9) (by decide) b
      rw [hb, State.pairMessage_steals _ code, arg] at told
      exact told
  case forward => exact row.trans (congrArg _ ((pairBeat_forwards hf hm d hk).trans (State.forwardBeat_keeps _ hl d)))

end Sys2Proof.Machine

/-! The reset state, and the counters at the register port (18 R423-R425): the words of a slot, what a read and a clear of one do, and the stall counters, which
an access brings up to date first (log 7). -/

namespace Sys2Proof.Machine

open Sys2Proof

/-- Settles O7: every part of the reset state is at a value that well-formedness admits. -/
theorem resetStateOk : Obligations.ResetStateOk := reset_ok

/-! ### Every counter at once -/

theorem clearCounters_eq (s : State) (v : Word) :
    clearCounters s v = { s with cnt := if v.getLsbD 0 then { stalls := s.mayStall } else s.cnt } := by
  unfold clearCounters
  split <;> rfl

/-- Settles O14: CNT_CTRL gives the counters their reset values, or leaves them. -/
theorem clearAllCounters : Obligations.ClearAllCounters := by
  intro v s hs
  refine ⟨_, congrArg Host.Outcome.next (regPort_of_regWrite (a := 0x1800) hs rfl rfl (clearCounters_eq s v) fun _ h => h), rfl, fun k => ?_⟩
  cases hv : v.getLsbD 0
  case false => exact ⟨rfl, rfl⟩
  case true => exact ⟨rfl, rfl⟩

/-! ### An access at a multiple of 4 -/

theorem portWrite_upToDate {s : State} {a : BitVec 16} (h : s.Live) (ha : a.toNat % 4 = 0) (v : Word) :
    portWrite s a v = (regWrite (s.upToDate a.toNat) a.toNat v).drive (.reg 0 false) := by
  simp only [State.Live] at h
  simp [portWrite, h, ha]

theorem portRead_upToDate {s : State} {a : BitVec 16} (h : s.Live) (ha : a.toNat % 4 = 0) :
    portRead s a = (regReadEffect (s.upToDate a.toNat) a.toNat).drive (.reg (regRead (s.upToDate a.toNat) a.toNat) false) := by
  simp only [State.Live] at h
  simp [portRead, h, ha]

/-- A write that touches no queue stops none. -/
theorem State.enable_of_queues {s t : State} (h : t.queues = s.queues) (q : BitVec 2) (he : (s.queue q).enable = true) :
    (t.queue q).enable = true := by
  rwa [State.queue_of_queues h]

/-! ### The words of a slot -/

/-- The low word of slot `k` is at `d = 0` of the slot, its high word at `d = 4` (18 R423). -/
theorem counterSlot_at {k d : Nat} (hk : k < 67) (hd : d = 0 ∨ d = 4) :
    (BitVec.ofNat 16 (0x1880 + 8 * k + d)).toNat % 4 = 0 ∧
      counterSlot (BitVec.ofNat 16 (0x1880 + 8 * k + d)).toNat = some (k, decide (d = 4)) := by
  have ha : (BitVec.ofNat 16 (0x1880 + 8 * k + d)).toNat = 0x1880 + 8 * k + d := by
    rw [BitVec.toNat_ofNat]
    omega
  rw [ha]
  refine ⟨by omega, (if_pos (by simp; omega)).trans (congrArg some (Prod.ext ?slot ?word))⟩
  case slot => show (0x1880 + 8 * k + d - 0x1880) / 8 = k; omega
  case word => exact decide_eq_decide.mpr (by omega)

theorem counterSlot_bounds {a : Nat} {x : Nat × Bool} (h : counterSlot a = some x) : 0x1880 ≤ a ∧ a < 0x1A98 := by
  unfold counterSlot at h
  split at h
  case isTrue hb => simpa using hb
  case isFalse => cases h

section Slot

variable {a k : Nat} (s : State)

theorem regRead_of_slot {b : Bool} (h : counterSlot a = some (k, b)) : regRead s a = readTrapCounters s a := by
  obtain ⟨lo, hi⟩ := counterSlot_bounds h
  unfold regRead
  iterate 4 rw [if_neg (by omega)]
  exact if_pos (by omega)

theorem regRead_counterLow (h : counterSlot a = some (k, false)) : regRead s a = w32 (s.counterValue k) := by
  obtain ⟨lo, hi⟩ := counterSlot_bounds h
  rw [regRead_of_slot s h]
  unfold readTrapCounters
  split
  case h_6 => rw [h]
  all_goals omega

theorem regRead_counterHigh (h : counterSlot a = some (k, true)) : regRead s a = w32 (sget 0 s.cnt.snaps k) := by
  obtain ⟨lo, hi⟩ := counterSlot_bounds h
  rw [regRead_of_slot s h]
  unfold readTrapCounters
  split
  case h_6 => rw [h]
  all_goals omega

theorem regReadEffect_counterLow (h : counterSlot a = some (k, false)) :
    regReadEffect s a = { s with cnt := { s.cnt with snaps := sset 0 s.cnt.snaps k (s.counterValue k >>> 32) } } := by
  obtain ⟨lo, hi⟩ := counterSlot_bounds h
  unfold regReadEffect
  split
  case h_3 => rw [h]
  all_goals omega

theorem regReadEffect_counterHigh (h : counterSlot a = some (k, true)) : regReadEffect s a = s := by
  obtain ⟨lo, hi⟩ := counterSlot_bounds h
  unfold regReadEffect
  split
  case h_3 => rw [h]
  all_goals omega

theorem regWrite_counterHigh (h : counterSlot a = some (k, true)) (v : Word) : regWrite s a v = clearCounter s k v := by
  obtain ⟨lo, hi⟩ := counterSlot_bounds h
  unfold regWrite
  iterate 4 rw [if_neg (by omega)]
  rw [if_pos (by omega)]
  unfold writeTrapCounters
  split
  case h_3 => rw [h]
  all_goals omega

end Slot

/-! ### The clear of one counter -/

theorem clearCounter_eq (s : State) (k : Nat) (v : Word) : clearCounter s k v = { s with cnt := (clearCounter s k v).cnt } := by
  unfold clearCounter
  split <;> rfl

theorem clearCounter_cnt (s : State) (k : Nat) (v : Word) : (clearCounter s k v).cnt = { s.cnt with
    vals := if v.getLsbD 31 then sset 0 s.cnt.vals k 0 else s.cnt.vals
    snaps := if v.getLsbD 31 then sset 0 s.cnt.snaps k 0 else s.cnt.snaps } := by
  unfold clearCounter
  split <;> rfl

/-- A key of a canonical storage of numbers that is set to zero when `c` says so. -/
theorem sget_zeroedIf {m : Sparse Nat} (h : sparseWf 0 m = true) (c : Bool) (k j : Nat) :
    sget 0 (if c then sset 0 m k 0 else m) j = if c ∧ j = k then 0 else sget 0 m j := by
  cases c
  · simp
  · simpa using sget_sset h k j 0

theorem clearCounter_reads {s : State} (h : s.cnt.Ok) (k : Nat) (v : Word) (j : Nat) :
    (clearCounter s k v).cnt.value j = (if v.getLsbD 31 ∧ j = k then 0 else s.cnt.value j) ∧
      sget 0 (clearCounter s k v).cnt.snaps j = if v.getLsbD 31 ∧ j = k then 0 else sget 0 s.cnt.snaps j := by
  rw [clearCounter_cnt]
  exact ⟨sget_zeroedIf h.vals _ k j, sget_zeroedIf h.snaps _ k j⟩

/-! ### The stall counters -/

theorem State.countStalls_eq (s : State) : s.countStalls = { s with cnt := s.countStalls.cnt, freeIx := s.countStalls.freeIx } := by
  unfold State.countStalls
  split <;> rfl

theorem State.countStalls_idle {s : State} (hr : s.run = none) (hb : s.dbg.busy = false) (hc : s.cnt.stalls = false) :
    s.countStalls = s :=
  if_neg (by simp [State.mayStall, hr, hb, hc])

/-- The rises of the two stall counters over a time in which something may have waited. -/
def State.stallsRaised (s : State) : Counters :=
  (s.cnt.raise 65 (Config.freeStallCount (2 * s.freeIx)).toNat).raise 66 (Config.freeStallCount (2 * s.freeIx + 1)).toNat

theorem State.countStalls_waited {s : State} (h : s.mayStall = true ∨ s.cnt.stalls = true) :
    s.countStalls = { s with freeIx := s.freeIx + 1, cnt := { s.stallsRaised with stalls := s.mayStall } } :=
  if_pos (by simpa using h)

theorem State.stallsRaised_value {s : State} (h : s.cnt.Ok) (j : Nat) : s.stallsRaised.value j =
    if j = 65 then Nat.min (s.cnt.value 65 + (Config.freeStallCount (2 * s.freeIx)).toNat) counterMax
    else if j = 66 then Nat.min (s.cnt.value 66 + (Config.freeStallCount (2 * s.freeIx + 1)).toNat) counterMax
    else s.cnt.value j := by
  rw [State.stallsRaised, Counters.value_raise (s.cnt.raise_ok _ _ h), Counters.value_raise h, Counters.value_raise h]
  by_cases h65 : j = 65
  · simp [h65]
  · simp [h65]

theorem State.stallsRaised_ok {s : State} (h : s.cnt.Ok) : s.stallsRaised.Ok :=
  Counters.raise_ok _ _ _ (Counters.raise_ok _ _ _ h)

/-- What bringing the stall counters up to date leaves: the form of the counters, every other counter, and every snapshot. -/
theorem State.countStalls_cnt {s : State} (h : s.cnt.Ok) : s.countStalls.cnt.Ok ∧
    (∀ j, j ≠ 65 → j ≠ 66 → s.countStalls.cnt.value j = s.cnt.value j) ∧ s.countStalls.cnt.snaps = s.cnt.snaps := by
  by_cases hw : s.mayStall = true ∨ s.cnt.stalls = true
  case pos =>
    have o := State.stallsRaised_ok h
    rw [State.countStalls_waited hw]
    exact ⟨⟨o.vals, o.snaps, o.bounded⟩,
      fun j h65 h66 => (State.stallsRaised_value h j).trans (by rw [if_neg h65, if_neg h66]), rfl⟩
  case neg =>
    have same : s.countStalls = s := if_neg (by simpa using hw)
    rw [same]
    exact ⟨h, fun _ _ _ => rfl, rfl⟩

/-- An access at a word of slot `k` brings the stall counters up to date when it is one of theirs. -/
theorem State.upToDate_slot {a k : Nat} {b : Bool} (h : counterSlot a = some (k, b)) (s : State) :
    s.upToDate a = if k = 65 ∨ k = 66 then s.countStalls else s := by
  simp [State.upToDate, stallAddr, h]

theorem State.upToDate_queues (s : State) (a : Nat) : (s.upToDate a).queues = s.queues := by
  unfold State.upToDate
  split
  · rw [State.countStalls_eq]
  · rfl

/-! ### The rows -/

/-- A write at the high word of slot `k` stops no queue. -/
theorem regPort_counterHigh {s : State} {a : BitVec 16} {k : Nat} (hs : s.Live) (ha : a.toNat % 4 = 0)
    (h : counterSlot a.toNat = some (k, true)) (v : Word) :
    s.regPort a v = (clearCounter (if k = 65 ∨ k = 66 then s.countStalls else s) k v).drive (.reg 0 false) := by
  have hq : ((clearCounter (s.upToDate a.toNat) k v).drive (.reg 0 false)).queues = s.queues := by
    rw [clearCounter_eq]
    exact s.upToDate_queues a.toNat
  rw [← State.upToDate_slot h, State.regPort, portWrite_upToDate hs ha, regWrite_counterHigh _ h]
  exact State.dropStopped_of_enable (State.enable_of_queues hq)

/-- Settles O15: the write brings the stall counters up to date when it names one, and then clears its slot. -/
theorem counterClearedAlone : Obligations.CounterClearedAlone := by
  intro k v s hs ho
  have row (hk : k < 67) : exec (.counterClear (BitVec.ofNat 16 (0x1880 + 8 * k + 4)) v) s =
      .next ((clearCounter (if k = 65 ∨ k = 66 then s.countStalls else s) k v).drive (.reg 0 false)) :=
    congrArg Host.Outcome.next (regPort_counterHigh hs (counterSlot_at hk (.inr rfl)).1 (counterSlot_at hk (.inr rfl)).2 v)
  refine ⟨fun hk => ?event, fun hk => ?stall⟩
  case event =>
    have row := row (by omega)
    rw [if_neg (by omega)] at row
    exact ⟨_, row, congrArg (State.drive · _) (clearCounter_eq s k v), clearCounter_reads ho.cnt k v⟩
  case stall =>
    have row := row (by omega)
    rw [if_pos hk] at row
    obtain ⟨hc, hother, hsnaps⟩ := State.countStalls_cnt ho.cnt
    refine ⟨_, row, ?frame, fun hv => ?cleared, fun j h65 h66 => ?other, fun j => ?snaps⟩
    case frame =>
      rw [clearCounter_eq, State.countStalls_eq]
      rfl
    case cleared => exact (clearCounter_reads hc k v k).1.trans (if_pos ⟨hv, rfl⟩)
    case other =>
      have hj : j ≠ k := by omega
      exact (clearCounter_reads hc k v j).1.trans ((if_neg fun h => hj h.2).trans (hother j h65 h66))
    case snaps => exact (clearCounter_reads hc k v j).2.trans (by rw [hsnaps])

/-- The low word of slot `k` answers the counter, and keeps its bits 39 to 32 (18 R423). -/
theorem portRead_counterLow {s : State} {a : BitVec 16} {k : Nat} (hs : s.Live) (ha : a.toNat % 4 = 0)
    (h : counterSlot a.toNat = some (k, false)) {t : State} (ht : s.upToDate a.toNat = t) :
    portRead s a = ({ t with cnt := { t.cnt with snaps := sset 0 t.cnt.snaps k (t.counterValue k >>> 32) } } : State).drive
      (.reg (w32 (t.counterValue k)) false) := by
  rw [portRead_upToDate hs ha, ht, regReadEffect_counterLow t h, regRead_counterLow t h]

theorem portRead_counterHigh {s : State} {a : BitVec 16} {k : Nat} (hs : s.Live) (ha : a.toNat % 4 = 0)
    (h : counterSlot a.toNat = some (k, true)) {t : State} (ht : s.upToDate a.toNat = t) :
    portRead s a = t.drive (.reg (w32 (sget 0 t.cnt.snaps k)) false) := by
  rw [portRead_upToDate hs ha, ht, regReadEffect_counterHigh t h, regRead_counterHigh t h]

/-- Settles O16: a low word answers and keeps the counter as it is brought up to date; a high word answers what was kept. -/
theorem counterReads : Obligations.CounterReads := by
  intro k s hs ho
  refine ⟨fun hk => ?settled, fun hk hw => ?waiting⟩
  case settled =>
    have hlt : k < 67 := by omega
    have same {a : Nat} {b : Bool} (h : counterSlot a = some (k, b)) : s.upToDate a = s := by
      rw [State.upToDate_slot h]
      split
      case isTrue hstall =>
        obtain ⟨-, hrun, hbusy, hstalls⟩ := hk.resolve_left (by omega)
        exact State.countStalls_idle hrun hbusy hstalls
      case isFalse => rfl
    obtain ⟨hlo, low⟩ := counterSlot_at hlt (d := 0) (.inl rfl)
    obtain ⟨hhi, high⟩ := counterSlot_at hlt (d := 4) (.inr rfl)
    refine ⟨⟨_, congrArg Host.Outcome.next (portRead_counterLow hs hlo low (same low)), rfl, rfl, rfl, fun j => ?_⟩,
      congrArg Host.Outcome.next (portRead_counterHigh hs hhi high (same high))⟩
    exact (sget_sset ho.cnt.snaps k j _).trans (by rw [Nat.shiftRight_eq_div_pow]; rfl)
  case waiting =>
    obtain ⟨hlo, low⟩ := counterSlot_at (k := k) (by omega) (d := 0) (.inl rfl)
    have hmay : s.mayStall = true := by
      rcases hw with hr | hb
      · simp [State.mayStall, Option.isSome_iff_ne_none.mpr hr]
      · simp [State.mayStall, hb]
    have raised := (State.upToDate_slot low s).trans ((if_pos hk).trans (State.countStalls_waited (.inl hmay)))
    have value := State.stallsRaised_value ho.cnt
    have shown : (if k = 13 then 0 else s.stallsRaised.value k) = s.stallsRaised.value k := if_neg (by omega)
    refine ⟨_, congrArg Host.Outcome.next (portRead_counterLow hs hlo low raised), rfl, ?answer, ?kept, ?trf, ?tmv, fun j h65 h66 => ?other⟩
    case answer => exact congrArg (fun x => Wire.reg (w32 x) false :: s.wires) shown
    case kept =>
      refine (sget_sset_self 0 _ k _ (State.stallsRaised_ok ho.cnt).snaps).trans ?_
      rw [Nat.shiftRight_eq_div_pow]
      exact congrArg (· / 2 ^ 32) shown
    case trf => exact (value 65).trans (Nat.min_comm ..)
    case tmv => exact (value 66).trans (Nat.min_comm ..)
    case other => exact (value j).trans (by rw [if_neg h65, if_neg h66])

end Sys2Proof.Machine

/-! NUM_CFG (03 R68, 18 R421, R422), field by field. -/

namespace Sys2Proof.Machine

open Sys2Proof

theorem extractLsb'_toNat_bits (v : Word) (k n : Nat) : (v.extractLsb' k n).toNat = bits v.toNat k n := BitVec.extractLsb'_toNat ..

theorem bits_eq_seven_iff (v : Word) (k : Nat) : bits v.toNat k 3 = 7 ↔ v.extractLsb' k 3 = 7 := by
  rw [← BitVec.toNat_inj, extractLsb'_toNat_bits]
  rfl

theorem rndField_eq (old new : Word) (k : Nat) :
    rndField old new k = (if new.extractLsb' k 3 = 7 then old.extractLsb' k 3 else new.extractLsb' k 3).toNat := by
  simp only [rndField, bits_eq_seven_iff, apply_ite BitVec.toNat, extractLsb'_toNat_bits]

/-- The word that a write of `v` leaves in NUM_CFG. -/
def numCfgAfter (old v : Word) : Word :=
  w32 (bits v.toNat 2 7 <<< 2 + rndField old v 9 <<< 9 + rndField old v 12 <<< 12 + rndField old v 15 <<< 15 + rndField old v 18 <<< 18)

theorem writeNumCfg_eq (s : State) (v : Word) : writeNumCfg s v = { s with
    num := { s.num with numCfg := numCfgAfter s.num.numCfg v }
    cnt := if [9, 12, 15, 18].any (fun k => v.extractLsb' k 3 = 7) then s.cnt.raise 24 1 else s.cnt } := by
  simp only [← bits_eq_seven_iff]
  unfold writeNumCfg
  dsimp only
  split <;> rfl

/-- Its fields, none of which reaches into another. -/
theorem numCfgAfter_toNat (old v : Word) : (numCfgAfter old v).toNat = bits v.toNat 2 7 * 2 ^ 2 + rndField old v 9 * 2 ^ 9 +
    rndField old v 12 * 2 ^ 12 + rndField old v 15 * 2 ^ 15 + rndField old v 18 * 2 ^ 18 := by
  have low : bits v.toNat 2 7 < 2 ^ 7 := Nat.mod_lt _ (by decide)
  have h9 := rndField_lt old v 9
  have h12 := rndField_lt old v 12
  have h15 := rndField_lt old v 15
  have h18 := rndField_lt old v 18
  simp only [numCfgAfter, w32, BitVec.toNat_ofNat, Nat.shiftLeft_eq]
  omega

theorem numCfgAfter_fields (old v : Word) :
    (∀ k ∈ [9, 12, 15, 18], bits (numCfgAfter old v).toNat k 3 = rndField old v k) ∧
      bits (numCfgAfter old v).toNat 2 7 = bits v.toNat 2 7 ∧ bits (numCfgAfter old v).toNat 0 2 = 0 ∧
      bits (numCfgAfter old v).toNat 21 11 = 0 := by
  have low : bits v.toNat 2 7 < 2 ^ 7 := Nat.mod_lt _ (by decide)
  have h9 := rndField_lt old v 9
  have h12 := rndField_lt old v 12
  have h15 := rndField_lt old v 15
  have h18 := rndField_lt old v 18
  simp only [numCfgAfter_toNat, List.forall_mem_cons]
  generalize bits v.toNat 2 7 = f at *
  simp only [bits_eq_div_mod]
  refine ⟨⟨?_, ?_, ?_, ?_, nofun⟩, ?_, ?_, ?_⟩ <;> omega

/-- Settles O11: the write puts five fields together, and each is read back. -/
theorem numCfgWrite : Obligations.NumCfgWrite := by
  intro v s hs
  obtain ⟨hround, hplain, hlow, hhigh⟩ := numCfgAfter_fields s.num.numCfg v
  simp only [← extractLsb'_toNat_bits, rndField_eq, BitVec.toNat_inj] at hround hplain
  refine ⟨numCfgAfter s.num.numCfg v, congrArg Host.Outcome.next ?row, hround, hplain, ?low, ?high⟩
  case row =>
    rw [regPort_of_regWrite (a := 0x1000) hs rfl rfl (writeNumCfg_eq s v) (State.enable_of_queues rfl)]
    rfl
  case low => exact BitVec.eq_of_toNat_eq ((extractLsb'_toNat_bits ..).trans hlow)
  case high => exact BitVec.eq_of_toNat_eq ((extractLsb'_toNat_bits ..).trans hhigh)

end Sys2Proof.Machine

/-! Debug captures (18 R419, 15 R356, R357): the half word that a capture takes, and the word error that it met. -/

namespace Sys2Proof.Machine

open Sys2Proof

theorem writeDbgSel_busy {s : State} (h : s.dbg.busy = true) (v : Word) : writeDbgSel s v = s.ignored := if_pos h

theorem writeDbgSel_free {s : State} (h : s.dbg.busy = false) (v : Word) : writeDbgSel s v = { s with
    dbg := { s.dbg with busy := true, tag := v.getLsbD 30, register := v.extractLsb' 23 7, row := v.extractLsb' 18 5, word := v.extractLsb' 0 5 }
    cnt := { s.cnt with stalls := true } } :=
  if_neg (by simp [h])

/-! ### The half word -/

/-- The half word that a capture takes of a 64-bit word. -/
def Debug.half (d : Debug) (v : BitVec 64) : Word := v.extractLsb' (32 * (d.word.toNat % 2)) 32

/-- Half `w % 2` of the 64-bit word `w / 2` is the 32-bit word `w`. -/
theorem Debug.half_ofNat (d : Debug) (n : Nat) :
    d.half (BitVec.ofNat 64 (n >>> (64 * (d.word.toNat / 2)))) = BitVec.ofNat 32 (n / 2 ^ (32 * d.word.toNat)) := by
  refine BitVec.eq_of_getLsbD_eq fun i hi => ?_
  have hbit : 64 * (d.word.toNat / 2) + (32 * (d.word.toNat % 2) + i) = 32 * d.word.toNat + i := by omega
  have hlt : 32 * (d.word.toNat % 2) + i < 64 := by omega
  simp only [Debug.half, BitVec.getLsbD_extractLsb', BitVec.getLsbD_ofNat, ← Nat.shiftRight_eq_div_pow, Nat.testBit_shiftRight,
    hi, hlt, hbit, decide_true, Bool.true_and]

theorem Debug.half_row {d : Debug} (ht : d.tag = false) (a : Arch) :
    d.half (d.word64 a) = BitVec.ofNat 32 ((a.row d.register.toNat d.row.toNat).bytes / 2 ^ (32 * d.word.toNat)) := by
  rw [← Debug.half_ofNat]
  simp [Debug.word64, ht]

theorem Debug.half_tag {d : Debug} (ht : d.tag = true) (hw : d.word.toNat < 2) (a : Arch) :
    d.half (d.word64 a) = BitVec.ofNat 32 ((a.row d.register.toNat d.row.toNat).tag.asBits.toNat / 2 ^ (32 * d.word.toNat)) := by
  rw [← Debug.half_ofNat, Nat.div_eq_of_lt hw]
  simp [Debug.word64, ht]

theorem Debug.void_iff (d : Debug) : d.void = true ↔ 96 ≤ d.register.toNat ∨ (d.tag = true ∧ 2 ≤ d.word.toNat) := by
  simp [Debug.void, Nat.lt_iff_add_one_le]

theorem Debug.not_void {d : Debug} (hr : d.register.toNat < 96) (ht : d.tag = true → d.word.toNat < 2) : d.void = false := by
  rw [← Bool.not_eq_true, Debug.void_iff]
  rintro (h | ⟨htag, hw⟩)
  · omega
  · have := ht htag
    omega

/-! ### The capture -/

/-- The capture has ended with `x`, of a poisoned word or not. -/
def Debug.ended (d : Debug) (x : Word) (poison : Bool) : Debug := { d with busy := false, poison := poison, data := x }

section Capture

variable {s : State} (hb : s.dbg.busy = true) (ho : s.pow.state ≠ .off)

include hb ho

theorem captureStep_void (hv : s.dbg.void = true) (e : Option EccKind) : captureStep s e = { s with dbg := s.dbg.ended 0 false } := by
  simp [captureStep, hb, ho, hv, Debug.ended]

variable (hv : s.dbg.void = false)

include hv

theorem captureStep_clean : captureStep s none = { s with dbg := s.dbg.ended (s.dbg.half (s.dbg.word64 s.arch)) false } := by
  simp [captureStep, hb, ho, hv, Debug.ended, Debug.half]

theorem captureStep_corrected (p0 : BitVec 7) (p1 : Option (BitVec 7)) : captureStep s (some (.corrected p0 p1)) =
    { s.eccHit (s.dbg.hit (.corrected p0 p1)) with dbg := s.dbg.ended (s.dbg.half (s.dbg.word64 s.arch)) false } := by
  simp [captureStep, hb, ho, hv, Debug.ended, Debug.half]

theorem captureStep_uncorrectable (v : BitVec 64) : captureStep s (some (.uncorrectable v)) =
    { s.eccHit (s.dbg.hit (.uncorrectable v)) with dbg := s.dbg.ended (s.dbg.half v) true } := by
  simp [captureStep, hb, ho, hv, Debug.ended, Debug.half]

end Capture

/-! ### The word error that a read met -/

theorem State.wantWrite_eq (s : State) (storage w : Nat) :
    s.wantWrite storage w = { s with night := (s.wantWrite storage w).night } := by
  unfold State.wantWrite
  split <;> rfl

/-- A correction by any reader is counted and reported, and its unit may ask for a write-back (R356). -/
theorem State.eccHit_corrects {h : EccHit} {p0 : BitVec 7} {p1 : Option (BitVec 7)} (hk : h.kind = .corrected p0 p1) (s : State) :
    ∃ n e x, e.status = s.err.status ||| 1 ∧ s.eccHit h = { s with night := n, cnt := s.cnt.raise 55 1, err := e, star := x } := by
  simp only [State.eccHit, hk, State.logCorrected]
  rw [State.wantWrite_eq]
  exact ⟨_, _, _, rfl, rfl⟩

/-- An uncorrectable word of a storage is counted and reported, and its granule is marked (R357). -/
theorem State.eccHit_poisons {h : EccHit} {v : BitVec 64} (hk : h.kind = .uncorrectable v) (hst : h.storage.toNat < 6) (s : State) :
    ∃ e, e.status = s.err.status ||| 2 ∧ s.eccHit h =
      { s with cnt := s.cnt.raise 56 1, err := e, arch := s.arch.poisonWord h.storage.toNat h.word.toNat v } := by
  simp only [State.eccHit, hk, if_neg (Nat.not_le.mpr hst), State.logUncorrectable]
  split <;> exact ⟨_, rfl, rfl⟩

/-- A capture of a row reports its word error at the row's word of the TRF. -/
theorem Debug.hit_row {d : Debug} (ht : d.tag = false) (hr : d.register.toNat < 96) (e : EccKind) :
    (d.hit e).kind = e ∧ (d.hit e).storage = 0 ∧
      (d.hit e).word.toNat = 16 * (32 * d.register.toNat + d.row.toNat) + d.word.toNat / 2 := by
  rw [Debug.hit, ht]
  refine ⟨rfl, rfl, (BitVec.toNat_ofNat _ _).trans (Nat.mod_eq_of_lt ?_)⟩
  have hrow := d.row.isLt
  have hword := d.word.isLt
  show 16 * (32 * d.register.toNat + d.row.toNat) + d.word.toNat / 2 < 2 ^ 16
  omega

/-- Settles O18: DBG_SEL starts a capture unless one is pending, and the capture takes its half word with or without a word error. -/
theorem debugCaptures : Obligations.DebugCaptures := by
  intro s hs
  have row (e : Option EccKind) : exec (.debugCapture e) s = .next (captureStep s e) := functional_live hs _
  refine ⟨fun v hb => congrArg Host.Outcome.next ?ignored, fun v hb => congrArg Host.Outcome.next ?starts,
    fun hb => (row _).trans (congrArg _ (if_pos (by simp [hb]))), fun hb ho => ⟨fun ht hr => ?rowWord, fun ht hr hw => ?tagWord,
      fun p0 p1 ht hr => ?corrected, fun v ht hr => ?uncorrectable,
      fun e hv => (row e).trans (congrArg _ (captureStep_void hb ho (s.dbg.void_iff.mpr hv) e))⟩⟩
  case ignored => exact regPort_of_regWrite (a := 0x0480) hs rfl rfl (writeDbgSel_busy hb v) fun _ h => h
  case starts => exact regPort_of_regWrite (a := 0x0480) hs rfl rfl (writeDbgSel_free hb v) fun _ h => h
  case rowWord =>
    have step := captureStep_clean hb ho (Debug.not_void hr (by simp [ht]))
    rw [Debug.half_row ht] at step
    exact (row _).trans (congrArg _ step)
  case tagWord =>
    have step := captureStep_clean hb ho (Debug.not_void hr fun _ => hw)
    rw [Debug.half_tag ht hw] at step
    exact (row _).trans (congrArg _ step)
  case corrected =>
    have step := captureStep_corrected hb ho (Debug.not_void hr (by simp [ht])) p0 p1
    obtain ⟨n, e, x, herr, hit⟩ := State.eccHit_corrects (Debug.hit_row ht hr (.corrected p0 p1)).1 s
    rw [hit, Debug.half_row ht] at step
    exact ⟨_, (row _).trans (congrArg _ step), rfl, rfl, rfl, herr, rfl, rfl⟩
  case uncorrectable =>
    have step := captureStep_uncorrectable hb ho (Debug.not_void hr (by simp [ht])) v
    obtain ⟨hkind, hst, hword⟩ := Debug.hit_row ht hr (.uncorrectable v)
    obtain ⟨e, herr, hit⟩ := State.eccHit_poisons hkind (by rw [hst]; decide) s
    rw [hit, hst, hword] at step
    exact ⟨_, (row _).trans (congrArg _ step), rfl, rfl, rfl, herr, rfl, rfl⟩

end Sys2Proof.Machine

/-! Plain registers (18 R414, R415; 13 R324, 15 R362, R365, R368, R371, 16 R376, R385). -/

namespace Sys2Proof.Machine

open Sys2Proof

/-- The offsets of a queue's save area. -/
def saveAreaOffsets : List Nat := [0x14, 0x18]

theorem regPort_saveArea {s t : State} {o : Nat} {q : BitVec 2} {v : Word} (h : s.Live) (ho : o ∈ saveAreaOffsets)
    (hw : writeQueue s q o v = t) (he : ∀ p, (s.queue p).enable = true → (t.queue p).enable = true) :
    s.regPort (queueAddr q o) v = t.drive (.reg 0 false) := by
  obtain ⟨ha, hs, hreg⟩ : (queueAddr q o).toNat % 4 = 0 ∧ stallAddr (queueAddr q o).toNat = false ∧
      regWrite s (queueAddr q o).toNat v = writeQueue s q o v := by
    fin_cases ho <;> rcases queue_cases q with rfl | rfl | rfl | rfl <;> exact ⟨rfl, rfl, rfl⟩
  exact regPort_of_regWrite h ha hs (hreg.trans hw) he

/-- The row of a write that stops no queue, at an address that is no counter's. -/
theorem registerWrite_of_regWrite {s t : State} {a : BitVec 16} {v : Word} (h : s.Live) (ha : a.toNat % 4 = 0)
    (hc : stallAddr a.toNat = false) (hw : regWrite s a.toNat v = t) (hq : t.queues = s.queues) :
    exec (.registerWrite a v) s = .next (t.drive (.reg 0 false)) :=
  congrArg Host.Outcome.next (regPort_of_regWrite h ha hc hw (State.enable_of_queues hq))

/-- A size that is reserved leaves the size (12 R273, log 44). -/
theorem RingBase.withHi_of_ge {v : Word} (h : 13 ≤ (v.extractLsb' 28 4).toNat) (b : RingBase) :
    b.withHi v = { b with hi := v.extractLsb' 0 20 } := by
  have hge : v.extractLsb' 28 4 ≥ 13 := h
  rw [RingBase.withHi, if_pos hge]

theorem writeQueue_ctxLo (s : State) (q : BitVec 2) (v : Word) : writeQueue s q 0x14 v =
    if (s.queue q).susp.isSome then s.ignored else s.setQueue q { s.queue q with ctxLo := v.extractLsb' 12 20 } := rfl

theorem writeQueue_ctxHi (s : State) (q : BitVec 2) (v : Word) : writeQueue s q 0x18 v =
    if (s.queue q).susp.isSome then s.ignored
    else s.setQueue q { s.queue q with ctxValid := v.getLsbD 31, ctxHi := v.extractLsb' 0 20 } := rfl

theorem writeQueue_baseHi (s : State) (q : BitVec 2) (v : Word) : writeQueue s q 0x04 v =
    if (s.queue q).enable then s.ignored else s.setQueue q { s.queue q with base := (s.queue q).base.withHi v } := rfl

theorem regWrite_replyBaseHi (s : State) (v : Word) : regWrite s 0x0C04 v =
    if s.anyEnabled then s.ignored else { s with ring := { s.ring with base := s.ring.base.withHi v } } := rfl

/-- Setting enable restarts the interval counts, and a period below its minimum is raised to it (15 R371). -/
theorem writeStarCtrl_eq (s : State) (v : Word) : writeStarCtrl s v = { s with star := { s.star with
    enable := v.getLsbD 31, period := if (v.extractLsb' 0 24).toNat < 500 then 500 else v.extractLsb' 0 24
    droops := if v.getLsbD 31 ∧ s.star.enable = false then 0 else s.star.droops
    corrected := if v.getLsbD 31 ∧ s.star.enable = false then 0 else s.star.corrected
    readBeats := if v.getLsbD 31 ∧ s.star.enable = false then 0 else s.star.readBeats
    writeBeats := if v.getLsbD 31 ∧ s.star.enable = false then 0 else s.star.writeBeats } } := by
  have hp : (v.extractLsb' 0 24 < 500) = ((v.extractLsb' 0 24).toNat < 500) := rfl
  simp only [writeStarCtrl, hp]
  cases v.getLsbD 31 <;> cases s.star.enable <;> rfl

/-- Settles O21: each row is a write at its register's address; those of a queue and of a ring are ignored or replace one field. -/
theorem plainRegisterWrites : Obligations.PlainRegisterWrites := by
  intro s v hs
  refine ⟨registerWrite_of_regWrite (a := 0x0410) hs rfl rfl rfl rfl, registerWrite_of_regWrite (a := 0x0414) hs rfl rfl rfl rfl,
    registerWrite_of_regWrite (a := 0x0418) hs rfl rfl rfl rfl, registerWrite_of_regWrite (a := 0x041C) hs rfl rfl rfl rfl,
    registerWrite_of_regWrite (a := 0x1004) hs rfl rfl rfl rfl, registerWrite_of_regWrite (a := 0x1008) hs rfl rfl rfl rfl,
    ?package, registerWrite_of_regWrite (a := 0x1024) hs rfl rfl rfl rfl,
    registerWrite_of_regWrite (a := 0x1010) hs rfl rfl rfl rfl, registerWrite_of_regWrite (a := 0x2004) hs rfl rfl rfl rfl,
    registerWrite_of_regWrite (a := 0x2080) hs rfl rfl rfl rfl,
    ⟨_, registerWrite_of_regWrite (a := 0x2810) hs rfl rfl (writeStarCtrl_eq s v) rfl, rfl, rfl⟩,
    registerWrite_of_regWrite (a := 0x3080) hs rfl rfl rfl rfl, registerWrite_of_regWrite (a := 0x3810) hs rfl rfl rfl rfl,
    registerWrite_of_regWrite (a := 0x3084) hs rfl rfl rfl rfl,
    fun he => registerWrite_of_regWrite (a := 0x2800) hs rfl rfl (if_pos he) rfl,
    fun q hq => congrArg Host.Outcome.next ?held, fun q he hz => congrArg Host.Outcome.next ?size, fun he hz => ?replySize,
    fun q hq => congrArg Host.Outcome.next ?ctxLo, fun q hq => congrArg Host.Outcome.next ?ctxHi⟩
  case package =>
    have hv : v.extractLsb' 0 18 = v.setWidth 18 := by ext i hi; simp
    rw [hv]
    exact registerWrite_of_regWrite (a := 0x1020) hs rfl rfl rfl rfl
  case held =>
    have hw := (writeQueue_ctxLo s q v).trans (if_pos (Option.isSome_iff_ne_none.mpr hq))
    exact regPort_saveArea hs (by decide) hw fun _ h => h
  case size =>
    have hw := (writeQueue_baseHi s q v).trans (if_neg (by simp [he]))
    rw [← RingBase.withHi_of_ge hz]
    exact regPort_queueAddr hs (by decide) hw (State.setQueue_enable id)
  case replySize =>
    have hw := (regWrite_replyBaseHi s v).trans (if_neg (by simp [he]))
    rw [← RingBase.withHi_of_ge hz]
    exact registerWrite_of_regWrite (a := 0x0C04) hs rfl rfl hw rfl
  case ctxLo =>
    have hw := (writeQueue_ctxLo s q v).trans (if_neg (by simp [hq]))
    exact regPort_saveArea hs (by decide) hw (State.setQueue_enable id)
  case ctxHi =>
    have hw := (writeQueue_ctxHi s q v).trans (if_neg (by simp [hq]))
    exact regPort_saveArea hs (by decide) hw (State.setQueue_enable id)

end Sys2Proof.Machine


/-! What the register port answers at an assigned address, and at one that no table of chapter 18 assigns (18 R414, 17 R396). -/

namespace Sys2Proof.Machine

open Sys2Proof

/-! ### A word by its fields: each field is shifted by the widths of those below it -/

theorem flag_shiftLeft (b : Bool) (k n : Nat) : flag b k <<< n = flag b (k + n) := by
  cases b
  · simp [flag]
  · refine BitVec.eq_of_toNat_eq ?_
    simp [flag, Nat.shiftLeft_eq, Nat.pow_add]

theorem w32_shiftLeft (n k : Nat) : w32 (n <<< k) = w32 n <<< k := by
  refine BitVec.eq_of_toNat_eq ?_
  simp [w32, Nat.shiftLeft_eq]

theorem w32_toNat {n : Nat} (x : BitVec n) : w32 x.toNat = x.setWidth 32 := BitVec.ofNat_toNat ..

theorem setWidth_ofBool (b : Bool) : (BitVec.ofBool b).setWidth 32 = flag b 0 := by
  cases b <;> rfl

theorem setWidth_append {m n : Nat} (x : BitVec m) (y : BitVec n) : (x ++ y).setWidth 32 = x.setWidth 32 <<< n ||| y.setWidth 32 := by
  refine BitVec.eq_of_getLsbD_eq fun i hi => ?_
  by_cases h : i < n
  · simp [BitVec.getLsbD_append, hi, h]
  · have hy : y.getLsbD i = false := BitVec.getLsbD_of_ge y i (by omega)
    simp [BitVec.getLsbD_append, hi, h, hy]

theorem PowerState.w32_code (p : PowerState) : w32 p.code = (BitVec.ofNat 2 p.code).setWidth 32 := by
  cases p <;> rfl

theorem PairModeKind.w32_code (m : PairModeKind) : w32 m.code = (BitVec.ofNat 2 m.code).setWidth 32 := by
  cases m <;> rfl

/-- Which twin of which pair this is (18 R418). -/
theorem readId_twin (s : State) : readId s 0x000C = 0#19 ++ BitVec.ofBool s.straps.twinSide ++ s.straps.instanceId := by
  refine Eq.trans ?_ (BitVec.setWidth_eq _)
  simp only [readId, w32_toNat, setWidth_append, setWidth_ofBool, BitVec.shiftLeft_or_distrib, flag_shiftLeft]
  simp

theorem State.powerStatus_fields (s : State) : s.powerStatus =
    0#20 ++ BitVec.ofBool s.pow.failed ++ BitVec.ofBool s.pow.wakeLatched ++ BitVec.ofBool s.pow.sleepLatched ++
      BitVec.ofBool s.pow.fence ++ s.pow.step ++ 0#2 ++ BitVec.ofNat 2 s.pow.state.code := by
  refine Eq.trans ?_ (BitVec.setWidth_eq _)
  simp only [State.powerStatus, PowerState.w32_code, w32_shiftLeft, w32_toNat, setWidth_append, setWidth_ofBool,
    BitVec.shiftLeft_or_distrib, ← BitVec.shiftLeft_add, flag_shiftLeft]
  simp

theorem State.pairStatus_fields (s : State) : s.pairStatus =
    0#24 ++ BitVec.ofBool s.pair.diverged ++ BitVec.ofBool s.pair.partnerFailed ++ BitVec.ofBool s.pair.arrayBarred ++
      BitVec.ofBool s.pair.detached ++ BitVec.ofBool s.pair.stealing ++ BitVec.ofBool s.pair.autoSolo ++ BitVec.ofNat 2 s.pair.mode.code := by
  refine Eq.trans ?_ (BitVec.setWidth_eq _)
  simp only [State.pairStatus, PairModeKind.w32_code, setWidth_append, setWidth_ofBool, BitVec.shiftLeft_or_distrib, ← BitVec.shiftLeft_add,
    flag_shiftLeft]
  simp

theorem State.trapRec0_fields (s : State) : s.trapRec0 =
    s.trap.w0 ||| if s.queues.q0.halted || s.queues.q1.halted || s.queues.q2.halted || s.queues.q3.halted then 0x40000000 else 0 := by
  simp [State.trapRec0, State.anyHalted, Quad.toList, flag, Bool.or_assoc]

/-! ### An assigned register -/

/-- A read at `a` answers `x` and changes nothing. -/
structure State.Answers (s : State) (a : BitVec 16) (x : Word) : Prop where
  aligned : a.toNat % 4 = 0
  noStall : stallAddr a.toNat = false
  pure : regReadEffect s a.toNat = s
  word : regRead s a.toNat = x

theorem State.Answers.read {s : State} {a : BitVec 16} {x : Word} (h : s.Answers a x) (hs : s.Live) :
    exec (.counterRead a) s = .next { s with wires := .reg x false :: s.wires } := by
  refine congrArg Host.Outcome.next ?_
  rw [portRead_live hs h.aligned h.noStall, h.pure, h.word]
  rfl

theorem State.answers_of_mem {s : State} {l : List (BitVec 16 × Word)} {a : BitVec 16} {x : Word} (h : (a, x) ∈ l)
    (hl : ∀ p ∈ l, s.Answers p.1 p.2) : s.Answers a x :=
  hl _ h

theorem State.answers_tail (s : State) (q : BitVec 2) : s.Answers (queueAddr q 0x08) ((s.queue q).tail.setWidth 32) := by
  rcases queue_cases q with rfl | rfl | rfl | rfl <;> exact ⟨rfl, rfl, rfl, w32_toNat _⟩

theorem State.answers_head (s : State) (q : BitVec 2) : s.Answers (queueAddr q 0x0C) ((s.queue q).head.setWidth 32) := by
  rcases queue_cases q with rfl | rfl | rfl | rfl <;> exact ⟨rfl, rfl, rfl, w32_toNat _⟩

/-! ### An address that no table assigns -/

/-- The runs of addresses that the tables of chapter 18 assign: the first and the last register of each. -/
def assignedTables : List (Nat × Nat) :=
  [(0x0000, 0x0044), (0x0400, 0x0404), (0x0410, 0x041C), (0x0440, 0x0454), (0x0460, 0x0460), (0x0480, 0x0484),
    (0x0800, 0x0818), (0x0900, 0x0918), (0x0A00, 0x0A18), (0x0B00, 0x0B18), (0x0C00, 0x0C0C), (0x1000, 0x1008),
    (0x1010, 0x1018), (0x1020, 0x1024), (0x1400, 0x1410), (0x1800, 0x1800), (0x1880, 0x1A94), (0x2000, 0x2004),
    (0x2010, 0x2010), (0x2020, 0x2024), (0x2040, 0x2050), (0x2080, 0x2084), (0x2800, 0x2810), (0x3000, 0x3004),
    (0x3010, 0x3034), (0x3040, 0x3040), (0x3080, 0x3084), (0x3800, 0x3800), (0x3810, 0x3814)]

abbrev Unassigned (a : Nat) : Prop := ∀ p ∈ assignedTables, a < p.1 ∨ p.2 < a

theorem readQueue_above {o : Nat} (ho : 0x18 < o) (s : State) (q : BitVec 2) : readQueue s q o = 0 := by
  unfold readQueue
  split
  case h_8 => rfl
  all_goals omega

theorem writeQueue_above {o : Nat} (ho : 0x18 < o) (s : State) (q : BitVec 2) (v : Word) : writeQueue s q o v = s := by
  unfold writeQueue
  split
  case h_7 => rfl
  all_goals omega

section Unassigned

variable {a : Nat} (h : Unassigned a)

include h

/-- Each queue's registers are the first seven words of its 256 bytes (18 R420). -/
theorem Unassigned.queueOffset (lo : 0x0800 ≤ a) (hi : a < 0x0C00) : 0x18 < a % 0x100 := by
  have q0 := h (0x0800, 0x0818) (by decide)
  have q1 := h (0x0900, 0x0918) (by decide)
  have q2 := h (0x0A00, 0x0A18) (by decide)
  have q3 := h (0x0B00, 0x0B18) (by decide)
  omega

/-- The counters lie in one run; an address between its last register and the next multiple of 4 is none. -/
theorem Unassigned.counterSlot (ha : a % 4 = 0) : counterSlot a = none := by
  have run := h (0x1880, 0x1A94) (by decide)
  exact if_neg (by simp; omega)

theorem readId_unassigned (s : State) : readId s a = 0 := by
  unfold readId
  split
  case h_7 => exact if_neg (by have := h (0x0000, 0x0044) (by decide); simp; omega)
  all_goals exact absurd h (by decide)

theorem readPower_unassigned (s : State) : readPower s a = 0 := by
  unfold readPower
  split
  case h_16 => rfl
  all_goals exact absurd h (by decide)

theorem readQueues_unassigned (lo : 0x0800 ≤ a) (s : State) : readQueues s a = 0 := by
  unfold readQueues
  split
  case h_5 =>
    split
    · exact readQueue_above (h.queueOffset lo ‹_›) s _
    · rfl
  all_goals exact absurd h (by decide)

theorem NumRegs.read_unassigned (n : NumRegs) (w : BitVec 64) : n.read w a = 0 := by
  unfold NumRegs.read
  split
  case h_9 => rfl
  all_goals exact absurd h (by decide)

theorem readTrapCounters_unassigned (ha : a % 4 = 0) (s : State) : readTrapCounters s a = 0 := by
  unfold readTrapCounters
  split
  case h_6 => rw [h.counterSlot ha]
  all_goals exact absurd h (by decide)

theorem readErrors_unassigned (s : State) : readErrors s a = 0 := by
  unfold readErrors
  split
  case h_18 => rfl
  all_goals exact absurd h (by decide)

theorem readDawn_unassigned (s : State) : readDawn s a = 0 := by
  unfold readDawn
  split
  case h_8 => exact if_neg (by have := h (0x3010, 0x3034) (by decide); simp; omega)
  all_goals exact absurd h (by decide)

theorem regReadEffect_unassigned (ha : a % 4 = 0) (s : State) : regReadEffect s a = s := by
  unfold regReadEffect
  split
  case h_3 => rw [h.counterSlot ha]
  all_goals exact absurd h (by decide)

theorem writePower_unassigned (s : State) (v : Word) : writePower s a v = s := by
  unfold writePower
  split
  case h_8 => rfl
  all_goals exact absurd h (by decide)

theorem writeQueues_unassigned (lo : 0x0800 ≤ a) (s : State) (v : Word) : writeQueues s a v = s := by
  unfold writeQueues
  split
  case h_4 =>
    split
    · exact writeQueue_above (h.queueOffset lo ‹_›) s _ v
    · rfl
  all_goals exact absurd h (by decide)

theorem writeNum_unassigned (s : State) (v : Word) : writeNum s a v = s := by
  unfold writeNum
  split
  case h_7 => rfl
  all_goals exact absurd h (by decide)

theorem writeTrapCounters_unassigned (ha : a % 4 = 0) (s : State) (v : Word) : writeTrapCounters s a v = s := by
  unfold writeTrapCounters
  split
  case h_3 => rw [h.counterSlot ha]
  all_goals exact absurd h (by decide)

theorem writeErrors_unassigned (s : State) (v : Word) : writeErrors s a v = s := by
  unfold writeErrors
  split
  case h_10 => rfl
  all_goals exact absurd h (by decide)

theorem writeDawn_unassigned (s : State) (v : Word) : writeDawn s a v = s := by
  unfold writeDawn
  split
  case h_6 => rfl
  all_goals exact absurd h (by decide)

theorem regRead_unassigned (ha : a % 4 = 0) (s : State) : regRead s a = 0 := by
  unfold regRead
  split_ifs
  · exact readId_unassigned h s
  · exact readPower_unassigned h s
  · exact readQueues_unassigned h (by omega) s
  · exact NumRegs.read_unassigned h s.num _
  · exact readTrapCounters_unassigned h ha s
  · exact readErrors_unassigned h s
  · exact readDawn_unassigned h s
  · rfl

theorem regWrite_unassigned (ha : a % 4 = 0) (s : State) (v : Word) : regWrite s a v = s := by
  unfold regWrite
  split_ifs
  · rfl
  · exact writePower_unassigned h s v
  · exact writeQueues_unassigned h (by omega) s v
  · exact writeNum_unassigned h s v
  · exact writeTrapCounters_unassigned h ha s v
  · exact writeErrors_unassigned h s v
  · exact writeDawn_unassigned h s v
  · rfl

theorem stallAddr_unassigned (ha : a % 4 = 0) : stallAddr a = false := by
  simp [stallAddr, h.counterSlot ha]

end Unassigned

/-! ### A misaligned address -/

theorem portWrite_misaligned {a : BitVec 16} (ha : a.toNat % 4 ≠ 0) (s : State) (v : Word) : portWrite s a v = s.drive (.reg 0 true) :=
  if_pos ha

theorem portRead_misaligned {a : BitVec 16} (ha : a.toNat % 4 ≠ 0) (s : State) : portRead s a = s.drive (.reg 0 true) :=
  if_pos ha

/-- Settles O20: an address is misaligned, in no table, or that of a register whose word is given. -/
theorem portAddressRules : Obligations.PortAddressRules := by
  intro s a v hs
  refine ⟨fun ha => ⟨congrArg Host.Outcome.next ?write, congrArg Host.Outcome.next (portRead_misaligned ha s)⟩,
    fun ha h => ⟨congrArg Host.Outcome.next ?unassignedWrite, State.Answers.read ?unassignedRead hs⟩, fun x hx => State.Answers.read ?held hs⟩
  case write =>
    rw [State.regPort, portWrite_misaligned ha]
    exact State.dropStopped_of_enable fun _ h => h
  case unassignedWrite =>
    exact regPort_of_regWrite hs ha (stallAddr_unassigned h ha) (regWrite_unassigned h ha s v) fun _ h => h
  case unassignedRead => exact ⟨ha, stallAddr_unassigned h ha, regReadEffect_unassigned h ha s, regRead_unassigned h ha s⟩
  case held =>
    rcases hx with hx | ⟨q, hx⟩
    · refine State.answers_of_mem hx ?_
      simp only [List.forall_mem_cons]
      exact ⟨⟨rfl, rfl, rfl, rfl⟩, ⟨rfl, rfl, rfl, rfl⟩, ⟨rfl, rfl, rfl, readId_twin s⟩, ⟨rfl, rfl, rfl, s.powerStatus_fields⟩,
        ⟨rfl, rfl, rfl, s.pairStatus_fields⟩, ⟨rfl, rfl, rfl, w32_toNat _⟩, ⟨rfl, rfl, rfl, rfl⟩, ⟨rfl, rfl, rfl, rfl⟩,
        ⟨rfl, rfl, rfl, rfl⟩, ⟨rfl, rfl, rfl, s.trapRec0_fields⟩, ⟨rfl, rfl, rfl, rfl⟩, ⟨rfl, rfl, rfl, rfl⟩, ⟨rfl, rfl, rfl, rfl⟩,
        ⟨rfl, rfl, rfl, rfl⟩, ⟨rfl, rfl, rfl, rfl⟩, ⟨rfl, rfl, rfl, rfl⟩, ⟨rfl, rfl, rfl, rfl⟩, ⟨rfl, rfl, rfl, rfl⟩,
        ⟨rfl, rfl, rfl, rfl⟩, ⟨rfl, rfl, rfl, rfl⟩, ⟨rfl, rfl, rfl, rfl⟩, ⟨rfl, rfl, rfl, w32_toNat _⟩, ⟨rfl, rfl, rfl, w32_toNat _⟩, nofun⟩
    · refine State.answers_of_mem hx ?_
      simp only [List.forall_mem_cons]
      exact ⟨s.answers_tail q, s.answers_head q, nofun⟩

end Sys2Proof.Machine
